-- ==== Sys2Proof/Word.lean ====
section
/-! DEFINITION. The word types of the Phovia C64 package and of the Ziene instruction set (R6, R61): bits are bit
vectors, counts are natural numbers. -/

namespace Sys2Proof

/-- A 64-bit value: an a or k register, an instruction word, a control register. -/
abbrev Word := BitVec 64

/-- One byte of any memory (R6). -/
abbrev Byte := BitVec 8

/-- One 32-bit lane of a vector register (R219). -/
abbrev Lane := BitVec 32

/-- The column classes of R19 that execute words. -/
inductive Col where
  | s | a | v | m | f | x
  deriving DecidableEq, Repr, Inhabited

/-- The CLS code of a column (R19). -/
def Col.cls : Col → BitVec 3
  | .s => 0 | .a => 1 | .v => 2 | .m => 3 | .f => 4 | .x => 5

/-- The column of a CLS code; 110 and 111 name none (R19). -/
def Col.ofCls (c : BitVec 3) : Option Col :=
  if c = 0 then some .s else if c = 1 then some .a else if c = 2 then some .v
  else if c = 3 then some .m else if c = 4 then some .f else if c = 5 then some .x else none

/-- The place of a column in the order S, A, V, M, F, X of R83. -/
def Col.place : Col → Nat
  | .s => 0 | .a => 1 | .v => 2 | .m => 3 | .f => 4 | .x => 5

end Sys2Proof
end

