-- ==== Sys2Proof/Config.lean ====
section
/-! DEFINITION. What one implementation fixes and the specification leaves open: constants without a body, so no proof can
see their values. -/

namespace Sys2Proof

/-- The fault reported for a core-column clause in handler mode: R187 makes it a handler fault and names no code (TRAPC in
the low byte, detail above it). -/
opaque Config.handlerClauseFault : Nat

/-- The latest effect cycle among the operations that the other members of a gang have issued before a fence (R154), or for the task at
its end (R156, R364): task identifier and issue cycle of the fence or of the end. The other packages are outside the machine: log entry 7. -/
opaque Config.peerEffect : Nat → Nat → Nat

/-- The pod slot of the package of a gang's member rank 0 (R323), by GANGTAG: another package knows it. -/
opaque Config.rank0Slot : Nat → Nat

/-- How many domain cycles an action takes for which the specification gives at most a bound: which action, and the DCC at
which it begins. -/
opaque Config.within : Nat → Nat → Nat

/-- A field that the specification names and gives no value: which field, of what, in which domain cycle. -/
opaque Config.openField : Nat → Nat → Nat → Nat

/-- The DRAM row of a module that holds a sector (R339): the module and the sector's place. The row's stack is the row modulo 8. No
rule maps addresses to rows. -/
opaque Config.dramRow : Nat → Nat → Nat

/-- The post-package repairs that the devices of a stack have resources for (R339), at 8 module + stack. -/
opaque Config.repairs : Nat → Nat

/-- The encryption policy of the optical scale-up ports as fused (R423, R433): bit i for port 32 + i when i < 40, and for port
64 + i otherwise. -/
opaque Config.encPolicy : BitVec 80

/-- AES-256-GCM (R423): key, IV and payload give the sealed payload and its tag. The specification names the algorithm and does not
define it. -/
opaque Config.gcm : BitVec 256 → BitVec 96 → List (BitVec 8) → List (BitVec 8) × BitVec 128

/-- Eye height and width that a margin scan reads (R413): port, ring and DCC. What the light shows comes from outside. -/
opaque Config.eye : Nat → Nat → Nat → Nat × Nat

/-- The package serial of the device certificate (R432). -/
opaque Config.serial : BitVec 64

/-- SHA-256 digests that the fuses, the ROM and the firmware copies fix (R431, R433): 0 the ROM, 1 the fused key hash, 2 the
certificate chain; of a copy by its data. -/
opaque Config.digest : Nat → BitVec 256
opaque Config.copyDigest : List (Nat × BitVec 8) → BitVec 256

/-- What a firmware copy's bytes say of it (R431): its SVN, the SHA-256 digest of its public key, and that its signature verifies. The
layout of the header is not given, and SHA-256 and RSASSA-PKCS1-v1_5 are named, not defined. -/
opaque Config.fwSvn : List (Nat × BitVec 8) → Nat
opaque Config.fwKeyHash : List (Nat × BitVec 8) → BitVec 256
opaque Config.fwSigned : List (Nat × BitVec 8) → Bool

/-- An image that the maker has signed with the fused key (R431): there is one. -/
opaque Config.fwImage : List (Nat × BitVec 8)

/-- The certificates of slot 0 (R432): 0 the device's, 1 the intermediate, 2 the root; and the signature of a response by its
content. -/
opaque Config.certificate : Nat → List (BitVec 8)
opaque Config.signature : List Nat → Nat

/-- The fused drift end value of a die's monitor (R441), by component. -/
opaque Config.dieEnd : Nat → Int

end Sys2Proof
end

