-- ==== Sys2Proof/Machine/Sparse.lean ====
section
/-! DEFINITION. Sparse maps in one canonical form: keys strictly rising, and no entry equal to what an unlisted key
reads as. Every memory and every register file of the model is one of these, so equal contents are equal data. -/

namespace Sys2Proof.Machine

/-- A finite map from natural keys; an unlisted key reads as the default the reader names. -/
abbrev Sparse (α : Type) := List (Nat × α)

namespace Sparse

variable {α : Type}

/-- The value at a key; `d` is what an unlisted key reads as. -/
def get (d : α) : Sparse α → Nat → α
  | [], _ => d
  | (k, v) :: m, i => if k = i then v else get d m i

/-- The map without a key. -/
def del : Sparse α → Nat → Sparse α
  | [], _ => []
  | (k, v) :: m, i => if k = i then del m i else (k, v) :: del m i

/-- The map with an entry put before the first larger key. -/
def put (i : Nat) (x : α) : Sparse α → Sparse α
  | [] => [(i, x)]
  | (k, v) :: m => if i < k then (i, x) :: (k, v) :: m else (k, v) :: put i x m

/-- Write one key: a value equal to the default removes the entry. -/
def set [DecidableEq α] (d : α) (m : Sparse α) (i : Nat) (x : α) : Sparse α :=
  if x = d then del m i else put i x (del m i)

/-- Change every value; one that becomes the default leaves the map. -/
def mapVals [DecidableEq α] (d : α) (f : α → α) : Sparse α → Sparse α
  | [] => []
  | (k, v) :: m => set d (mapVals d f m) k (f v)

/-- Write a run of consecutive keys. -/
def setList [DecidableEq α] (d : α) (m : Sparse α) (i : Nat) : List α → Sparse α
  | [] => m
  | x :: xs => setList d (set d m i x) (i + 1) xs

/-- Read `n` consecutive keys. -/
def getList (d : α) (m : Sparse α) (i : Nat) : Nat → List α
  | 0 => []
  | n + 1 => get d m i :: getList d m (i + 1) n

/-- Write a list of (key, value) pairs in order, so the last write to a key remains. -/
def setMany [DecidableEq α] (d : α) (m : Sparse α) : List (Nat × α) → Sparse α
  | [] => m
  | (i, x) :: xs => setMany d (set d m i x) xs

/-- Every key of the map is above `lo`, keys rise strictly and no entry holds the default. -/
def wfAbove [DecidableEq α] (d : α) (lo : Nat) : Sparse α → Bool
  | [] => true
  | (k, v) :: m => decide (lo ≤ k) && decide (v ≠ d) && wfAbove d (k + 1) m

/-- The canonical form. -/
def wf [DecidableEq α] (d : α) (m : Sparse α) : Bool := wfAbove d 0 m

end Sparse

/-- A byte memory: an unlisted byte reads as zero (R140 for the local store; for module and host memory a design
choice of the assumption log). -/
abbrev Memory := Sparse Byte

namespace Memory

/-- One byte. -/
def byte (m : Memory) (a : Nat) : Byte := Sparse.get 0 m a

/-- Store one byte. -/
def put (m : Memory) (a : Nat) (b : Byte) : Memory := Sparse.set 0 m a b

/-- The little-endian number held in `n` bytes from `a` (R6). -/
def nat (m : Memory) (a : Nat) : Nat → Nat
  | 0 => 0
  | n + 1 => (byte m a).toNat + 256 * nat m (a + 1) n

/-- `n` bytes from `a`. -/
def bytes (m : Memory) (a n : Nat) : List Byte := Sparse.getList 0 m a n

/-- Store bytes from `a` upward. -/
def putBytes (m : Memory) (a : Nat) (bs : List Byte) : Memory := Sparse.setList 0 m a bs

/-- The canonical form of a memory. -/
abbrev wf (m : Memory) : Bool := Sparse.wf 0 m

end Memory

/-- The little-endian number of a byte list (R6). -/
def leNat : List Byte → Nat
  | [] => 0
  | b :: bs => b.toNat + 256 * leNat bs

/-- The `n` little-endian bytes of a number (R6). -/
def leBytes : Nat → Nat → List Byte
  | 0, _ => []
  | n + 1, x => BitVec.ofNat 8 x :: leBytes n (x / 256)

/-- Bits [lo + w - 1 : lo] of a number. -/
def bitsOf (x lo w : Nat) : Nat := (x / 2 ^ lo) % 2 ^ w

/-- Bit `i` of a number. -/
def bitOf (x i : Nat) : Bool := (x / 2 ^ i) % 2 == 1

/-- The value of the low `w` bits of `x` read in two's complement. -/
def signedOf (x w : Nat) : Int :=
  let y := x % 2 ^ w
  if y < 2 ^ (w - 1) then (y : Int) else (y : Int) - 2 ^ w

/-- The low `w` bits of an integer. -/
def wrapTo (w : Nat) (i : Int) : Nat := (i % (2 ^ w : Int)).toNat

/-- Clamp an integer to a range. -/
def clampInt (lo hi x : Int) : Int := if x < lo then lo else if hi < x then hi else x

/-- ⌈a / b⌉ for b > 0 (R5). -/
def ceilDiv (a b : Nat) : Nat := (a + b - 1) / b

end Sys2Proof.Machine
end

