-- ==== Sys2Proof/Machine/Float.lean ====
section
/-! DEFINITION. Number formats and arithmetic (03_numbers.md): element formats, rounding, conversion, comparison,
sums and products, MX blocks and the reduction arithmetic. Every value is exact (an integer times a power of two)
until it is rounded once. -/

namespace Sys2Proof.Machine

/-! ## Values -/

/-- A number of the form n × 2^e, exactly. -/
structure Dy where
  n : Int
  e : Int
  deriving DecidableEq, Repr

namespace Dy

/-- The integer `n` shifted so that the exponent becomes `e` (for e at or below the number's own exponent). -/
def atExp (x : Dy) (e : Int) : Int := x.n * 2 ^ (x.e - e).toNat

/-- Exact sum. -/
def add (x y : Dy) : Dy :=
  let e := if x.e ≤ y.e then x.e else y.e
  ⟨x.atExp e + y.atExp e, e⟩

/-- Exact negation. -/
def neg (x : Dy) : Dy := ⟨-x.n, x.e⟩

/-- Exact product. -/
def mul (x y : Dy) : Dy := ⟨x.n * y.n, x.e + y.e⟩

/-- Exact comparison x < y. -/
def lt (x y : Dy) : Bool := decide ((add x (neg y)).n < 0)

/-- Exact equality of values. -/
def eqv (x y : Dy) : Bool := decide ((add x (neg y)).n = 0)

/-- Exact scaling by a power of two. -/
def scale (x : Dy) (k : Int) : Dy := ⟨x.n, x.e + k⟩

/-- Exact sum of a list. -/
def sum : List Dy → Dy
  | [] => ⟨0, 0⟩
  | x :: xs => add x (sum xs)

end Dy

/-- What a code of a floating-point format stands for (R94, R95). A zero keeps its sign. -/
inductive FVal where
  | nan (signalling : Bool)
  | inf (neg : Bool)
  | fin (neg : Bool) (m : Nat) (e : Int)
  deriving DecidableEq, Repr

/-- The exact value of a finite code. -/
def FVal.dy : FVal → Dy
  | .fin neg m e => ⟨if neg then -(m : Int) else (m : Int), e⟩
  | _ => ⟨0, 0⟩

/-- The value is a NaN. -/
def FVal.isNan : FVal → Bool
  | .nan _ => true
  | _ => false

/-- The value is a signalling NaN. -/
def FVal.isSnan : FVal → Bool
  | .nan b => b
  | _ => false

/-- The value is a zero of either sign. -/
def FVal.isZero : FVal → Bool
  | .fin _ m _ => m == 0
  | _ => false

/-- The sign bit of a value (false for a NaN). -/
def FVal.sign : FVal → Bool
  | .nan _ => false
  | .inf n => n
  | .fin n _ _ => n

/-! ## Formats -/

/-- How a format treats its topmost exponent (R94). -/
inductive FKind where
  | ieee   -- infinities and NaN codes
  | e4m3   -- one NaN code of each sign, no infinity
  | finite -- neither
  deriving DecidableEq, Repr

/-- A floating-point element format: code width, exponent width, mantissa width, bias (R94). -/
structure Fmt where
  w : Nat
  ew : Nat
  mw : Nat
  bias : Nat
  kind : FKind
  deriving DecidableEq, Repr

/-- FP32 (R94). -/
def fmtF32 : Fmt := ⟨32, 8, 23, 127, .ieee⟩
/-- BF16 (R94). -/
def fmtBf16 : Fmt := ⟨16, 8, 7, 127, .ieee⟩
/-- FP16 (R94). -/
def fmtF16 : Fmt := ⟨16, 5, 10, 15, .ieee⟩
/-- FP8 E4M3 (R94). -/
def fmtE4m3 : Fmt := ⟨8, 4, 3, 7, .e4m3⟩
/-- FP8 E5M2 (R94). -/
def fmtE5m2 : Fmt := ⟨8, 5, 2, 15, .ieee⟩
/-- FP4 E2M1 (R94). -/
def fmtE2m1 : Fmt := ⟨4, 2, 1, 1, .finite⟩
/-- FP6 E3M2 (R94). -/
def fmtE3m2 : Fmt := ⟨6, 3, 2, 3, .finite⟩
/-- FP6 E2M3 (R94). -/
def fmtE2m3 : Fmt := ⟨6, 2, 3, 1, .finite⟩

namespace Fmt

/-- The sign bit placed at the top of a code. -/
def signBit (f : Fmt) (neg : Bool) : Nat := if neg then 2 ^ (f.w - 1) else 0

/-- The exponent field with every bit set. -/
def eTop (f : Fmt) : Nat := 2 ^ f.ew - 1

/-- The magnitude code of the largest finite value (R94). -/
def maxCode (f : Fmt) : Nat :=
  match f.kind with
  | .ieee => (f.eTop - 1) * 2 ^ f.mw + (2 ^ f.mw - 1)
  | .e4m3 => f.eTop * 2 ^ f.mw + (2 ^ f.mw - 2)
  | .finite => f.eTop * 2 ^ f.mw + (2 ^ f.mw - 1)

/-- The canonical NaN code, for a format that has NaN codes (R94). -/
def canonNan (f : Fmt) : Nat :=
  match f.kind with
  | .ieee => f.eTop * 2 ^ f.mw + 2 ^ (f.mw - 1)
  | .e4m3 => 2 ^ (f.w - 1) - 1
  | .finite => 0

/-- The format has NaN codes (R94). -/
def hasNan (f : Fmt) : Bool := f.kind != .finite

/-- The code of an infinity, in a format that has them. -/
def infCode (f : Fmt) (neg : Bool) : Nat := f.signBit neg + f.eTop * 2 ^ f.mw

/-- The exponent of a unit in the last place of the subnormals. -/
def minQ (f : Fmt) : Int := 1 - (f.bias : Int) - (f.mw : Int)

/-- What a code stands for; bits above the format's width are ignored (R95, R220). -/
def value (f : Fmt) (code : Nat) : FVal :=
  let c := code % 2 ^ f.w
  let neg := bitOf c (f.w - 1)
  let ex := bitsOf c f.mw f.ew
  let m := c % 2 ^ f.mw
  if ex = f.eTop ∧ f.kind = .ieee then
    if m = 0 then .inf neg else .nan (!bitOf m (f.mw - 1))
  else if ex = f.eTop ∧ f.kind = .e4m3 ∧ m = 2 ^ f.mw - 1 then .nan false
  else if ex = 0 then .fin neg m f.minQ
  else .fin neg (2 ^ f.mw + m) ((ex : Int) - f.bias - f.mw)

/-- The code is one of the format's NaN codes. -/
def isNanCode (f : Fmt) (code : Nat) : Bool := (f.value code).isNan

/-- The exact value of the largest finite code. -/
def maxDy (f : Fmt) : Dy := (f.value f.maxCode).dy

end Fmt

/-! ## Rounding -/

/-- Rounding modes (R65, R98). -/
inductive Rnd where
  | rn | rz | rd | ru
  deriving DecidableEq, Repr

/-- The mode of an RND code (R65). -/
def Rnd.ofCode (c : BitVec 2) : Rnd :=
  if c = 0 then .rn else if c = 1 then .rz else if c = 2 then .rd else .ru

/-- The numeric events one element may raise (R130); bound hits and poison are counted apart. -/
structure NumEv where
  inv : Bool := false
  ovf : Bool := false
  unf : Bool := false
  inx : Bool := false
  deriving DecidableEq, Repr

/-- No event. -/
def NumEv.none : NumEv := {}

/-- Both sets of events; an element counts each event once (R131). -/
def NumEv.or (a b : NumEv) : NumEv := ⟨a.inv || b.inv, a.ovf || b.ovf, a.unf || b.unf, a.inx || b.inx⟩

/-- A code together with the events of making it. -/
structure FRes where
  code : Nat
  ev : NumEv
  deriving DecidableEq, Repr

/-- The magnitude m × 2^e, or a value strictly between m and m + 1 units when `sticky`, rounded to a multiple of
2^q: the multiple and whether it differs from the value (R98). -/
def roundAt (mode : Rnd) (neg : Bool) (m : Nat) (e : Int) (sticky : Bool) (q : Int) : Nat × Bool :=
  if q ≤ e then
    let n := m * 2 ^ (e - q).toNat
    let up := sticky && (match mode with | .rn => false | .rz => false | .rd => neg | .ru => !neg)
    (if up then n + 1 else n, sticky)
  else
    let d := (q - e).toNat
    let n := m / 2 ^ d
    let r := m % 2 ^ d
    let half := 2 ^ (d - 1)
    let exact := r == 0 && !sticky
    let up := match mode with
      | .rn => decide (half < r) || (r == half && (sticky || n % 2 == 1))
      | .rz => false
      | .rd => neg && !exact
      | .ru => !neg && !exact
    (if up then n + 1 else n, !exact)

/-- The exponent of the leading bit of a positive magnitude m × 2^e. -/
def leadExp (m : Nat) (e : Int) : Int := (Nat.log2 m : Int) + e

/-- The magnitude code of n × 2^q, where q is a unit of the format and n has at most one bit more than a mantissa. -/
def Fmt.packMag (f : Fmt) (n : Nat) (q : Int) : Nat :=
  if n < 2 ^ f.mw then n
  else if n = 2 ^ (f.mw + 1) then ((q + 1 + f.mw + f.bias).toNat) * 2 ^ f.mw
  else ((q + f.mw + f.bias).toNat) * 2 ^ f.mw + (n - 2 ^ f.mw)

/-- The result of an overflow (R99, R100): `sat` gives the largest finite value of the sign. -/
def Fmt.overflowCode (f : Fmt) (mode : Rnd) (sat neg : Bool) : Nat :=
  let toInf := match mode with | .rn => true | .rz => false | .rd => neg | .ru => !neg
  if sat || !toInf then f.signBit neg + f.maxCode
  else match f.kind with
    | .ieee => f.infCode neg
    | .e4m3 => f.signBit neg + f.canonNan
    | .finite => f.signBit neg + f.maxCode

/-- Round a non-zero magnitude into a format (R98 to R100): the code, and the overflow, underflow (tiny and inexact)
and inexact-in-narrow-store events; the last only for formats of 16 bits or fewer (R130). -/
def Fmt.roundMag (f : Fmt) (mode : Rnd) (sat neg : Bool) (m : Nat) (e : Int) (sticky : Bool) : FRes :=
  let lead := leadExp m e
  let qn := lead - f.mw
  let q := if qn < f.minQ then f.minQ else qn
  let (n, inexact) := roundAt mode neg m e sticky q
  let (nu, _) := roundAt mode neg m e sticky qn
  let tiny := Dy.lt ⟨nu, qn⟩ ⟨1, 1 - (f.bias : Int)⟩
  if Dy.lt f.maxDy ⟨n, q⟩ then
    ⟨f.overflowCode mode sat neg, { ovf := true, inx := decide (f.w ≤ 16) }⟩
  else
    ⟨f.signBit neg + f.packMag n q, { unf := tiny && inexact, inx := inexact && decide (f.w ≤ 16) }⟩

/-- Round an exact value; `zneg` is the sign an exact zero takes. -/
def Fmt.roundDy (f : Fmt) (mode : Rnd) (sat zneg : Bool) (x : Dy) : FRes :=
  if x.n = 0 then ⟨f.signBit zneg, {}⟩
  else f.roundMag mode sat (decide (x.n < 0)) x.n.natAbs x.e false

/-! ## FP32 arithmetic (R111 to R113) -/

/-- The FP32 value of a lane. -/
def f32 (x : Lane) : FVal := fmtF32.value x.toNat

/-- The canonical FP32 NaN (R112). -/
def nan32 : Nat := 0x7FC00000

/-- Events of arithmetic are invalid, overflow and underflow; inexact-in-narrow-store belongs to conversions (R130). -/
def arithEv (e : NumEv) : NumEv := { e with inx := false }

/-- The sign of an exact zero sum of two values (R101). -/
def zeroSumSign (mode : Rnd) (xneg yneg xzero yzero : Bool) : Bool :=
  if xzero && yzero && xneg == yneg then xneg else mode == .rd

/-- x + y of two FP32 values (R111, R112, R101). -/
def faddV (mode : Rnd) (x y : FVal) : FRes :=
  let inv := x.isSnan || y.isSnan
  match x, y with
  | .nan _, _ => ⟨nan32, { inv := inv }⟩
  | _, .nan _ => ⟨nan32, { inv := inv }⟩
  | .inf a, .inf b => if a = b then ⟨fmtF32.infCode a, {}⟩ else ⟨nan32, { inv := true }⟩
  | .inf a, .fin _ _ _ => ⟨fmtF32.infCode a, {}⟩
  | .fin _ _ _, .inf b => ⟨fmtF32.infCode b, {}⟩
  | .fin a m e, .fin b n g =>
    let r := fmtF32.roundDy mode false (zeroSumSign mode a b (m == 0) (n == 0)) (Dy.add (FVal.fin a m e).dy (FVal.fin b n g).dy)
    ⟨r.code, arithEv r.ev⟩

/-- The value with its sign inverted. -/
def FVal.negate : FVal → FVal
  | .nan b => .nan b
  | .inf n => .inf (!n)
  | .fin n m e => .fin (!n) m e

/-- x × y of two FP32 values (R111, R112). -/
def fmulV (mode : Rnd) (x y : FVal) : FRes :=
  let inv := x.isSnan || y.isSnan
  let sg := x.sign != y.sign
  match x, y with
  | .nan _, _ => ⟨nan32, { inv := inv }⟩
  | _, .nan _ => ⟨nan32, { inv := inv }⟩
  | .inf _, y => if y.isZero then ⟨nan32, { inv := true }⟩ else ⟨fmtF32.infCode sg, {}⟩
  | x, .inf _ => if x.isZero then ⟨nan32, { inv := true }⟩ else ⟨fmtF32.infCode sg, {}⟩
  | .fin a m e, .fin b n g =>
    let r := fmtF32.roundDy mode false sg (Dy.mul (FVal.fin a m e).dy (FVal.fin b n g).dy)
    ⟨r.code, arithEv r.ev⟩

/-- x × y + z rounded once (R111); 0 × ∞ and ∞ − ∞ are invalid whatever the addend (R112). -/
def ffmaV (mode : Rnd) (x y z : FVal) : FRes :=
  let inv := x.isSnan || y.isSnan || z.isSnan
  let bad := match x, y with
    | .inf _, y => y.isZero
    | x, .inf _ => x.isZero
    | _, _ => false
  let sg := x.sign != y.sign
  let pInf := match x, y with
    | .inf _, _ => true
    | _, .inf _ => true
    | _, _ => false
  if bad then ⟨nan32, { inv := true }⟩
  else if x.isNan || y.isNan || z.isNan then ⟨nan32, { inv := inv }⟩
  else if pInf then
    match z with
    | .inf b => if b = sg then ⟨fmtF32.infCode sg, {}⟩ else ⟨nan32, { inv := true }⟩
    | _ => ⟨fmtF32.infCode sg, {}⟩
  else match z with
    | .inf b => ⟨fmtF32.infCode b, {}⟩
    | _ =>
      let p := Dy.mul x.dy y.dy
      let r := fmtF32.roundDy mode false (zeroSumSign mode sg z.sign (x.isZero || y.isZero) z.isZero) (Dy.add p z.dy)
      ⟨r.code, arithEv r.ev⟩

/-- x < y for values that are not NaN, with the infinities; −0 equals +0. -/
def FVal.ltv (x y : FVal) : Bool :=
  match x, y with
  | .inf a, .inf b => a && !b
  | .inf a, _ => a
  | _, .inf b => !b
  | x, y => Dy.lt x.dy y.dy

/-- Equality of values that are not NaN; −0 equals +0. -/
def FVal.eqv (x y : FVal) : Bool :=
  match x, y with
  | .inf a, .inf b => a == b
  | .inf _, _ => false
  | _, .inf _ => false
  | x, y => Dy.eqv x.dy y.dy

/-- x < y with −0 ordered below +0 (R127, R227). -/
def FVal.ltTotal (x y : FVal) : Bool := x.ltv y || (x.eqv y && x.sign && !y.sign)

/-- The lesser (`mx` false) or greater of two FP32 codes, the canonical NaN when either is NaN (R227, R127). -/
def fminmax (mx : Bool) (a b : Lane) : FRes :=
  let x := f32 a
  let y := f32 b
  if x.isNan || y.isNan then ⟨nan32, { inv := x.isSnan || y.isSnan }⟩
  else if mx then ⟨if x.ltTotal y then b.toNat else a.toNat, {}⟩
  else ⟨if y.ltTotal x then b.toNat else a.toNat, {}⟩

/-- The condition codes of R66. -/
inductive Cond where
  | none | eq | ne | lt | le | gt | ge | ltu | leu | ord | uno
  deriving DecidableEq, Repr

/-- The condition of a CND code; reserved codes read as none and are refused before use (R66). -/
def Cond.ofCode (c : BitVec 4) : Cond :=
  match c.toNat with
  | 1 => .eq | 2 => .ne | 3 => .lt | 4 => .le | 5 => .gt | 6 => .ge | 7 => .ltu | 8 => .leu | 9 => .ord | 10 => .uno
  | _ => .none

/-- Floating-point comparison (R113). -/
def fcmp (c : Cond) (x y : FVal) : Bool :=
  let un := x.isNan || y.isNan
  match c with
  | .eq => !un && x.eqv y
  | .ne => un || !x.eqv y
  | .lt => !un && x.ltv y
  | .le => !un && (x.ltv y || x.eqv y)
  | .gt => !un && y.ltv x
  | .ge => !un && (y.ltv x || x.eqv y)
  | .ord => !un
  | .uno => un
  | _ => false

/-- Integer comparison at width w of two codes (R206, R229). -/
def icmp (c : Cond) (w x y : Nat) : Bool :=
  let ux := x % 2 ^ w
  let uy := y % 2 ^ w
  let sx := signedOf x w
  let sy := signedOf y w
  match c with
  | .eq => ux == uy
  | .ne => ux != uy
  | .lt => decide (sx < sy)
  | .le => decide (sx ≤ sy)
  | .gt => decide (sy < sx)
  | .ge => decide (sy ≤ sx)
  | .ltu => decide (ux < uy)
  | .leu => decide (ux ≤ uy)
  | _ => false

/-- The class word of VCLASS (R227). -/
def fclass (x : Lane) : Nat :=
  match f32 x with
  | .nan true => 1
  | .nan false => 2
  | .inf true => 4
  | .inf false => 512
  | .fin neg m _ =>
    if m = 0 then (if neg then 32 else 64)
    else if m < 2 ^ 23 then (if neg then 16 else 128)
    else (if neg then 8 else 256)

/-! ## Element types and conversions (R64, R97, R102 to R110) -/

/-- The element types of R64. -/
inductive Ty where
  | none | f32 | bf16 | f16 | e4m3 | e5m2 | e2m1 | e3m2 | e2m3 | e8m0 | i8 | ui8 | i16 | ui16 | i32 | ui32 | i64
  deriving DecidableEq, Repr

/-- The type of a TY code; a reserved code has none (R64). -/
def Ty.ofCode (c : BitVec 5) : Option Ty :=
  match c.toNat with
  | 0 => some .none | 1 => some .f32 | 2 => some .bf16 | 3 => some .f16 | 4 => some .e4m3 | 5 => some .e5m2
  | 6 => some .e2m1 | 7 => some .e3m2 | 8 => some .e2m3 | 9 => some .e8m0 | 16 => some .i8 | 17 => some .ui8
  | 18 => some .i16 | 19 => some .ui16 | 20 => some .i32 | 21 => some .ui32 | 22 => some .i64 | _ => Option.none

/-- The type a word uses, a reserved code reading as none (it is refused at dispatch). -/
def Ty.of (c : BitVec 5) : Ty := (Ty.ofCode c).getD .none

/-- The floating-point format of a type, E8M0 apart. -/
def Ty.fmt : Ty → Option Fmt
  | .f32 => some fmtF32 | .bf16 => some fmtBf16 | .f16 => some fmtF16 | .e4m3 => some fmtE4m3 | .e5m2 => some fmtE5m2
  | .e2m1 => some fmtE2m1 | .e3m2 => some fmtE3m2 | .e2m3 => some fmtE2m3 | _ => Option.none

/-- Width and signedness of an integer type (R97). -/
def Ty.int : Ty → Option (Nat × Bool)
  | .i8 => some (8, true) | .ui8 => some (8, false) | .i16 => some (16, true) | .ui16 => some (16, false)
  | .i32 => some (32, true) | .ui32 => some (32, false) | .i64 => some (64, true) | _ => Option.none

/-- The range of an integer type (R97). -/
def intRange (w : Nat) (sg : Bool) : Int × Int :=
  if sg then (-(2 ^ (w - 1) : Int), 2 ^ (w - 1) - 1) else (0, 2 ^ w - 1)

/-- The exact value of an E8M0 code that is not NaN (R96). -/
def e8m0Dy (c : Nat) : Dy := ⟨1, (c % 256 : Nat) - (127 : Int)⟩

/-- The carried FP32 NaN of a narrow NaN code (R103). -/
def carriedNan (neg : Bool) (code : Nat) : Nat := fmtF32.signBit neg + 0x7FC00000 + code % 65536

/-- Widen a narrow floating-point code exactly to FP32 (R103). -/
def widen32 (t : Ty) (code : Nat) : Nat :=
  match t with
  | .f32 => code % 2 ^ 32
  | .e8m0 => if code % 256 = 255 then carriedNan false 255 else (fmtF32.roundDy .rn false false (e8m0Dy code)).code
  | t => match t.fmt with
    | some f =>
      let c := code % 2 ^ f.w
      match f.value c with
      | .nan _ => carriedNan (bitOf c (f.w - 1)) c
      | .inf neg => fmtF32.infCode neg
      | .fin neg m e => (fmtF32.roundDy .rn false neg (FVal.fin neg m e).dy).code
    | Option.none => code % 2 ^ 32

/-- Convert an FP32 NaN into a format (R104); a format without NaN raises invalid, whatever the source: log entry 141. -/
def nanTo (f : Fmt) (x : Nat) : FRes :=
  let carried := bitOf x 22 && bitsOf x 16 6 == 0
  if carried && f.w ≤ 16 && x % 65536 < 2 ^ f.w && f.isNanCode (x % 65536) then ⟨x % 65536, {}⟩
  else if f.hasNan then ⟨f.canonNan, { inv := !bitOf x 22 }⟩
  else ⟨0, { inv := true }⟩

/-- Convert an infinity into a format (R100). -/
def infTo (f : Fmt) (sat neg : Bool) : FRes :=
  if sat then ⟨f.signBit neg + f.maxCode, {}⟩
  else match f.kind with
    | .ieee => ⟨f.infCode neg, {}⟩
    | .e4m3 => ⟨f.signBit neg + f.canonNan, { inv := true }⟩
    | .finite => ⟨f.signBit neg + f.maxCode, { inv := true }⟩

/-- Convert an FP32 code to E8M0 (R109). -/
def toE8m0 (mode : Rnd) (sat : Bool) (x : Nat) : FRes :=
  match fmtF32.value x with
  | .nan _ => if bitOf x 22 && bitsOf x 16 6 == 0 && x % 65536 == 0x00FF then ⟨255, {}⟩ else ⟨255, { inv := true }⟩
  | .inf neg => if neg then ⟨255, { inv := true }⟩ else ⟨if sat then 254 else 255, {}⟩
  | .fin neg m e =>
    if m = 0 then ⟨0, { unf := true }⟩
    else if neg then ⟨255, { inv := true }⟩
    else
      let l := leadExp m e
      let exact := m == 2 ^ Nat.log2 m
      -- x compared with 1.5 × 2^l: 2x against 3 × 2^l
      let c := Dy.add ⟨2 * (m : Int), e⟩ (Dy.neg ⟨3, l⟩)
      let code : Int := match mode with
        | .rz => l + 127
        | .rd => l + 127
        | .ru => if exact then l + 127 else l + 128
        | .rn => if 0 < c.n then l + 128 else if c.n < 0 then l + 127 else if (l + 127) % 2 = 0 then l + 127 else l + 128
      if code < 0 then ⟨0, { unf := true }⟩
      else if 254 < code then ⟨if sat then 254 else 255, { ovf := true }⟩
      else ⟨code.toNat, { inx := !exact }⟩

/-- Round an exact value to an integer under a mode (R98, R106). -/
def roundInt (mode : Rnd) (x : Dy) : Int :=
  let neg := decide (x.n < 0)
  let (n, _) := roundAt mode neg x.n.natAbs x.e false 0
  if neg then -(n : Int) else n

/-- Convert a floating-point value to an integer type (R106). -/
def fToInt (mode : Rnd) (w : Nat) (sg : Bool) (x : FVal) : FRes :=
  let (lo, hi) := intRange w sg
  match x with
  | .nan _ => ⟨0, { inv := true }⟩
  | .inf neg => ⟨wrapTo w (if neg then lo else hi), { inv := true }⟩
  | .fin neg m e =>
    let i := roundInt mode (FVal.fin neg m e).dy
    ⟨wrapTo w (clampInt lo hi i), { inv := decide (i < lo) || decide (hi < i) }⟩

/-- The form in which a lane holds an integer code: sign- or zero-extended to 32 bits (R220). -/
def laneOfInt (w : Nat) (sg : Bool) (code : Nat) : Nat :=
  if sg then wrapTo 32 (signedOf code w) else code % 2 ^ w

/-- Convert an FP32 code into any floating-point type (R102, R104, R100, R109). -/
def f32To (t : Ty) (mode : Rnd) (sat : Bool) (x : Nat) : FRes :=
  match t with
  | .e8m0 => toE8m0 mode sat x
  | t => match t.fmt with
    | some f => match fmtF32.value x with
      | .nan _ => nanTo f x
      | .inf neg => infTo f sat neg
      | .fin neg m e => f.roundDy mode sat neg (FVal.fin neg m e).dy
    | Option.none => ⟨x, {}⟩

/-- Convert one element between any two of the types (R102 to R109): the source code, as an element of `src`, into the
lane form of `dst`. A narrow source goes through its exact FP32 value, which no rounding touches (R103). -/
def convert (src dst : Ty) (mode : Rnd) (sat : Bool) (code : Nat) : FRes :=
  match src.int, dst.int with
  | some (w, sg), some (w', sg') =>
    let v : Int := if sg then signedOf code w else ((code % 2 ^ w : Nat) : Int)
    let (lo, hi) := intRange w' sg'
    let r := wrapTo w' (if sat then clampInt lo hi v else v)
    ⟨laneOfInt w' sg' r, {}⟩
  | some (w, sg), Option.none =>
    let v : Int := if sg then signedOf code w else ((code % 2 ^ w : Nat) : Int)
    match dst.fmt with
    | some f => f.roundDy mode sat false ⟨v, 0⟩
    | Option.none => ⟨code, {}⟩
  | Option.none, some (w', sg') =>
    let r := fToInt mode w' sg' (fmtF32.value (widen32 src code))
    ⟨laneOfInt w' sg' r.code, r.ev⟩
  | Option.none, Option.none =>
    let x := widen32 src code
    if dst = .f32 ∧ src ≠ .f32 then
      (match fmtF32.value x with
      | .inf neg => infTo fmtF32 sat neg
      | _ => ⟨x, {}⟩)
    else f32To dst mode sat x

/-- Size in bytes of a type in memory, in half bytes (R239, R273). -/
def Ty.nibbles : Ty → Nat
  | .none => 8 | .f32 => 8 | .i32 => 8 | .ui32 => 8 | .i64 => 16 | .bf16 => 4 | .f16 => 4 | .i16 => 4 | .ui16 => 4
  | .e2m1 => 1 | _ => 2

/-! ## MX blocks (R115, R116) -/

/-- The exponent of the largest normal of an MX element format (R116). -/
def mxEmax : Ty → Int
  | .e4m3 => 8 | .e5m2 => 15 | .e2m1 => 2 | .e3m2 => 4 | _ => 2

/-- Form one MX block from 32 FP32 codes (R116): the scale code and the element codes with their events. -/
def vbqBlock (t : Ty) (mode : Rnd) (xs : List Nat) : Nat × List FRes :=
  let vals := xs.map fmtF32.value
  let bad := vals.any (fun v => match v with | .fin _ _ _ => false | _ => true)
  if bad then (255, xs.map (fun _ => ⟨0, {}⟩))
  else
    let lead : Option Int := vals.foldl (fun acc v => match v with
      | .fin _ m e => if m = 0 then acc else
          match acc with
          | some l => some (if l < leadExp m e then leadExp m e else l)
          | Option.none => some (leadExp m e)
      | _ => acc) Option.none
    let e := match lead with
      | some l => clampInt (-127) 127 (l - mxEmax t)
      | Option.none => -127
    let f := (t.fmt).getD fmtE2m1
    ((e + 127).toNat, vals.map (fun v =>
      let r := f.roundDy mode true v.sign (v.dy.scale (-e))
      ⟨if r.ev.ovf then f.signBit v.sign + f.maxCode else r.code, { unf := r.ev.unf, inx := r.ev.inx }⟩))

/-- Scale an MX element to FP32 with one rounding (R232). -/
def mxToF32 (t : Ty) (mode : Rnd) (scale code : Nat) : FRes :=
  if scale % 256 = 255 then ⟨nan32, {}⟩
  else match t.fmt with
    | some f =>
      let v := f.value code
      fmtF32.roundDy mode false v.sign (v.dy.scale ((scale % 256 : Nat) - (127 : Int)))
    | Option.none => ⟨0, {}⟩

/-! ## Dot products (R117 to R120) -/

/-- What one k-group sums to: NaN with or without an invalid event, an infinity, or an exact value with the sign of a
zero (R118). -/
inductive GSum where
  | nan (invalid : Bool)
  | inf (neg : Bool)
  | fin (zneg : Bool) (x : Dy)
  deriving DecidableEq, Repr

/-- The product of two element values as a group term (R118). -/
def gProd (x y : FVal) : GSum :=
  let inv := x.isSnan || y.isSnan
  let sg := x.sign != y.sign
  match x, y with
  | .nan _, _ => .nan inv
  | _, .nan _ => .nan inv
  | .inf _, y => if y.isZero then .nan true else .inf sg
  | x, .inf _ => if x.isZero then .nan true else .inf sg
  | x, y => .fin sg (Dy.mul x.dy y.dy)

/-- Add a term to a group sum (R118): NaN if any product is NaN or the infinities disagree; a zero sum is −0 only when
every product is −0. -/
def gAdd (a b : GSum) : GSum :=
  match a, b with
  | .nan i, .nan j => .nan (i || j)
  | .nan i, _ => .nan i
  | _, .nan j => .nan j
  | .inf x, .inf y => if x = y then .inf x else .nan true
  | .inf x, .fin _ _ => .inf x
  | .fin _ _, .inf y => .inf y
  | .fin zx x, .fin zy y => .fin (zx && zy && x.n == 0 && y.n == 0) (Dy.add x y)

/-- The terms of a group added up, a short group completed with zero products of sign + (R117, R118). -/
def gTotal (short : Bool) : List GSum → GSum
  | [] => .fin (!short) ⟨0, 0⟩
  | p :: ps => gAdd p (gTotal short ps)

/-- S_g of a list of products (R118, R119): infinities of both signs raise the invalid event in whatever order the products stand, also
beside a NaN product (log entry 115). -/
def gSum (short : Bool) (ps : List GSum) : GSum :=
  if ps.contains (.inf false) && ps.contains (.inf true) then .nan true else gTotal short ps

/-- T_g: the group sum scaled by the block scales (R118). Under a scale of 0xFF it is NaN, and what the products of the group raise
stands (log entry 116: R115 calls every element of such a block NaN, R118 forms the products before the scale). -/
def gScale (xa xb : Nat) (s : GSum) : GSum :=
  if xa = 255 ∨ xb = 255 then
    match s with
    | .nan i => .nan i
    | _ => .nan false
  else match s with
    | .fin z x => .fin z (x.scale ((xa : Int) + xb - 254))
    | s => s

/-- One accumulator step acc := round_rn(acc + T_g) (R119), with its events. -/
def accStep (acc : Nat) (t : GSum) : FRes :=
  let a := fmtF32.value acc
  match a, t with
  | .nan sg, .nan i => ⟨nan32, { inv := sg || i }⟩
  | .nan sg, _ => ⟨nan32, { inv := sg }⟩
  | _, .nan i => ⟨nan32, { inv := i }⟩
  | .inf x, .inf y => if x = y then ⟨fmtF32.infCode x, {}⟩ else ⟨nan32, { inv := true }⟩
  | .inf x, .fin _ _ => ⟨fmtF32.infCode x, {}⟩
  | .fin _ _ _, .inf y => ⟨fmtF32.infCode y, {}⟩
  | .fin sa m e, .fin z x =>
    let r := fmtF32.roundDy .rn false (zeroSumSign .rn sa z (m == 0) (x.n == 0)) (Dy.add (FVal.fin sa m e).dy x)
    ⟨r.code, arithEv r.ev⟩

/-- Accumulate groups in ascending order, collecting each event once (R119, R131). -/
def accGroups (acc : Nat) (ev : NumEv) : List GSum → FRes
  | [] => ⟨acc, ev⟩
  | t :: ts => let r := accStep acc t; accGroups r.code (ev.or r.ev) ts

/-! ## Reductions in exchange dies and modules (R125 to R129, R334, R361) -/

/-- Replace an FP32 subnormal by a zero of its own sign (R125). -/
def flush32 (x : Nat) : Nat :=
  if bitsOf x 23 8 = 0 then fmtF32.signBit (bitOf x 31) else x % 2 ^ 32

/-- One step of a floating-point sum node: both contributions flushed, one rounding, a subnormal result becomes +0
(R125, R126). -/
def nodeAdd (x y : Nat) : Nat :=
  let r := (faddV .rn (fmtF32.value (flush32 x)) (fmtF32.value (flush32 y))).code
  if bitsOf r 23 8 = 0 ∧ r % 2 ^ 23 ≠ 0 then 0 else r

/-- A minimum or maximum node (R127). -/
def nodeMinMax (mx : Bool) (x y : Nat) : Nat :=
  (fminmax mx (BitVec.ofNat 32 (flush32 x)) (BitVec.ofNat 32 (flush32 y))).code

/-- A node result delivered as BF16: rounded once, a subnormal becomes +0 (R125). -/
def nodeToBf16 (x : Nat) : Nat :=
  let r := (f32To .bf16 .rn false x).code
  if bitsOf r 7 8 = 0 ∧ r % 128 ≠ 0 then 0 else r

/-- The operations of a reduction node. -/
inductive NodeOp where
  | add | min | max
  deriving DecidableEq, Repr

/-- The lesser or greater of two signed 32-bit codes. -/
def iMinMax (mx : Bool) (x y : Nat) : Nat :=
  let lt := decide (signedOf x 32 < signedOf y 32)
  if mx then (if lt then y else x) else (if lt then x else y)

/-- node(x, y) on element codes of a type (R334, R361). -/
def node (t : Ty) (op : NodeOp) (x y : Nat) : Nat :=
  match t with
  | .i32 => match op with
    | .add => (x + y) % 2 ^ 32
    | .min => iMinMax false x y
    | .max => iMinMax true x y
  | .bf16 =>
    let wx := widen32 .bf16 x
    let wy := widen32 .bf16 y
    match op with
    | .add => nodeToBf16 (nodeAdd wx wy)
    | .min => nodeToBf16 (nodeMinMax false wx wy)
    | .max => nodeToBf16 (nodeMinMax true wx wy)
  | _ => match op with
    | .add => nodeAdd x y
    | .min => nodeMinMax false x y
    | .max => nodeMinMax true x y

/-- A NaN code replaced by the canonical NaN (R126). -/
def canon32 (x : Nat) : Nat := if (fmtF32.value x).isNan then nan32 else x

/-- The pooled sum of a bag of FP32 or INT32 contributions in ascending order (R125, R331): one contribution alone is
flushed, and an empty bag gives +0. -/
def poolSum (isInt : Bool) : List Nat → Nat
  | [] => 0
  | x :: xs =>
    if isInt then xs.foldl (fun s y => (s + y) % 2 ^ 32) (x % 2 ^ 32)
    else xs.foldl nodeAdd (canon32 (flush32 x))

end Sys2Proof.Machine
end

