-- ==== Sys2Proof/Syntax.lean ====
section
/-! DEFINITION. The one inductive of the machine's steps: every instruction word of the six columns with its body
fields as the encoding tables place them (02_encoding.md), and every event of spec/opcode_table.json with the operands
the event carries. -/

namespace Sys2Proof

open Sys2Proof.Machine

/-! ## Bodies of instruction words -/

/-- The fields every instruction word has beside its opcode and body (R57). -/
structure Hdr where
  gap : BitVec 3
  pred : BitVec 3
  pneg : BitVec 1
  deriving DecidableEq, Repr, Inhabited

/-- The RRR body (R63). -/
structure RRR where
  d : BitVec 6
  a : BitVec 6
  b : BitVec 6
  c : BitVec 6
  ty : BitVec 5
  rnd : BitVec 2
  cnd : BitVec 4
  sat : BitVec 1
  msk : BitVec 3
  ub : BitVec 1
  ubh : BitVec 1
  aux : BitVec 9
  deriving DecidableEq, Repr, Inhabited

/-- The RRI body (R67). -/
structure RRI where
  d : BitVec 6
  a : BitVec 6
  imm : BitVec 32
  md : BitVec 6
  deriving DecidableEq, Repr, Inhabited

/-- The MEM body (R68). -/
structure MEM where
  d : BitVec 6
  base : BitVec 6
  ofs : BitVec 24
  swz : BitVec 3
  ty : BitVec 5
  msk : BitVec 3
  aux : BitVec 3
  deriving DecidableEq, Repr, Inhabited

/-- The SRR body (R70). -/
structure SRR where
  d : BitVec 7
  a : BitVec 7
  b : BitVec 7
  c : BitVec 7
  ty : BitVec 5
  cnd : BitVec 4
  aux : BitVec 13
  deriving DecidableEq, Repr, Inhabited

/-- The SRI body (R70). -/
structure SRI where
  d : BitVec 7
  a : BitVec 7
  imm : BitVec 32
  md : BitVec 4
  deriving DecidableEq, Repr, Inhabited

/-- The BRF body (R70). -/
structure BRF where
  tgt : BitVec 24
  fbo : BitVec 25
  rsv : BitVec 1
  deriving DecidableEq, Repr, Inhabited

/-- The SLP body (R70). -/
structure SLP where
  kc : BitVec 7
  tgt : BitVec 18
  fbo : BitVec 25
  deriving DecidableEq, Repr, Inhabited

/-- The SCR body (R70). -/
structure SCR where
  d : BitVec 7
  sel : BitVec 12
  rsv : BitVec 31
  deriving DecidableEq, Repr, Inhabited

/-! ## Operands of the events -/

/-- Numeric events counted together (R130, R131). -/
structure EvCount where
  inv : Nat := 0
  ovf : Nat := 0
  unf : Nat := 0
  inx : Nat := 0
  bnd : Nat := 0
  psn : Nat := 0
  deriving DecidableEq, Repr, Inhabited

/-- One register update that a result carries to its write-back cycle (R4). Lanes, mask bits and tile bytes name the
positions they write. A uniform update names the bank it was issued in (R187). -/
inductive RegWrite where
  | a (n : Nat) (x : Word)
  | p (n : Nat) (x : Bool)
  | v (n : Nat) (lanes : List (Nat × Lane))
  | m (n : Nat) (bits : List (Nat × Bool))
  | k (handler : Bool) (n : Nat) (x : Word)
  | q (handler : Bool) (n : Nat) (x : Bool)
  | tile (n : Nat) (bytes : List (Nat × Byte))
  | td (n : Nat) (x : Word)
  | g (n : Nat) (x : BitVec 256)
  | bt (n : Nat) (x : Word)
  | limit (x : Nat)
  | seg (w : Nat)
  | window (n base len : Nat) (ben : Bool) (w : Nat)
  | rowCtl (sel : Nat) (x : Word)
  | coreCtl (sel : Nat) (x : Word)
  deriving DecidableEq, Repr, Inhabited

/-- A matrix product waiting for its accumulator read (R286): the destination tile, whether the accumulator starts
from zero, the element type, the local cycles from that read to the result and, per output byte offset, the scaled group
sums. -/
structure MmaJob where
  tile : Nat
  zero : Bool
  isInt : Bool
  done : Nat
  outs : List (Nat × List GSum)
  deriving DecidableEq, Repr

/-- What a REGISTER_WRITE_BACK writes (R4, R131): its updates, the events it counts, the matrix product whose
accumulator it reads, the v register whose bound register it checks, whether that check has been made before (R224),
the place of the word in its core's issue order, whether it is a matrix result (R296), and whether its bound hits trap
(R283). -/
structure WriteBack where
  wid : Nat
  writes : List RegWrite
  ev : EvCount := {}
  job : Option MmaJob := none
  bound : Option Nat := none
  late : Bool := false
  nth : Nat := 0
  acc : Bool := false
  hitTrap : Bool := false
  deriving DecidableEq, Repr

/-- One group of 8 tile rows of an MTLD or MTST (R281, R282): for a load the (local-store address, tile byte offset)
pairs and the write cycle; for a store the (address, byte) pairs. -/
structure TileGroup where
  wid : Nat
  store : Bool
  tile : Nat
  loads : List (Nat × Nat) := []
  clear : List Nat := []
  done : Nat := 0
  stores : List (Nat × Byte) := []
  ev : EvCount := {}
  nth : Nat := 0
  deriving DecidableEq, Repr

/-- One cycle of an MMAS or MFWD stream (R287): the header (index 0) or slice `idx`. -/
structure StreamCyc where
  mfwd : Bool
  idx : Nat
  desc : Word
  scales : List Byte
  bytes : List Byte
  bad : Bool
  /-- The core that uses it formed it itself, as the head (R288). -/
  own : Bool := false
  deriving DecidableEq, Repr

/-- A 512-byte entry on a mesh link (R247) and its poisoned 8-byte words. -/
structure MeshEntry where
  bytes : List Byte
  poison : List Nat
  deriving DecidableEq, Repr, Inhabited

/-- A piece of up to 128 bytes of a fabric put (R261) with the rank keys of R262 and, towards another package, its destination: member
rank, logical row and column; `via` is the scale-up port on which it has come to this package and the key slot its selector names
(R421, R424). -/
structure PutPiece where
  rank : Nat
  row : Nat
  col : Nat
  order : Nat
  win : Nat
  ofs : Nat
  bytes : List Byte
  poison : List Nat
  id : Nat := 0
  drank : Nat := 0
  drow : Nat := 0
  dcol : Nat := 0
  via : Option (Nat × Nat) := none
  seals : List (Nat × BitVec 128) := []
  deriving DecidableEq, Repr, Inhabited

/-- One chunk operation of a collective plan (R347). -/
structure PlanEntry where
  off : Nat
  kind : Nat
  flags : Nat
  ty : Nat
  rop : Nat
  memb : Nat
  nb : Nat
  cntA : Nat
  cntB : Nat
  rte : Nat
  a : Nat
  b : Nat
  d : Nat
  tag : Nat
  deriving DecidableEq, Repr, Inhabited

/-- A beat of 64 bytes and its poisoned 8-byte words (R347, R367). -/
structure Beat where
  bytes : List Byte
  poison : List Nat
  deriving DecidableEq, Repr, Inhabited

/-- A beat on its way to a chunk buffer (R358): plan index, tag, sending entry, beat number, sender rank, local or not; `via` as in a put
piece. -/
structure BeatMsg where
  plan : Nat
  tag : Nat
  entry : Nat
  k : Nat
  rank : Nat
  loc : Bool
  beat : Beat
  id : Nat := 0
  via : Option (Nat × Nat) := none
  seals : List (Nat × BitVec 128) := []
  deriving DecidableEq, Repr, Inhabited

/-- A transfer or stalled schedule entry that its path reports late (R32, R445): its number, its delivery GCC and the
arrival bound, none where the path reports none. -/
structure LateMark where
  id : Nat
  due : Nat
  bound : Option Nat
  deriving DecidableEq, Repr, Inhabited

/-- What a module does for one entry of a gang's channel schedule (R324). -/
inductive ModOp where
  | snapshot (id : Nat)
  | store (id : Nat)
  | maadd (id : Nat)
  | blockRead (id b : Nat)
  | blockEffect (id b : Nat)
  deriving DecidableEq, Repr

/-- What rows report to the hold master: the words of R446, and the opening and closing of regions (R394). -/
inductive PointKind where
  | slack | prept | galign | halt | idemb | ideme
  deriving DecidableEq, Repr

/-- A report of a row to the hold master (R446): kind, ordinal k, member rank, row, GCC, and the budget or scope. -/
structure Point where
  kind : PointKind
  k : Nat
  rank : Nat
  row : Nat
  gcc : Nat
  arg : Nat
  enabled : Bool
  deriving DecidableEq, Repr

/-- The primary trap of another package of a gang (R180, R181): GCC, member rank, row, place (0 the sequencer, 1 + c core c), TRAPC
and detail. -/
structure PeerTrap where
  x : Nat
  rank : Nat
  row : Nat
  place : Nat
  code : Nat
  detail : Nat
  /-- It asks for a region restart of the gang in place of handler entry (R321). -/
  restart : Bool := false
  deriving DecidableEq, Repr, Inhabited

/-- A stop as a member hears of it (R180, R446): asked for, or reached, and the primary trap of another package. -/
structure StopNews where
  announced : Bool
  peer : Option PeerTrap := none
  deriving DecidableEq, Repr, Inhabited

/-- A flit on a link (R412, R413): its port, the ring it came on and its number there. -/
structure FlitPlace where
  port : Nat
  ring : Nat := 0
  flit : Nat := 0
  deriving DecidableEq, Repr, Inhabited

/-- What an exchange die forwards for another package (R265). -/
inductive Transit where
  | put (piece : PutPiece) (port : Nat)
  | beat (msg : BeatMsg) (port : Nat)
  deriving DecidableEq, Repr

/-- The payload of a LAUNCH packet (R378). -/
structure LaunchPkt where
  taskid : Nat
  firstRow : Nat
  flags : Nat
  holdLim : Nat
  image : Nat
  dcc : Nat
  report : Nat
  rank : Nat
  members : Nat
  gangTag : Nat
  deriving DecidableEq, Repr, Inhabited

/-- The payload of a MAPX packet (R377). -/
structure MapCtx where
  ptRoot : Nat := 0
  rtAddr : Nat := 0
  podMap : Nat := 0
  cwd : Nat := 0
  deriving DecidableEq, Repr, Inhabited

/-- The payload of a SEMWAIT packet (R376). -/
structure SemWait where
  addr : Nat
  value : Nat
  eq : Bool
  tmo : Nat
  deriving DecidableEq, Repr, Inhabited

/-- The payload of a PREEMPT packet (R381). -/
structure PreemptPkt where
  taskid : Nat
  disc : Bool
  save : Nat
  saveLen : Nat
  report : Nat
  deriving DecidableEq, Repr, Inhabited

/-- The payload of a RESUME packet (R381). -/
structure ResumePkt where
  save : Nat
  dcc : Nat
  report : Nat
  firstRow : Nat
  flags : Nat
  gangTag : Nat
  deriving DecidableEq, Repr, Inhabited

/-- A ready message of a gang launch (R389). -/
structure ReadyMsg where
  gangTag : Nat
  rank : Nat
  members : Nat
  dcc : Nat
  holdLim : Nat
  llead : Nat
  crc : Nat
  sent : Nat
  deriving DecidableEq, Repr, Inhabited

/-- What the light of a memory port shows when a bring-up step ends (R411): the rings that succeeded, the rotation
read, and the heater, eye height and eye width of each ring. -/
structure RingReport where
  ok : List Bool
  rot : Nat
  heat : List Nat
  eyeH : List Nat
  eyeW : List Nat
  deriving DecidableEq, Repr, Inhabited

/-- What the staged start finds (R426, R429): a readable fuse block, a trained PCIe link, the failed cores (physical
row, column) of stages 3 and 4, failed sequencers, failed optical engines, the verdicts of stages 5 and 7, the pod slot from the
pod wiring, the lit hours and beginning-of-life bias that firmware keeps of each laser, and whether the retirement list can be
read (R430). -/
structure StartReport where
  fusesOk : Bool
  pcieOk : Bool
  badCores : List (Nat × Nat)
  badCores4 : List (Nat × Nat)
  badSeqs : List Nat
  badEngines : List Nat
  exchOk : Bool
  frontOk : Bool
  podSlot : Nat
  hours : List Nat
  bias0 : List Nat
  listOk : Bool := true
  deriving DecidableEq, Repr, Inhabited

/-- What every vendor request carries beside its payload (R437): SEQ, STATUS, the reserved bytes of the header and of the payload as
one number, whether it came in the secured session, and by how many bytes the payload differs from its command's length. -/
structure VendorReq where
  seq : Nat
  status : Nat := 0
  reserved : Nat := 0
  secured : Bool := false
  lenOff : Int := 0
  deriving DecidableEq, Repr, Inhabited

/-- One step of the machine: an instruction word or an event, one constructor per row of spec/opcode_table.json. -/
inductive Instr where
  -- every column (R75), column V hints (R76)
  | nop (c : Col) (h : Hdr)
  | vhint (h : Hdr) (n : BitVec 3) (value : BitVec 50)
  -- column S (R160)
  | br (h : Hdr) (f : BRF)
  | brc (h : Hdr) (f : BRF)
  | loop (h : Hdr) (f : SLP)
  | call (h : Hdr) (f : BRF)
  | ret (h : Hdr) (f : BRF)
  | fbset (h : Hdr) (f : SRI)
  | fbabs (h : Hdr) (f : SRR)
  | slack (h : Hdr) (f : SRI)
  | halt (h : Hdr)
  | trap (h : Hdr) (f : SRI)
  | brk (h : Hdr) (f : SRI)
  | prept (h : Hdr) (f : SRI)
  | idemb (h : Hdr) (f : SRI)
  | ideme (h : Hdr)
  | galign (h : Hdr) (f : SRR)
  | dccrd (h : Hdr) (f : SRR)
  | crd (h : Hdr) (f : SCR)
  | cwr (h : Hdr) (f : SCR)
  | qvote (h : Hdr) (f : SRR)
  -- uniform integer forms (R177)
  | uniformAdd (h : Hdr) (f : SRR)
  | uniformSub (h : Hdr) (f : SRR)
  | uniformAddi (h : Hdr) (f : SRI)
  | uniformMul (h : Hdr) (f : SRR)
  | uniformMulh (h : Hdr) (f : SRR)
  | uniformMulhu (h : Hdr) (f : SRR)
  | uniformDiv (h : Hdr) (f : SRR)
  | uniformDivu (h : Hdr) (f : SRR)
  | uniformRem (h : Hdr) (f : SRR)
  | uniformRemu (h : Hdr) (f : SRR)
  | uniformAnd (h : Hdr) (f : SRR)
  | uniformOr (h : Hdr) (f : SRR)
  | uniformXor (h : Hdr) (f : SRR)
  | uniformAndn (h : Hdr) (f : SRR)
  | uniformShl (h : Hdr) (f : SRR)
  | uniformShr (h : Hdr) (f : SRR)
  | uniformSra (h : Hdr) (f : SRR)
  | uniformRotl (h : Hdr) (f : SRR)
  | uniformMin (h : Hdr) (f : SRR)
  | uniformMax (h : Hdr) (f : SRR)
  | uniformMinu (h : Hdr) (f : SRR)
  | uniformMaxu (h : Hdr) (f : SRR)
  | uniformCmp (h : Hdr) (f : SRR)
  | uniformPlog (h : Hdr) (f : SRR)
  | uniformSel (h : Hdr) (f : SRR)
  | uniformMov (h : Hdr) (f : SRR)
  | uniformMovi (h : Hdr) (f : SRI)
  | uniformMovhi (h : Hdr) (f : SRI)
  | uniformClz (h : Hdr) (f : SRR)
  | uniformPopc (h : Hdr) (f : SRR)
  | uniformBrev (h : Hdr) (f : SRR)
  | uniformBfx (h : Hdr) (f : SRR)
  | uniformBfi (h : Hdr) (f : SRR)
  | uniformAddsh (h : Hdr) (f : SRR)
  -- column A (R199 to R201)
  | add (h : Hdr) (f : RRR)
  | sub (h : Hdr) (f : RRR)
  | addi (h : Hdr) (f : RRI)
  | mul (h : Hdr) (f : RRR)
  | mulh (h : Hdr) (f : RRR)
  | mulhu (h : Hdr) (f : RRR)
  | div (h : Hdr) (f : RRR)
  | divu (h : Hdr) (f : RRR)
  | rem (h : Hdr) (f : RRR)
  | remu (h : Hdr) (f : RRR)
  | and (h : Hdr) (f : RRR)
  | or (h : Hdr) (f : RRR)
  | xor (h : Hdr) (f : RRR)
  | andn (h : Hdr) (f : RRR)
  | shl (h : Hdr) (f : RRR)
  | shr (h : Hdr) (f : RRR)
  | sra (h : Hdr) (f : RRR)
  | rotl (h : Hdr) (f : RRR)
  | min (h : Hdr) (f : RRR)
  | max (h : Hdr) (f : RRR)
  | minu (h : Hdr) (f : RRR)
  | maxu (h : Hdr) (f : RRR)
  | cmp (h : Hdr) (f : RRR)
  | plog (h : Hdr) (f : RRR)
  | sel (h : Hdr) (f : RRR)
  | mov (h : Hdr) (f : RRR)
  | movi (h : Hdr) (f : RRI)
  | movhi (h : Hdr) (f : RRI)
  | clz (h : Hdr) (f : RRR)
  | popc (h : Hdr) (f : RRR)
  | brev (h : Hdr) (f : RRR)
  | bfx (h : Hdr) (f : RRR)
  | bfi (h : Hdr) (f : RRR)
  | addsh (h : Hdr) (f : RRR)
  | movk (h : Hdr) (f : RRR)
  | ld (h : Hdr) (f : MEM)
  | st (h : Hdr) (f : MEM)
  | amo (h : Hdr) (f : MEM)
  | acas (h : Hdr) (f : MEM)
  -- column V (R226 to R238)
  | vadd (h : Hdr) (f : RRR)
  | vsub (h : Hdr) (f : RRR)
  | vmul (h : Hdr) (f : RRR)
  | vfma (h : Hdr) (f : RRR)
  | vmin (h : Hdr) (f : RRR)
  | vmax (h : Hdr) (f : RRR)
  | vabs (h : Hdr) (f : RRR)
  | vneg (h : Hdr) (f : RRR)
  | vcmp (h : Hdr) (f : RRR)
  | vclass (h : Hdr) (f : RRR)
  | vrcp (h : Hdr) (f : RRR)
  | vrsq (h : Hdr) (f : RRR)
  | vsqrt (h : Hdr) (f : RRR)
  | vexp2 (h : Hdr) (f : RRR)
  | vlog2 (h : Hdr) (f : RRR)
  | vsin (h : Hdr) (f : RRR)
  | vcos (h : Hdr) (f : RRR)
  | vtanh (h : Hdr) (f : RRR)
  | vsigm (h : Hdr) (f : RRR)
  | viadd (h : Hdr) (f : RRR)
  | visub (h : Hdr) (f : RRR)
  | vimul (h : Hdr) (f : RRR)
  | vimulh (h : Hdr) (f : RRR)
  | vimin (h : Hdr) (f : RRR)
  | vimax (h : Hdr) (f : RRR)
  | viabs (h : Hdr) (f : RRR)
  | vshl (h : Hdr) (f : RRR)
  | vshr (h : Hdr) (f : RRR)
  | vsra (h : Hdr) (f : RRR)
  | vand (h : Hdr) (f : RRR)
  | vor (h : Hdr) (f : RRR)
  | vxor (h : Hdr) (f : RRR)
  | vicmp (h : Hdr) (f : RRR)
  | vclz (h : Hdr) (f : RRR)
  | vpopc (h : Hdr) (f : RRR)
  | vcvt (h : Hdr) (f : RRR)
  | vbq (h : Hdr) (f : RRR)
  | vmxd (h : Hdr) (f : RRR)
  | vmov (h : Hdr) (f : RRR)
  | vbca (h : Hdr) (f : RRR)
  | vext (h : Hdr) (f : RRR)
  | vsel (h : Hdr) (f : RRR)
  | vshf (h : Hdr) (f : RRR)
  | vqx (h : Hdr) (f : RRR)
  | vsld (h : Hdr) (f : RRR)
  | vpart (h : Hdr) (f : RRI)
  | viota (h : Hdr) (f : RRI)
  | vsplat (h : Hdr) (f : RRI)
  | vred (h : Hdr) (f : RRR)
  | vscan (h : Hdr) (f : RRR)
  | vvote (h : Hdr) (f : RRR)
  | vmpop (h : Hdr) (f : RRR)
  | mlog (h : Hdr) (f : RRR)
  | mmovp (h : Hdr) (f : RRR)
  | vld (h : Hdr) (f : MEM)
  | vst (h : Hdr) (f : MEM)
  | vgath (h : Hdr) (f : RRR)
  | vscat (h : Hdr) (f : RRR)
  -- column M (R276, R277)
  | mtd (h : Hdr) (f : RRR)
  | mtz (h : Hdr) (f : RRR)
  | mma (h : Hdr) (f : RRR)
  | mmax (h : Hdr) (f : RRR)
  | mmas (h : Hdr) (f : RRR)
  | mfwd (h : Hdr) (f : RRR)
  | mtv (h : Hdr) (f : RRR)
  | mvt (h : Hdr) (f : RRR)
  | mtt (h : Hdr) (f : RRR)
  | mscl (h : Hdr) (f : RRR)
  | mtld (h : Hdr) (f : MEM)
  | mtst (h : Hdr) (f : MEM)
  -- column F (R307, R308, R325)
  | shpLoad (h : Hdr) (f : RRR)
  | shpEdit (h : Hdr) (f : RRR)
  | tfetch (h : Hdr) (f : RRR)
  | tstore (h : Hdr) (f : RRR)
  | tgath (h : Hdr) (f : RRR)
  | tscat (h : Hdr) (f : RRR)
  | warm (h : Hdr) (f : RRI)
  | wchk (h : Hdr) (f : RRI)
  | walw (h : Hdr) (f : RRR)
  | wrd (h : Hdr) (f : RRR)
  | wccrd (h : Hdr) (f : RRR)
  | mfence (h : Hdr) (f : RRI)
  | mcmdCopy (h : Hdr) (f : RRR)
  | mcmdFill (h : Hdr) (f : RRR)
  | mcmdReduce (h : Hdr) (f : RRR)
  | mired (h : Hdr) (f : RRR)
  | maadd (h : Hdr) (f : RRR)
  -- column X (R252, R353)
  | send (h : Hdr) (f : RRR)
  | recv (h : Hdr) (f : RRR)
  | sendt (h : Hdr) (f : RRR)
  | recvt (h : Hdr) (f : RRR)
  | fput (h : Hdr) (f : RRR)
  | facc (h : Hdr) (f : RRR)
  | cbase (h : Hdr) (f : RRR)
  | crun (h : Hdr) (f : RRI)
  | cstat (h : Hdr) (f : RRR)
  -- events that the machine puts on its own agenda (R4 to R440)
  | clauseStart (id : Nat)
  | registerWriteBack (w : WriteBack)
  | eventCounterWindow (n : Nat)
  | tileGroupAccess (g : TileGroup)
  | streamCycleArrival (c : StreamCyc)
  | meshEntryArrival (port : Nat) (e : MeshEntry) (announced : List Nat)
  | recvtEntryWrite (port addr : Nat)
  | putPieceDelivery (piece : PutPiece)
  | fetchSnapshot (id : Nat)
  | fetchLanding (id k : Nat)
  | miredLanding (id k : Nat)
  | storeWriteCompletion (id : Nat)
  | maaddEffect (id : Nat)
  | mcmdBlockEffect (id b : Nat) (effect : Bool)
  | mcmdCompletion (x : Nat × Option Nat)
  | mfenceCompletion (w : Nat)
  | moduleScheduleEntry (m : Nat) (op : ModOp)
  | moduleScheduleDrain (m : Nat)
  | lastCall (id : Nat)
  | gangHold (h : Nat)
  | holdQuantum (k : Nat)
  | holdEnd
  | gangResume
  | regionRestart
  | pointReport (r : Point)
  | reportTimeout (kind : PointKind) (k : Nat)
  | galignAlignment (k : Nat) (scope : Nat)
  | gangStop (code : Nat) (news : StopNews)
  | planRecv (plan entry : Nat)
  | planSend (plan entry k : Nat)
  | planReduce (plan entry k : Nat)
  | planForward (plan entry k : Nat)
  | planDeliver (plan entry k : Nat)
  | beatLanding (msg : BeatMsg)
  | runCompletion (plan : Nat)
  | pnop (strm : Nat)
  | launch (strm : Nat) (p : LaunchPkt)
  | semwait (strm : Nat) (p : SemWait)
  | semwaitPoll (strm : Nat)
  | semwaitTimeout (strm : Nat)
  | semsig (strm addr value : Nat) (add : Bool) (fails : Bool)
  | mapx (strm : Nat) (c : MapCtx)
  | planld (strm taskid plan report : Nat)
  | hcopy (strm src dst bytes : Nat) (fails : Bool)
  | qfence (strm : Nat)
  | preempt (strm : Nat) (p : PreemptPkt)
  | resume (strm : Nat) (p : ResumePkt)
  | wrdone (addr : Nat)
  | readyMessage (m : ReadyMsg)
  | gangGoAbort (gangTag : Nat) (go : Bool) (bad : Nat) (slow : Bool)
  | retirementCommit (row : Nat)
  | identityFrame (port : Nat)
  | quiesceComplete (port : Nat)
  | discard
  -- events inside the package (R77 to R136)
  | dispatcherRead
  | ingressBufferDrain
  -- far memory (R148, R312 to R342)
  | moduleScheduleStall (m : Nat) (bound : Option Nat)
  | rowSparing (m sector drow cause : Nat)
  | moduleOffline (m : Nat) (reports : Bool)
  -- lateness, holds and stops (R31 to R42, R446, R164, R182 to R189)
  | deliverAtArrival (id : Nat)
  | arrivalBoundReport (l : LateMark)
  | holdRequest (h n : Nat) (late : Bool)
  | slackArm (amount since : Nat)
  | elasticBufferMargin
  | slackStarvation
  | coreStop
  | handlerEntry
  | singleStepTrap
  | taskLaunch
  | taskEnd
  -- collective engine (R356 to R364)
  | runPairingCheck (plan : Nat) (peer : Option (Nat × Nat × Nat))
  -- front end and dispatcher (R370 to R403)
  | streamEnable (strm : Nat)
  | streamDoorbell (strm tail : Nat)
  | serrClear (strm : Nat)
  | dispatchGrant
  | pageWalkRetry
  | preemptPending
  | preemptDrainEnd
  | saveComplete
  | restoreLaunch
  -- optical ports, lasers and the fabric (R406 to R425)
  | mpCoarseTune (port : Nat)
  | mpLock (port : Nat)
  | mpRotation (port : Nat)
  | mpEyeTraining (port : Nat)
  | mpGoLive (port : Nat)
  | mpStepComplete (port : Nat) (r : RingReport)
  | memoryPortDisable (port : Nat)
  | mpspareForce (port : Nat)
  | flitCrcFailure (place : FlitPlace) (fails : Nat) (late : List LateMark) (flits : List (Nat × Nat))
  | ringLockLoss (port ring : Nat) (late : List LateMark)
  | spareLive (port : Nat)
  | marginScan (port : Nat) (r : RingReport)
  | laserEnable (n : Nat) (on : Bool)
  | biasServoStep (n bias : Nat) (pwr : BitVec 16)
  | laserFailure (n : Nat)
  | join (node port : Nat) (frame : Option (Nat × Nat))
  | leave
  | referenceLoss
  | nbindGo
  | scaleUpEnable (port : Nat) (on : Bool)
  | quiesceRequest (port : Nat) (on : Bool)
  | scaleUpLaneFailure (port : Nat)
  | identityFrameReceipt (port serial node pport : Nat)
  | keySwitch (port : Nat)
  | keyRelease (key : Nat × Option Nat)
  -- start-up, health, host and package (R426 to R443)
  | packageReset (cause : Nat) (r : StartReport)
  | pcieTrainingRetry (ok : Bool)
  | retirementPending (row : Nat) (x : Word)
  | getVersion
  | getCapabilities
  | negotiateAlgorithms (offered : List Nat)
  | getDigests
  | getCertificate (slot : Nat)
  | challenge (slot : Nat)
  | getMeasurements (index : Nat) (signed : Bool)
  | keyExchange (slot : Nat)
  | finish (verified : Bool)
  | endSession
  | unsupportedRequest
  | mctpControl (command : Nat)
  | fwload (q : VendorReq) (ofs flags len : Nat) (data : List Byte)
  | svncommit (q : VendorReq) (svn : Nat)
  | reset (q : VendorReq) (kind : Nat) (r : StartReport)
  | setkey (q : VendorReq) (port slot dir : Nat) (key : List Byte)
  | regread (q : VendorReq) (ofs : Nat)
  | dbginWrite (row : Nat) (x : Word)
  | dbgoutRead (row : Nat)
  | wearSample (dies : List (Nat × Int))
  | thermalWarning (die : Nat)
  | thermalTrip (die : Nat) (r : StartReport)
  | supplyTrip (r : StartReport)
  | registerWrite (reg : Nat × Nat) (x : Word)
  | slackHoldEnd
  | exchangeDieForwarding (x : Transit)
  | laneRetrainingComplete (port ring : Nat)
  | portTrainingComplete (port lflt serial node pport : Nat)
  | laserOk (n : Nat)
  deriving DecidableEq, Repr

end Sys2Proof
end

