-- ==== Sys2Proof/WellFormed.lean ====
section
/-! DEFINITION. Which instruction words are well formed: the checks of R61 to R72 and of every encoding table of the
instruction chapters, in the order of precedence of R81 (register range 0x2, modifier 0x3, reserved bits 0x1). -/

namespace Sys2Proof

open Sys2Proof.Machine

/-- What an RRR word accepts (R63 and the encoding tables): for each register field the largest legal code, or none
when the field must be zero; whether B may be a uniform register; the accepted TY and CND codes; whether a rounding
mode, a saturation bit and a lane mask may be given; and the AUX bits in use. -/
structure RRRSpec where
  d : Option Nat := none
  a : Option Nat := none
  b : Option Nat := none
  c : Option Nat := none
  uni : Bool := false
  ty : List Nat := [0]
  rnd : Bool := false
  cnd : List Nat := [0]
  sat : Bool := false
  msk : Bool := false
  aux : Nat := 0
  deriving DecidableEq, Repr

/-- A register code lies outside the legal codes of its file (R61). -/
def overMax (m : Option Nat) (code : Nat) : Bool :=
  match m with
  | some n => decide (n < code)
  | none => false

/-- A field that must be zero is not (R72). -/
def unusedBad (m : Option Nat) (code : Nat) : Bool :=
  match m with
  | some _ => false
  | none => code != 0

/-- The uniform register a core word names in place of B (R62). -/
def RRR.uniNum (f : RRR) : Nat := f.ubh.toNat * 64 + f.b.toNat

/-- A bit of `x` outside the mask `m` is set. -/
def strayBits (x m : Nat) : Bool := (x &&& m) != x

/-- The first fault of an RRR word by its table row (R81): `x2`, `x3` and `x1` are the row's own limits. -/
def rrrFault (sp : RRRSpec) (f : RRR) (x2 x3 x1 : Bool) : Option Nat :=
  let uni := f.ub == 1
  if overMax sp.d f.d.toNat || overMax sp.a f.a.toNat || (!uni && overMax sp.b f.b.toNat) || overMax sp.c f.c.toNat || x2
  then some 2
  else if !(sp.ty.contains f.ty.toNat) || (!sp.rnd && f.rnd != 0) || !(sp.cnd.contains f.cnd.toNat) ||
      (!sp.sat && f.sat != 0) || (!sp.msk && f.msk != 7) || (uni && (!sp.uni || decide (95 < f.uniNum))) || x3
  then some 3
  else if unusedBad sp.d f.d.toNat || unusedBad sp.a f.a.toNat || (!uni && unusedBad sp.b f.b.toNat) ||
      unusedBad sp.c f.c.toNat || (!uni && f.ubh != 0) || strayBits f.aux.toNat sp.aux || x1
  then some 1
  else none

/-- The type pairs VCVT accepts (R230). -/
def vcvtPair (dst src : Nat) : Bool :=
  [1, 2, 3, 4, 5, 6, 7, 8, 9, 16, 17, 18, 19, 20, 21].contains src && dst != src &&
    (dst != 9 || src == 1) && (src != 9 || dst == 1)

/-- VRED and VSCAN: an unlisted operation, one not listed for the type, or a rounding mode without .f32 add (R235). -/
def redBad (f : RRR) : Bool :=
  let op := f.aux.toNat % 16
  decide (5 < op) || (f.ty == 1 && decide (2 < op)) || (f.rnd != 0 && !(f.ty == 1 && op == 0))

/-- MTV and MVT: the rows r .. r + 2n − 1 leave the tile (R276). -/
def pairBad (f : RRR) : Bool := decide (64 < 2 * (f.aux.toNat % 32) + 2 * (f.aux.toNat / 32 % 8 + 1))

/-- MOVK's own rules (R199). -/
def movkFault (f : RRR) : Option Nat :=
  let col := f.aux.toNat % 2
  if decide (31 < f.d.toNat) || (f.ub == 1 && decide ((if col = 1 then 88 else 95) < f.uniNum)) then some 2
  else if f.ub != 1 || f.ty != 0 || f.rnd != 0 || f.cnd != 0 || f.sat != 0 || f.msk != 7 then some 3
  else if f.a != 0 || f.c != 0 || strayBits f.aux.toNat 1 then some 1
  else none

/-- The first fault of an RRI word: largest codes of D and A, the MOD and IMM bits in use and the row's own limits. -/
def rriFault (d a : Option Nat) (md imm : Nat) (f : RRI) (x3 x1 : Bool) : Option Nat :=
  if overMax d f.d.toNat || overMax a f.a.toNat then some 2
  else if x3 then some 3
  else if unusedBad d f.d.toNat || unusedBad a f.a.toNat || strayBits f.md.toNat md || strayBits f.imm.toNat imm || x1
  then some 1
  else none

/-- The first fault of a MEM word: largest code of D, accepted types, whether a lane mask may be given, AUX bits in use. -/
def memFault (d : Nat) (ty : List Nat) (msk : Bool) (aux : Nat) (f : MEM) (x2 x3 : Bool) : Option Nat :=
  if decide (d < f.d.toNat) || decide (31 < f.base.toNat) || x2 then some 2
  else if !(ty.contains f.ty.toNat) || (!msk && f.msk != 7) || x3 then some 3
  else if strayBits f.aux.toNat aux then some 1
  else none

/-- What an S operand field holds (R61, R70): nothing, a k register, a q register, or a bit position. -/
inductive SRole where
  | no | k | q | pos
  deriving DecidableEq, Repr

/-- What an SRR word accepts (R70, R160, R177). -/
structure SRRSpec where
  d : SRole := .no
  a : SRole := .no
  b : SRole := .no
  c : SRole := .no
  ty : List Nat := [0]
  cnd : List Nat := [0]
  sat : Bool := false
  aux : Nat := 0
  deriving DecidableEq, Repr

/-- A code outside the register codes of its role (R61). -/
def SRole.bad (r : SRole) (code : Nat) : Bool :=
  match r with
  | .k => decide (95 < code)
  | .q => decide (code < 96) || decide (103 < code)
  | _ => false

/-- An unused field that is not zero, or a position of 64 and above (R72, R202). -/
def SRole.rsv (r : SRole) (code : Nat) : Bool :=
  match r with
  | .no => code != 0
  | .pos => decide (63 < code)
  | _ => false

/-- The first fault of an SRR word by its row. -/
def srrFault (sp : SRRSpec) (f : SRR) (x1 : Bool) : Option Nat :=
  if sp.d.bad f.d.toNat || sp.a.bad f.a.toNat || sp.b.bad f.b.toNat || sp.c.bad f.c.toNat then some 2
  else if !(sp.ty.contains f.ty.toNat) || !(sp.cnd.contains f.cnd.toNat) || (!sp.sat && f.aux.getLsbD 12) then some 3
  else if sp.d.rsv f.d.toNat || sp.a.rsv f.a.toNat || sp.b.rsv f.b.toNat || sp.c.rsv f.c.toNat ||
      strayBits (f.aux.toNat % 4096) sp.aux || x1
  then some 1
  else none

/-- The first fault of an SRR word of R160, whose TY and CND are unused fields. -/
def srrPlain (sp : SRRSpec) (f : SRR) : Option Nat :=
  srrFault { sp with ty := List.range 32, cnd := List.range 16, sat := true } f (f.aux.getLsbD 12 || f.ty != 0 || f.cnd != 0)

/-- The first fault of an SRI word: the roles of D and A, the largest immediate and the MOD bits in use. -/
def sriFault (d a : SRole) (imm md : Nat) (f : SRI) : Option Nat :=
  if d.bad f.d.toNat || a.bad f.a.toNat then some 2
  else if d.rsv f.d.toNat || a.rsv f.a.toNat || decide (imm < f.imm.toNat) || strayBits f.md.toNat md then some 1
  else none

/-- A listed control register (R193): row instance 0xF or core instance 0 to 7. -/
def selKnown (sel : Nat) : Bool :=
  let r := sel % 256
  let i := sel / 256
  if i = 15 then decide (r ≤ 0x12)
  else decide (i < 8) && (decide (r ≤ 4) || (decide (0x10 ≤ r) && decide (r ≤ 0x1B)) || (decide (0x20 ≤ r) && decide (r ≤ 0x2F)))

/-- CRD and CWR (R160, R193). -/
def scrFault (f : SCR) : Option Nat :=
  if decide (95 < f.d.toNat) || !selKnown f.sel.toNat then some 2
  else if f.rsv != 0 then some 1
  else none

/-- QVOTE (R160, R176): a p code, a q destination for any and all, a k destination for mask. -/
def qvoteFault (f : SRR) : Option Nat :=
  let mode := f.aux.toNat % 4
  if decide (7 < f.a.toNat) || (mode == 2 && decide (95 < f.d.toNat)) ||
      (decide (mode < 2) && (decide (f.d.toNat < 96) || decide (103 < f.d.toNat))) then some 2
  else if mode == 3 then some 3
  else if f.b != 0 || f.c != 0 || f.ty != 0 || f.cnd != 0 || strayBits f.aux.toNat 3 then some 1
  else none

/-- The predicate is "always" (R57, R59). -/
def Hdr.always (h : Hdr) : Bool := h.pred == 7 && h.pneg == 0

/-- The types a column-V local-store word takes (R239). -/
def vMemTys : List Nat := [0, 1, 2, 3, 4, 5, 6, 7, 8, 9, 16, 17, 18, 19, 20, 21]

/-- RAW = 1 with a 4-byte or integer type (R238). -/
def rawBad (f : MEM) : Bool := f.aux.getLsbD 1 && !([2, 3, 4, 5, 6, 7, 8, 9].contains f.ty.toNat)

/-- The first fault of an instruction word, none when it is well formed. Events are no words and are always well
formed. A VMXD with an FP8 destination and a B outside the v file has detail 0x2: log entry 146. -/
def Instr.fault : Instr → Option Nat
  | .nop _ _ => none
  | .vhint _ _ _ => none
  | .br h f => if !h.always then some 3 else if f.rsv != 0 then some 1 else none
  | .brc h f => if h.pred == 7 then some 3 else if f.rsv != 0 then some 1 else none
  | .loop _ f => if f.kc == 0 || decide (95 < f.kc.toNat) then some 2 else none
  | .call _ f => if f.rsv != 0 then some 1 else none
  | .ret _ f => if f.rsv != 0 || f.tgt != 0 then some 1 else none
  | .fbset _ f => sriFault .no .k 0xFFFFFFFF 0 f
  | .fbabs _ f => srrPlain { a := .k, b := .k } f
  | .slack _ f => sriFault .no .no 1023 0 f
  | .halt _ => none
  | .trap _ f => sriFault .no .no 65535 0 f
  | .brk _ f => sriFault .no .no 65535 0 f
  | .prept _ f => sriFault .no .no 255 0 f
  | .idemb _ f => sriFault .no .no 255 0 f
  | .ideme _ => none
  | .galign _ f => srrPlain { d := .k, aux := 1 } f
  | .dccrd _ f => if decide (94 < f.d.toNat) || f.d.getLsbD 0 then some 2 else srrPlain { d := .k } f
  | .crd _ f => scrFault f
  | .cwr _ f => scrFault f
  | .qvote _ f => qvoteFault f
  | .uniformAdd _ f => srrFault { d := .k, a := .k, b := .k, ty := [0, 22, 20, 21], sat := true } f false
  | .uniformSub _ f => srrFault { d := .k, a := .k, b := .k, ty := [0, 22, 20, 21], sat := true } f false
  | .uniformMul _ f => srrFault { d := .k, a := .k, b := .k, ty := [0, 22, 20, 21], sat := true } f false
  | .uniformMulh _ f => srrFault { d := .k, a := .k, b := .k, ty := [0, 22] } f false
  | .uniformMulhu _ f => srrFault { d := .k, a := .k, b := .k, ty := [0, 22] } f false
  | .uniformAnd _ f => srrFault { d := .k, a := .k, b := .k, ty := [0, 22] } f false
  | .uniformOr _ f => srrFault { d := .k, a := .k, b := .k, ty := [0, 22] } f false
  | .uniformXor _ f => srrFault { d := .k, a := .k, b := .k, ty := [0, 22] } f false
  | .uniformAndn _ f => srrFault { d := .k, a := .k, b := .k, ty := [0, 22] } f false
  | .uniformDiv _ f => srrFault { d := .k, a := .k, b := .k, ty := [0, 22, 20, 21] } f false
  | .uniformDivu _ f => srrFault { d := .k, a := .k, b := .k, ty := [0, 22, 20, 21] } f false
  | .uniformRem _ f => srrFault { d := .k, a := .k, b := .k, ty := [0, 22, 20, 21] } f false
  | .uniformRemu _ f => srrFault { d := .k, a := .k, b := .k, ty := [0, 22, 20, 21] } f false
  | .uniformShl _ f => srrFault { d := .k, a := .k, b := .k, ty := [0, 22, 20, 21] } f false
  | .uniformShr _ f => srrFault { d := .k, a := .k, b := .k, ty := [0, 22, 20, 21] } f false
  | .uniformSra _ f => srrFault { d := .k, a := .k, b := .k, ty := [0, 22, 20, 21] } f false
  | .uniformRotl _ f => srrFault { d := .k, a := .k, b := .k, ty := [0, 22, 20, 21] } f false
  | .uniformMin _ f => srrFault { d := .k, a := .k, b := .k, ty := [0, 22, 20, 21] } f false
  | .uniformMax _ f => srrFault { d := .k, a := .k, b := .k, ty := [0, 22, 20, 21] } f false
  | .uniformMinu _ f => srrFault { d := .k, a := .k, b := .k, ty := [0, 22, 20, 21] } f false
  | .uniformMaxu _ f => srrFault { d := .k, a := .k, b := .k, ty := [0, 22, 20, 21] } f false
  | .uniformCmp _ f => srrFault { d := .q, a := .k, b := .k, ty := [0, 22, 20], cnd := [1, 2, 3, 4, 5, 6, 7, 8] } f false
  | .uniformPlog _ f => srrFault { d := .q, a := .q, b := .q, aux := 0xF } f false
  | .uniformSel _ f => srrFault { d := .k, a := .k, b := .k, c := .q } f false
  | .uniformMov _ f => srrFault { d := .k, a := .k } f false
  | .uniformClz _ f => srrFault { d := .k, a := .k, ty := [0, 22, 21] } f false
  | .uniformPopc _ f => srrFault { d := .k, a := .k, ty := [0, 22, 21] } f false
  | .uniformBrev _ f => srrFault { d := .k, a := .k, ty := [0, 22, 21] } f false
  | .uniformBfx _ f => srrFault { d := .k, a := .k, c := .pos, ty := [0, 22], aux := 0x3F } f (decide (64 < f.c.toNat + f.aux.toNat % 64 + 1))
  | .uniformBfi _ f => srrFault { d := .k, a := .k, b := .k, c := .pos, aux := 0x3F } f (decide (64 < f.c.toNat + f.aux.toNat % 64 + 1))
  | .uniformAddsh _ f => srrFault { d := .k, a := .k, b := .k, aux := 0x3F } f false
  | .uniformAddi _ f => sriFault .k .k 0xFFFFFFFF 1 f
  | .uniformMovi _ f => sriFault .k .no 0xFFFFFFFF 1 f
  | .uniformMovhi _ f => sriFault .k .k 0xFFFFFFFF 0 f
  | .add _ f => rrrFault { d := some 31, a := some 31, b := some 31, uni := true, ty := [0, 22, 20, 21], sat := true } f false false false
  | .sub _ f => rrrFault { d := some 31, a := some 31, b := some 31, uni := true, ty := [0, 22, 20, 21], sat := true } f false false false
  | .mul _ f => rrrFault { d := some 31, a := some 31, b := some 31, uni := true, ty := [0, 22, 20, 21], sat := true } f false false false
  | .mulh _ f => rrrFault { d := some 31, a := some 31, b := some 31, uni := true, ty := [0, 22] } f false false false
  | .mulhu _ f => rrrFault { d := some 31, a := some 31, b := some 31, uni := true, ty := [0, 22] } f false false false
  | .div _ f => rrrFault { d := some 31, a := some 31, b := some 31, uni := true, ty := [0, 22, 20, 21] } f false false false
  | .divu _ f => rrrFault { d := some 31, a := some 31, b := some 31, uni := true, ty := [0, 22, 20, 21] } f false false false
  | .rem _ f => rrrFault { d := some 31, a := some 31, b := some 31, uni := true, ty := [0, 22, 20, 21] } f false false false
  | .remu _ f => rrrFault { d := some 31, a := some 31, b := some 31, uni := true, ty := [0, 22, 20, 21] } f false false false
  | .and _ f => rrrFault { d := some 31, a := some 31, b := some 31, uni := true, ty := [0, 22] } f false false false
  | .or _ f => rrrFault { d := some 31, a := some 31, b := some 31, uni := true, ty := [0, 22] } f false false false
  | .xor _ f => rrrFault { d := some 31, a := some 31, b := some 31, uni := true, ty := [0, 22] } f false false false
  | .andn _ f => rrrFault { d := some 31, a := some 31, b := some 31, uni := true, ty := [0, 22] } f false false false
  | .shl _ f => rrrFault { d := some 31, a := some 31, b := some 31, uni := true, ty := [0, 22, 20, 21] } f false false false
  | .shr _ f => rrrFault { d := some 31, a := some 31, b := some 31, uni := true, ty := [0, 22, 20, 21] } f false false false
  | .sra _ f => rrrFault { d := some 31, a := some 31, b := some 31, uni := true, ty := [0, 22, 20, 21] } f false false false
  | .rotl _ f => rrrFault { d := some 31, a := some 31, b := some 31, uni := true, ty := [0, 22, 20, 21] } f false false false
  | .min _ f => rrrFault { d := some 31, a := some 31, b := some 31, uni := true, ty := [0, 22, 20, 21] } f false false false
  | .max _ f => rrrFault { d := some 31, a := some 31, b := some 31, uni := true, ty := [0, 22, 20, 21] } f false false false
  | .minu _ f => rrrFault { d := some 31, a := some 31, b := some 31, uni := true, ty := [0, 22, 20, 21] } f false false false
  | .maxu _ f => rrrFault { d := some 31, a := some 31, b := some 31, uni := true, ty := [0, 22, 20, 21] } f false false false
  | .cmp _ f => rrrFault { d := some 7, a := some 31, b := some 31, uni := true, ty := [0, 22, 20], cnd := [1, 2, 3, 4, 5, 6, 7, 8] } f false false false
  | .plog _ f => rrrFault { d := some 7, a := some 7, b := some 7, aux := 0xF } f false false false
  | .sel _ f => rrrFault { d := some 31, a := some 31, b := some 31, c := some 7, uni := true } f false false false
  | .mov _ f => rrrFault { d := some 31, a := some 31 } f false false false
  | .clz _ f => rrrFault { d := some 31, a := some 31, ty := [0, 22, 21] } f false false false
  | .popc _ f => rrrFault { d := some 31, a := some 31, ty := [0, 22, 21] } f false false false
  | .brev _ f => rrrFault { d := some 31, a := some 31, ty := [0, 22, 21] } f false false false
  | .bfx _ f => rrrFault { d := some 31, a := some 31, c := some 63, ty := [0, 22], aux := 0x3F } f false false (decide (64 < f.c.toNat + (f.aux.toNat % 64) + 1))
  | .bfi _ f => rrrFault { d := some 31, a := some 31, b := some 31, c := some 63, uni := true, aux := 0x3F } f false false (decide (64 < f.c.toNat + (f.aux.toNat % 64) + 1))
  | .addsh _ f => rrrFault { d := some 31, a := some 31, b := some 31, uni := true, aux := 0x3F } f false false false
  | .vadd _ f => rrrFault { d := some 47, a := some 47, b := some 47, uni := true, ty := [0, 1], rnd := true, msk := true } f false false false
  | .vsub _ f => rrrFault { d := some 47, a := some 47, b := some 47, uni := true, ty := [0, 1], rnd := true, msk := true } f false false false
  | .vmul _ f => rrrFault { d := some 47, a := some 47, b := some 47, uni := true, ty := [0, 1], rnd := true, msk := true } f false false false
  | .vfma _ f => rrrFault { d := some 47, a := some 47, b := some 47, c := some 47, uni := true, ty := [0, 1], rnd := true, msk := true } f false false false
  | .vmin _ f => rrrFault { d := some 47, a := some 47, b := some 47, uni := true, ty := [0, 1], msk := true } f false false false
  | .vmax _ f => rrrFault { d := some 47, a := some 47, b := some 47, uni := true, ty := [0, 1], msk := true } f false false false
  | .vabs _ f => rrrFault { d := some 47, a := some 47, ty := [0, 1], msk := true } f false false false
  | .vneg _ f => rrrFault { d := some 47, a := some 47, ty := [0, 1], msk := true } f false false false
  | .vcmp _ f => rrrFault { d := some 7, a := some 47, b := some 47, uni := true, ty := [0, 1], cnd := [1, 2, 3, 4, 5, 6, 9, 10], msk := true } f false false false
  | .vclass _ f => rrrFault { d := some 47, a := some 47, ty := [0, 1], msk := true } f false false false
  | .vrcp _ f => rrrFault { d := some 47, a := some 47, ty := [0, 1], msk := true } f false false false
  | .vrsq _ f => rrrFault { d := some 47, a := some 47, ty := [0, 1], msk := true } f false false false
  | .vsqrt _ f => rrrFault { d := some 47, a := some 47, ty := [0, 1], rnd := true, msk := true } f false false false
  | .vexp2 _ f => rrrFault { d := some 47, a := some 47, ty := [0, 1], msk := true } f false false false
  | .vlog2 _ f => rrrFault { d := some 47, a := some 47, ty := [0, 1], msk := true } f false false false
  | .vsin _ f => rrrFault { d := some 47, a := some 47, ty := [0, 1], msk := true } f false false false
  | .vcos _ f => rrrFault { d := some 47, a := some 47, ty := [0, 1], msk := true } f false false false
  | .vtanh _ f => rrrFault { d := some 47, a := some 47, ty := [0, 1], msk := true } f false false false
  | .vsigm _ f => rrrFault { d := some 47, a := some 47, ty := [0, 1], msk := true } f false false false
  | .viadd _ f => rrrFault { d := some 47, a := some 47, b := some 47, uni := true, ty := [0, 20, 21], sat := true, msk := true } f false false false
  | .visub _ f => rrrFault { d := some 47, a := some 47, b := some 47, uni := true, ty := [0, 20, 21], sat := true, msk := true } f false false false
  | .vimul _ f => rrrFault { d := some 47, a := some 47, b := some 47, uni := true, ty := [0, 20, 21], sat := true, msk := true } f false false false
  | .vimulh _ f => rrrFault { d := some 47, a := some 47, b := some 47, uni := true, ty := [0, 20, 21], msk := true } f false false false
  | .vimin _ f => rrrFault { d := some 47, a := some 47, b := some 47, uni := true, ty := [0, 20, 21], msk := true } f false false false
  | .vimax _ f => rrrFault { d := some 47, a := some 47, b := some 47, uni := true, ty := [0, 20, 21], msk := true } f false false false
  | .viabs _ f => rrrFault { d := some 47, a := some 47, ty := [0, 20], sat := true, msk := true } f false false false
  | .vshl _ f => rrrFault { d := some 47, a := some 47, b := some 47, uni := true, msk := true } f false false false
  | .vshr _ f => rrrFault { d := some 47, a := some 47, b := some 47, uni := true, msk := true } f false false false
  | .vsra _ f => rrrFault { d := some 47, a := some 47, b := some 47, uni := true, msk := true } f false false false
  | .vand _ f => rrrFault { d := some 47, a := some 47, b := some 47, uni := true, msk := true } f false false false
  | .vor _ f => rrrFault { d := some 47, a := some 47, b := some 47, uni := true, msk := true } f false false false
  | .vxor _ f => rrrFault { d := some 47, a := some 47, b := some 47, uni := true, msk := true } f false false false
  | .vicmp _ f => rrrFault { d := some 7, a := some 47, b := some 47, uni := true, ty := [0, 20], cnd := [1, 2, 3, 4, 5, 6, 7, 8], msk := true } f false false false
  | .vclz _ f => rrrFault { d := some 47, a := some 47, msk := true } f false false false
  | .vpopc _ f => rrrFault { d := some 47, a := some 47, msk := true } f false false false
  | .vcvt _ f => rrrFault { d := some 47, a := some 47, ty := [1, 2, 3, 4, 5, 6, 7, 8, 9, 16, 17, 18, 19, 20, 21], rnd := true, sat := true, msk := true, aux := 0x1F0 } f false (!vcvtPair (f.ty.toNat) (f.aux.toNat / 16)) false
  | .vbq _ f => rrrFault { d := some 47, a := some 47, c := some 47, ty := [0, 4, 5, 6, 7, 8], rnd := true } f (f.d == f.c) false false
  | .vmxd _ f => rrrFault { d := some 47, a := some 47, b := some 47, ty := [4, 5, 1], rnd := true, msk := true, aux := 0x1F0 } f false (!([6, 7, 8].contains (f.aux.toNat / 16))) (f.ty != 1 && f.b != 0)
  | .vmov _ f => rrrFault { d := some 47, a := some 47, msk := true } f false false false
  | .vbca _ f => rrrFault { d := some 47, a := some 47, msk := true, aux := 0x7F } f false false false
  | .vext _ f => rrrFault { d := some 31, a := some 47, ty := [0, 20, 21], aux := 0x7F } f false false false
  | .vsel _ f => rrrFault { d := some 47, a := some 47, b := some 47, c := some 7, uni := true, msk := true } f false false false
  | .vshf _ f => rrrFault { d := some 47, a := some 47, b := some 47, uni := true, msk := true, aux := 0x3 } f false (f.aux.toNat % 4 == 3) false
  | .vqx _ f => rrrFault { d := some 47, a := some 47, msk := true, aux := 0xFF } f false false false
  | .vsld _ f => rrrFault { d := some 47, a := some 47, b := some 47, msk := true, aux := 0x7F } f false false false
  | .vred _ f => rrrFault { d := some 47, a := some 47, ty := [0, 1, 20, 21], rnd := true, msk := true, aux := 0xF } f false (redBad f) false
  | .vscan _ f => rrrFault { d := some 47, a := some 47, ty := [0, 1, 20, 21], rnd := true, msk := true, aux := 0x1F } f false (redBad f) false
  | .vvote _ f => rrrFault { d := some 7, a := some 7, msk := true, aux := 0x3 } f false (f.aux.toNat % 4 == 3) false
  | .vmpop _ f => rrrFault { d := some 47, a := some 7, msk := true, aux := 0x1 } f false false false
  | .mlog _ f => rrrFault { d := some 7, a := some 7, b := some 7, msk := true, aux := 0xF } f false false false
  | .mmovp _ f => rrrFault { d := some 7, a := some 7, msk := true, aux := 0x3 } f false (f.aux.toNat % 4 == 3) false
  | .vgath _ f => rrrFault { d := some 47, a := some 31, b := some 47, uni := true, ty := [0, 20, 21, 1, 18, 19, 16, 17], msk := true, aux := 0x1F } f false false false
  | .vscat _ f => rrrFault { d := some 47, a := some 31, b := some 47, uni := true, ty := [0, 20, 21, 1, 18, 19, 16, 17], msk := true, aux := 0x1F } f false false false
  | .mtd _ f => rrrFault { d := some 15, b := some 31, uni := true } f false false false
  | .mtz _ f => rrrFault { d := some 15 } f false false false
  | .mma _ f => rrrFault { d := some 15, a := some 15, b := some 15, aux := 0x7 } f false false false
  | .mmax _ f => rrrFault { d := some 15, a := some 15, b := some 15, aux := 0x7 } f false false false
  | .mmas _ f => rrrFault { d := some 15, a := some 15, b := some 15, c := some 7, aux := 0x7F } f false false false
  | .mfwd _ f => rrrFault { d := some 15, a := some 15, c := some 7, aux := 0x38 } f false false false
  | .mtv _ f => rrrFault { d := some 47, a := some 15, aux := 0xFF } f (decide (47 < f.d.toNat + f.aux.toNat / 32 % 8)) false (pairBad f)
  | .mvt _ f => rrrFault { d := some 15, a := some 47, aux := 0x1FF } f (decide (f.aux.toNat < 256 ∧ 47 < f.a.toNat + f.aux.toNat / 32 % 8)) false (pairBad f)
  | .mtt _ f => rrrFault { d := some 15, a := some 15, aux := 0xF } f false false false
  | .mscl _ f => rrrFault { d := some 15, a := some 15, b := some 47, rnd := true, aux := 0x3 } f false (f.aux.toNat % 4 == 0) false
  | .shpLoad _ f => rrrFault { d := some 7, aux := 0xFF } f false false false
  | .shpEdit _ f => rrrFault { d := some 7, a := some 7, b := some 31, uni := true, aux := 0x107 } f false false (!f.aux.getLsbD 8)
  | .tfetch _ f => rrrFault { d := (if f.aux.getLsbD 3 then some 15 else none), a := some 31, b := some 31, c := some 7, uni := true, aux := 0xF } f false false false
  | .tstore _ f => rrrFault { a := some 31, b := some 31, c := some 7, uni := true, aux := 0x7 } f false false false
  | .tgath _ f => rrrFault { d := some 15, a := some 31, b := some 31, c := some 7, uni := true, aux := 0x1FF } f (decide (31 < f.aux.toNat / 8)) false false
  | .tscat _ f => rrrFault { a := some 31, b := some 31, c := some 7, uni := true, aux := 0x1FF } f (decide (31 < f.aux.toNat / 8)) false false
  | .walw _ f => rrrFault { b := some 31, uni := true } f false false false
  | .wrd _ f => rrrFault { d := some 31, a := some 15 } f false false false
  | .wccrd _ f => rrrFault { d := some 31, aux := 0x1 } f false false false
  | .mcmdCopy _ f => rrrFault { d := (if f.aux.getLsbD 3 then some 15 else none), a := some 31, aux := 0x8 } f false false false
  | .mcmdFill _ f => rrrFault { d := (if f.aux.getLsbD 3 then some 15 else none), a := some 31, aux := 0x8 } f false false false
  | .mcmdReduce _ f => rrrFault { d := (if f.aux.getLsbD 3 then some 15 else none), a := some 31, aux := 0x8 } f false false false
  | .mired _ f => rrrFault { d := some 15, a := some 31, b := some 31, c := some 7, uni := true, aux := 0x1FF } f (decide (31 < f.aux.toNat / 8)) false false
  | .maadd _ f => rrrFault { a := some 31, b := some 31, c := some 7, uni := true, aux := 0x1FF } f (decide (31 < f.aux.toNat / 8)) false false
  | .send _ f => rrrFault { d := some 3, a := (if f.aux.getLsbD 8 then some 31 else some 47), aux := 0x103 } f (!f.aux.getLsbD 8 && decide (47 < f.a.toNat + f.aux.toNat % 4)) (decide (f.aux.toNat % 4 ≠ 0) && (f.d != 0 || f.aux.getLsbD 8)) false
  | .recv _ f => rrrFault { d := (if f.aux.getLsbD 8 then some 31 else some 47), a := some 3, aux := 0x103 } f (!f.aux.getLsbD 8 && decide (47 < f.d.toNat + f.aux.toNat % 4)) (decide (f.aux.toNat % 4 ≠ 0) && f.aux.getLsbD 8) false
  | .sendt _ f => rrrFault { d := some 3, b := some 31, uni := true, aux := 0x7F } f false false false
  | .recvt _ f => rrrFault { a := some 3, b := some 31, uni := true, aux := 0x7F } f false false false
  | .fput _ f => rrrFault { a := some 31, b := some 31, uni := true, aux := 0x3F } f false false false
  | .facc _ f => rrrFault { a := some 31, b := some 31, c := (if f.aux.getLsbD 8 then some 15 else none), uni := true, aux := 0x103 } f false false false
  | .cbase _ f => rrrFault { b := some 31, uni := true, aux := 0xF } f false false false
  | .cstat _ f => rrrFault { d := some 31, aux := 0xFF } f false false false
  | .movk _ f => movkFault f
  | .addi _ f => rriFault (some 31) (some 31) 1 0xFFFFFFFF f false false
  | .movi _ f => rriFault (some 31) none 1 0xFFFFFFFF f false false
  | .movhi _ f => rriFault (some 31) (some 31) 0 0xFFFFFFFF f false false
  | .ld _ f => memFault 31 [0, 16, 17, 18, 19, 20, 21, 22] false 0 f false false
  | .st _ f => memFault 31 [0, 16, 17, 18, 19, 20, 21, 22] false 0 f false false
  | .amo _ f => memFault 31 [0, 20, 21, 22] false 7 f false (f.aux == 7)
  | .acas _ f => memFault 31 [0, 20, 21, 22] false 7 f (f.d == 0 || f.d == 31) false
  | .vpart _ f => rriFault none none 0 0xFFFFFFFF f false (!([2, 4, 8, 16, 32, 64, 128].contains f.imm.toNat))
  | .viota _ f => rriFault (some 47) none 0x3F 0xFFFFFFFF f false false
  | .vsplat _ f => rriFault (some 47) (some 31) 0 0xFFFFFFFF f false false
  | .vld _ f => memFault 47 vMemTys true 2 f false (rawBad f)
  | .vst _ f => memFault 47 vMemTys true 3 f false (rawBad f)
  | .mtld _ f => memFault 15 [0] false 7 f false false
  | .mtst _ f => memFault 15 [0, 1, 2, 3, 4, 5, 6, 16, 17, 18, 19, 20, 21] false 7 f false false
  | .warm _ f => rriFault (some 15) (some 31) 1 0xFFFFFFFF f false false
  | .wchk _ f => rriFault (if f.md.getLsbD 0 then some 7 else none) none 1 0xFFFF f false false
  | .mfence _ f => rriFault (some 15) none 7 0 f (decide (4 < f.md.toNat % 8)) false
  | .crun _ f => rriFault (if f.md.getLsbD 0 then some 15 else none) (some 31) 1 0x3F f false false
  | .dispatcherRead => none
  | .clauseStart _ => none
  | .registerWriteBack _ => none
  | .eventCounterWindow _ => none
  | .tileGroupAccess _ => none
  | .streamCycleArrival _ => none
  | .meshEntryArrival _ _ _ => none
  | .recvtEntryWrite _ _ => none
  | .putPieceDelivery _ => none
  | .ingressBufferDrain => none
  | .fetchSnapshot _ => none
  | .fetchLanding _ _ => none
  | .miredLanding _ _ => none
  | .storeWriteCompletion _ => none
  | .maaddEffect _ => none
  | .mcmdBlockEffect _ _ _ => none
  | .mcmdCompletion _ => none
  | .mfenceCompletion _ => none
  | .moduleScheduleEntry _ _ => none
  | .moduleScheduleStall _ _ => none
  | .moduleScheduleDrain _ => none
  | .rowSparing _ _ _ _ => none
  | .moduleOffline _ _ => none
  | .deliverAtArrival _ => none
  | .lastCall _ => none
  | .arrivalBoundReport _ => none
  | .holdRequest _ _ _ => none
  | .gangHold _ => none
  | .holdQuantum _ => none
  | .holdEnd => none
  | .slackArm _ _ => none
  | .elasticBufferMargin => none
  | .slackStarvation => none
  | .pointReport _ => none
  | .reportTimeout _ _ => none
  | .galignAlignment _ _ => none
  | .gangStop _ _ => none
  | .coreStop => none
  | .handlerEntry => none
  | .singleStepTrap => none
  | .gangResume => none
  | .regionRestart => none
  | .taskLaunch => none
  | .taskEnd => none
  | .runPairingCheck _ _ => none
  | .planRecv _ _ => none
  | .planSend _ _ _ => none
  | .planReduce _ _ _ => none
  | .planForward _ _ _ => none
  | .planDeliver _ _ _ => none
  | .beatLanding _ => none
  | .runCompletion _ => none
  | .streamEnable _ => none
  | .streamDoorbell _ _ => none
  | .serrClear _ => none
  | .dispatchGrant => none
  | .pnop _ => none
  | .launch _ _ => none
  | .pageWalkRetry => none
  | .readyMessage _ => none
  | .gangGoAbort _ _ _ _ => none
  | .semwait _ _ => none
  | .semwaitPoll _ => none
  | .semwaitTimeout _ => none
  | .semsig _ _ _ _ _ => none
  | .mapx _ _ => none
  | .planld _ _ _ _ => none
  | .hcopy _ _ _ _ _ => none
  | .qfence _ => none
  | .preempt _ _ => none
  | .preemptPending => none
  | .discard => none
  | .preemptDrainEnd => none
  | .saveComplete => none
  | .wrdone _ => none
  | .resume _ _ => none
  | .restoreLaunch => none
  | .mpCoarseTune _ => none
  | .mpLock _ => none
  | .mpRotation _ => none
  | .mpEyeTraining _ => none
  | .mpGoLive _ => none
  | .mpStepComplete _ _ => none
  | .memoryPortDisable _ => none
  | .mpspareForce _ => none
  | .flitCrcFailure _ _ _ _ => none
  | .ringLockLoss _ _ _ => none
  | .spareLive _ => none
  | .marginScan _ _ => none
  | .laserEnable _ _ => none
  | .biasServoStep _ _ _ => none
  | .laserFailure _ => none
  | .join _ _ _ => none
  | .leave => none
  | .referenceLoss => none
  | .nbindGo => none
  | .scaleUpEnable _ _ => none
  | .quiesceRequest _ _ => none
  | .quiesceComplete _ => none
  | .scaleUpLaneFailure _ => none
  | .identityFrame _ => none
  | .identityFrameReceipt _ _ _ _ => none
  | .keySwitch _ => none
  | .keyRelease _ => none
  | .packageReset _ _ => none
  | .pcieTrainingRetry _ => none
  | .retirementPending _ _ => none
  | .retirementCommit _ => none
  | .getVersion => none
  | .getCapabilities => none
  | .negotiateAlgorithms _ => none
  | .getDigests => none
  | .getCertificate _ => none
  | .challenge _ => none
  | .getMeasurements _ _ => none
  | .keyExchange _ => none
  | .finish _ => none
  | .endSession => none
  | .unsupportedRequest => none
  | .mctpControl _ => none
  | .fwload _ _ _ _ _ => none
  | .svncommit _ _ => none
  | .reset _ _ _ => none
  | .setkey _ _ _ _ _ => none
  | .regread _ _ => none
  | .dbginWrite _ _ => none
  | .dbgoutRead _ => none
  | .wearSample _ => none
  | .thermalWarning _ => none
  | .thermalTrip _ _ => none
  | .supplyTrip _ => none
  | .registerWrite _ _ => none
  | .slackHoldEnd => none
  | .exchangeDieForwarding _ => none
  | .laneRetrainingComplete _ _ => none
  | .portTrainingComplete _ _ _ _ _ => none
  | .laserOk _ => none

/-- An instruction word is well formed (R61 to R72). -/
abbrev WellFormed (i : Instr) : Prop := i.fault = none

end Sys2Proof
end

