-- ==== Sys2Proof/Decode.lean ====
section
/-! DEFINITION. The decoder of clause headers and instruction words (R52 to R58, R61 to R73, R81) and the encoder beside
it. A word that decodes to nothing is rejected with the detail of R81. -/

namespace Sys2Proof

open Sys2Proof.Machine

/-! ## Fields of a word (R57) -/

def opcOf (w : Word) : BitVec 7 := w.extractLsb' 57 7
def gapOf (w : Word) : BitVec 3 := w.extractLsb' 54 3
def bodyOf (w : Word) : BitVec 50 := w.extractLsb' 0 50
def hdrOf (w : Word) : Hdr := ⟨w.extractLsb' 54 3, w.extractLsb' 51 3, w.extractLsb' 50 1⟩

/-- A word from its fields (R57). -/
def packWord (op : BitVec 7) (h : Hdr) (body : BitVec 50) : Word := op ++ h.gap ++ h.pred ++ h.pneg ++ body

/-! ## Bodies (R63, R67, R68, R70) -/

def rrrOf (w : Word) : RRR :=
  ⟨w.extractLsb' 44 6, w.extractLsb' 38 6, w.extractLsb' 32 6, w.extractLsb' 26 6, w.extractLsb' 21 5, w.extractLsb' 19 2,
   w.extractLsb' 15 4, w.extractLsb' 14 1, w.extractLsb' 11 3, w.extractLsb' 10 1, w.extractLsb' 9 1, w.extractLsb' 0 9⟩

def rrrBody (f : RRR) : BitVec 50 :=
  f.d ++ f.a ++ f.b ++ f.c ++ f.ty ++ f.rnd ++ f.cnd ++ f.sat ++ f.msk ++ f.ub ++ f.ubh ++ f.aux

def rriOf (w : Word) : RRI := ⟨w.extractLsb' 44 6, w.extractLsb' 38 6, w.extractLsb' 6 32, w.extractLsb' 0 6⟩

def rriBody (f : RRI) : BitVec 50 := f.d ++ f.a ++ f.imm ++ f.md

def memOf (w : Word) : MEM :=
  ⟨w.extractLsb' 44 6, w.extractLsb' 38 6, w.extractLsb' 14 24, w.extractLsb' 11 3, w.extractLsb' 6 5, w.extractLsb' 3 3,
   w.extractLsb' 0 3⟩

def memBody (f : MEM) : BitVec 50 := f.d ++ f.base ++ f.ofs ++ f.swz ++ f.ty ++ f.msk ++ f.aux

def srrOf (w : Word) : SRR :=
  ⟨w.extractLsb' 43 7, w.extractLsb' 36 7, w.extractLsb' 29 7, w.extractLsb' 22 7, w.extractLsb' 17 5, w.extractLsb' 13 4,
   w.extractLsb' 0 13⟩

def srrBody (f : SRR) : BitVec 50 := f.d ++ f.a ++ f.b ++ f.c ++ f.ty ++ f.cnd ++ f.aux

def sriOf (w : Word) : SRI := ⟨w.extractLsb' 43 7, w.extractLsb' 36 7, w.extractLsb' 4 32, w.extractLsb' 0 4⟩

def sriBody (f : SRI) : BitVec 50 := f.d ++ f.a ++ f.imm ++ f.md

def brfOf (w : Word) : BRF := ⟨w.extractLsb' 26 24, w.extractLsb' 1 25, w.extractLsb' 0 1⟩

def brfBody (f : BRF) : BitVec 50 := f.tgt ++ f.fbo ++ f.rsv

def slpOf (w : Word) : SLP := ⟨w.extractLsb' 43 7, w.extractLsb' 25 18, w.extractLsb' 0 25⟩

def slpBody (f : SLP) : BitVec 50 := f.kc ++ f.tgt ++ f.fbo

def scrOf (w : Word) : SCR := ⟨w.extractLsb' 43 7, w.extractLsb' 31 12, w.extractLsb' 0 31⟩

def scrBody (f : SCR) : BitVec 50 := f.d ++ f.sel ++ f.rsv

/-! ## Words -/

/-- An instruction that is well formed, or the detail of its first fault (R81). -/
def checked (i : Instr) : Except Nat Instr :=
  match i.fault with
  | none => .ok i
  | some d => .error d

/-- A word of the NUL format (R71): its body must be zero. -/
def nulWord (w : Word) (i : Instr) : Except Nat Instr := if bodyOf w = 0 then .ok i else .error 1

/-- The opcodes of column S (R73). -/
def decodeS (w : Word) : Except Nat Instr :=
  let h := hdrOf w
  match (opcOf w).toNat with
  | 0x0 => nulWord w (.nop .s h)
  | 0x1 => checked (.br h (brfOf w))
  | 0x2 => checked (.brc h (brfOf w))
  | 0x3 => checked (.loop h (slpOf w))
  | 0x4 => checked (.call h (brfOf w))
  | 0x5 => checked (.ret h (brfOf w))
  | 0x6 => checked (.fbset h (sriOf w))
  | 0x7 => checked (.fbabs h (srrOf w))
  | 0x8 => checked (.slack h (sriOf w))
  | 0x9 => nulWord w (.halt h)
  | 0xA => checked (.trap h (sriOf w))
  | 0xB => checked (.brk h (sriOf w))
  | 0xC => checked (.prept h (sriOf w))
  | 0xD => checked (.idemb h (sriOf w))
  | 0xE => nulWord w (.ideme h)
  | 0xF => checked (.galign h (srrOf w))
  | 0x10 => checked (.dccrd h (srrOf w))
  | 0x11 => checked (.crd h (scrOf w))
  | 0x12 => checked (.cwr h (scrOf w))
  | 0x13 => checked (.qvote h (srrOf w))
  | 0x20 => checked (.uniformAdd h (srrOf w))
  | 0x21 => checked (.uniformSub h (srrOf w))
  | 0x22 => checked (.uniformAddi h (sriOf w))
  | 0x23 => checked (.uniformMul h (srrOf w))
  | 0x24 => checked (.uniformMulh h (srrOf w))
  | 0x25 => checked (.uniformMulhu h (srrOf w))
  | 0x26 => checked (.uniformDiv h (srrOf w))
  | 0x27 => checked (.uniformDivu h (srrOf w))
  | 0x28 => checked (.uniformRem h (srrOf w))
  | 0x29 => checked (.uniformRemu h (srrOf w))
  | 0x2A => checked (.uniformAnd h (srrOf w))
  | 0x2B => checked (.uniformOr h (srrOf w))
  | 0x2C => checked (.uniformXor h (srrOf w))
  | 0x2D => checked (.uniformAndn h (srrOf w))
  | 0x2E => checked (.uniformShl h (srrOf w))
  | 0x2F => checked (.uniformShr h (srrOf w))
  | 0x30 => checked (.uniformSra h (srrOf w))
  | 0x31 => checked (.uniformRotl h (srrOf w))
  | 0x32 => checked (.uniformMin h (srrOf w))
  | 0x33 => checked (.uniformMax h (srrOf w))
  | 0x34 => checked (.uniformMinu h (srrOf w))
  | 0x35 => checked (.uniformMaxu h (srrOf w))
  | 0x36 => checked (.uniformCmp h (srrOf w))
  | 0x37 => checked (.uniformPlog h (srrOf w))
  | 0x38 => checked (.uniformSel h (srrOf w))
  | 0x39 => checked (.uniformMov h (srrOf w))
  | 0x3A => checked (.uniformMovi h (sriOf w))
  | 0x3B => checked (.uniformMovhi h (sriOf w))
  | 0x3C => checked (.uniformClz h (srrOf w))
  | 0x3D => checked (.uniformPopc h (srrOf w))
  | 0x3E => checked (.uniformBrev h (srrOf w))
  | 0x3F => checked (.uniformBfx h (srrOf w))
  | 0x40 => checked (.uniformBfi h (srrOf w))
  | 0x41 => checked (.uniformAddsh h (srrOf w))
  | _ => .error 0

/-- The opcodes of column A (R73). -/
def decodeA (w : Word) : Except Nat Instr :=
  let h := hdrOf w
  match (opcOf w).toNat with
  | 0x0 => nulWord w (.nop .a h)
  | 0x20 => checked (.add h (rrrOf w))
  | 0x21 => checked (.sub h (rrrOf w))
  | 0x22 => checked (.addi h (rriOf w))
  | 0x23 => checked (.mul h (rrrOf w))
  | 0x24 => checked (.mulh h (rrrOf w))
  | 0x25 => checked (.mulhu h (rrrOf w))
  | 0x26 => checked (.div h (rrrOf w))
  | 0x27 => checked (.divu h (rrrOf w))
  | 0x28 => checked (.rem h (rrrOf w))
  | 0x29 => checked (.remu h (rrrOf w))
  | 0x2A => checked (.and h (rrrOf w))
  | 0x2B => checked (.or h (rrrOf w))
  | 0x2C => checked (.xor h (rrrOf w))
  | 0x2D => checked (.andn h (rrrOf w))
  | 0x2E => checked (.shl h (rrrOf w))
  | 0x2F => checked (.shr h (rrrOf w))
  | 0x30 => checked (.sra h (rrrOf w))
  | 0x31 => checked (.rotl h (rrrOf w))
  | 0x32 => checked (.min h (rrrOf w))
  | 0x33 => checked (.max h (rrrOf w))
  | 0x34 => checked (.minu h (rrrOf w))
  | 0x35 => checked (.maxu h (rrrOf w))
  | 0x36 => checked (.cmp h (rrrOf w))
  | 0x37 => checked (.plog h (rrrOf w))
  | 0x38 => checked (.sel h (rrrOf w))
  | 0x39 => checked (.mov h (rrrOf w))
  | 0x3A => checked (.movi h (rriOf w))
  | 0x3B => checked (.movhi h (rriOf w))
  | 0x3C => checked (.clz h (rrrOf w))
  | 0x3D => checked (.popc h (rrrOf w))
  | 0x3E => checked (.brev h (rrrOf w))
  | 0x3F => checked (.bfx h (rrrOf w))
  | 0x40 => checked (.bfi h (rrrOf w))
  | 0x41 => checked (.addsh h (rrrOf w))
  | 0x42 => checked (.movk h (rrrOf w))
  | 0x50 => checked (.ld h (memOf w))
  | 0x51 => checked (.st h (memOf w))
  | 0x52 => checked (.amo h (memOf w))
  | 0x53 => checked (.acas h (memOf w))
  | _ => .error 0

/-- The opcodes of column V (R73). -/
def decodeV (w : Word) : Except Nat Instr :=
  let h := hdrOf w
  match (opcOf w).toNat with
  | 0x0 => nulWord w (.nop .v h)
  | 0x1 => checked (.vadd h (rrrOf w))
  | 0x2 => checked (.vsub h (rrrOf w))
  | 0x3 => checked (.vmul h (rrrOf w))
  | 0x4 => checked (.vfma h (rrrOf w))
  | 0x5 => checked (.vmin h (rrrOf w))
  | 0x6 => checked (.vmax h (rrrOf w))
  | 0x7 => checked (.vabs h (rrrOf w))
  | 0x8 => checked (.vneg h (rrrOf w))
  | 0x9 => checked (.vcmp h (rrrOf w))
  | 0xA => checked (.vclass h (rrrOf w))
  | 0xB => checked (.vrcp h (rrrOf w))
  | 0xC => checked (.vrsq h (rrrOf w))
  | 0xD => checked (.vsqrt h (rrrOf w))
  | 0xE => checked (.vexp2 h (rrrOf w))
  | 0xF => checked (.vlog2 h (rrrOf w))
  | 0x10 => checked (.vsin h (rrrOf w))
  | 0x11 => checked (.vcos h (rrrOf w))
  | 0x12 => checked (.vtanh h (rrrOf w))
  | 0x13 => checked (.vsigm h (rrrOf w))
  | 0x20 => checked (.viadd h (rrrOf w))
  | 0x21 => checked (.visub h (rrrOf w))
  | 0x22 => checked (.vimul h (rrrOf w))
  | 0x23 => checked (.vimulh h (rrrOf w))
  | 0x24 => checked (.vimin h (rrrOf w))
  | 0x25 => checked (.vimax h (rrrOf w))
  | 0x26 => checked (.viabs h (rrrOf w))
  | 0x27 => checked (.vshl h (rrrOf w))
  | 0x28 => checked (.vshr h (rrrOf w))
  | 0x29 => checked (.vsra h (rrrOf w))
  | 0x2A => checked (.vand h (rrrOf w))
  | 0x2B => checked (.vor h (rrrOf w))
  | 0x2C => checked (.vxor h (rrrOf w))
  | 0x2D => checked (.vicmp h (rrrOf w))
  | 0x2E => checked (.vclz h (rrrOf w))
  | 0x2F => checked (.vpopc h (rrrOf w))
  | 0x30 => checked (.vcvt h (rrrOf w))
  | 0x31 => checked (.vbq h (rrrOf w))
  | 0x32 => checked (.vmxd h (rrrOf w))
  | 0x38 => checked (.vmov h (rrrOf w))
  | 0x39 => checked (.vbca h (rrrOf w))
  | 0x3A => checked (.vext h (rrrOf w))
  | 0x3B => checked (.vsel h (rrrOf w))
  | 0x3C => checked (.vshf h (rrrOf w))
  | 0x3D => checked (.vqx h (rrrOf w))
  | 0x3E => checked (.vsld h (rrrOf w))
  | 0x3F => checked (.vpart h (rriOf w))
  | 0x40 => checked (.viota h (rriOf w))
  | 0x41 => checked (.vsplat h (rriOf w))
  | 0x48 => checked (.vred h (rrrOf w))
  | 0x49 => checked (.vscan h (rrrOf w))
  | 0x4A => checked (.vvote h (rrrOf w))
  | 0x4B => checked (.vmpop h (rrrOf w))
  | 0x4C => checked (.mlog h (rrrOf w))
  | 0x4D => checked (.mmovp h (rrrOf w))
  | 0x50 => checked (.vld h (memOf w))
  | 0x51 => checked (.vst h (memOf w))
  | 0x52 => checked (.vgath h (rrrOf w))
  | 0x53 => checked (.vscat h (rrrOf w))
  | 0x78 => .ok (.vhint h 0 (bodyOf w))
  | 0x79 => .ok (.vhint h 1 (bodyOf w))
  | 0x7A => .ok (.vhint h 2 (bodyOf w))
  | 0x7B => .ok (.vhint h 3 (bodyOf w))
  | 0x7C => .ok (.vhint h 4 (bodyOf w))
  | 0x7D => .ok (.vhint h 5 (bodyOf w))
  | 0x7E => .ok (.vhint h 6 (bodyOf w))
  | 0x7F => .ok (.vhint h 7 (bodyOf w))
  | _ => .error 0

/-- The opcodes of column M (R73). -/
def decodeM (w : Word) : Except Nat Instr :=
  let h := hdrOf w
  match (opcOf w).toNat with
  | 0x0 => nulWord w (.nop .m h)
  | 0x1 => checked (.mtd h (rrrOf w))
  | 0x2 => checked (.mtld h (memOf w))
  | 0x3 => checked (.mtst h (memOf w))
  | 0x4 => checked (.mtz h (rrrOf w))
  | 0x5 => checked (.mma h (rrrOf w))
  | 0x6 => checked (.mmax h (rrrOf w))
  | 0x7 => checked (.mmas h (rrrOf w))
  | 0x8 => checked (.mfwd h (rrrOf w))
  | 0x9 => checked (.mtv h (rrrOf w))
  | 0xA => checked (.mvt h (rrrOf w))
  | 0xB => checked (.mtt h (rrrOf w))
  | 0xC => checked (.mscl h (rrrOf w))
  | _ => .error 0

/-- The opcodes of column F (R73). -/
def decodeF (w : Word) : Except Nat Instr :=
  let h := hdrOf w
  match (opcOf w).toNat with
  | 0x0 => nulWord w (.nop .f h)
  | 0x1 => let f := rrrOf w; checked (if f.aux.getLsbD 8 then .shpEdit h f else .shpLoad h f)
  | 0x2 => checked (.tfetch h (rrrOf w))
  | 0x3 => checked (.tstore h (rrrOf w))
  | 0x4 => checked (.tgath h (rrrOf w))
  | 0x5 => checked (.tscat h (rrrOf w))
  | 0x6 => checked (.warm h (rriOf w))
  | 0x7 => checked (.wchk h (rriOf w))
  | 0x8 => checked (.walw h (rrrOf w))
  | 0x9 => checked (.wrd h (rrrOf w))
  | 0xA => checked (.mcmdCopy h (rrrOf w))
  | 0xB => checked (.mired h (rrrOf w))
  | 0xC => checked (.maadd h (rrrOf w))
  | 0xD => checked (.mfence h (rriOf w))
  | 0xE => checked (.wccrd h (rrrOf w))
  | _ => .error 0

/-- The opcodes of column X (R73). -/
def decodeX (w : Word) : Except Nat Instr :=
  let h := hdrOf w
  match (opcOf w).toNat with
  | 0x0 => nulWord w (.nop .x h)
  | 0x1 => checked (.send h (rrrOf w))
  | 0x2 => checked (.recv h (rrrOf w))
  | 0x3 => checked (.sendt h (rrrOf w))
  | 0x4 => checked (.recvt h (rrrOf w))
  | 0x5 => checked (.fput h (rrrOf w))
  | 0x6 => checked (.facc h (rrrOf w))
  | 0x7 => checked (.cbase h (rrrOf w))
  | 0x8 => checked (.crun h (rriOf w))
  | 0x9 => checked (.cstat h (rrrOf w))
  | _ => .error 0

/-- The instruction a word of a column holds, or the detail of its fault (R81). -/
def decodeWord (c : Col) (w : Word) : Except Nat Instr :=
  match c with
  | .s => decodeS w
  | .a => decodeA w
  | .v => decodeV w
  | .m => decodeM w
  | .f => decodeF w
  | .x => decodeX w

/-- The words of an instruction (R57, R63 to R73), with the column whose clauses hold it; an event has none. The three
module commands share one word: the command block names the operation (R329). -/
def encode : Instr → Option (Col × Word)
  | .nop c h => some (c, packWord 0x0 h 0)
  | .vhint h n x => some (.v, packWord (0x78 + n.zeroExtend 7) h x)
  | .br h f => some (.s, packWord 0x1 h (brfBody f))
  | .brc h f => some (.s, packWord 0x2 h (brfBody f))
  | .loop h f => some (.s, packWord 0x3 h (slpBody f))
  | .call h f => some (.s, packWord 0x4 h (brfBody f))
  | .ret h f => some (.s, packWord 0x5 h (brfBody f))
  | .fbset h f => some (.s, packWord 0x6 h (sriBody f))
  | .fbabs h f => some (.s, packWord 0x7 h (srrBody f))
  | .slack h f => some (.s, packWord 0x8 h (sriBody f))
  | .halt h => some (.s, packWord 0x9 h 0)
  | .trap h f => some (.s, packWord 0xA h (sriBody f))
  | .brk h f => some (.s, packWord 0xB h (sriBody f))
  | .prept h f => some (.s, packWord 0xC h (sriBody f))
  | .idemb h f => some (.s, packWord 0xD h (sriBody f))
  | .ideme h => some (.s, packWord 0xE h 0)
  | .galign h f => some (.s, packWord 0xF h (srrBody f))
  | .dccrd h f => some (.s, packWord 0x10 h (srrBody f))
  | .crd h f => some (.s, packWord 0x11 h (scrBody f))
  | .cwr h f => some (.s, packWord 0x12 h (scrBody f))
  | .qvote h f => some (.s, packWord 0x13 h (srrBody f))
  | .uniformAdd h f => some (.s, packWord 0x20 h (srrBody f))
  | .uniformSub h f => some (.s, packWord 0x21 h (srrBody f))
  | .uniformAddi h f => some (.s, packWord 0x22 h (sriBody f))
  | .uniformMul h f => some (.s, packWord 0x23 h (srrBody f))
  | .uniformMulh h f => some (.s, packWord 0x24 h (srrBody f))
  | .uniformMulhu h f => some (.s, packWord 0x25 h (srrBody f))
  | .uniformDiv h f => some (.s, packWord 0x26 h (srrBody f))
  | .uniformDivu h f => some (.s, packWord 0x27 h (srrBody f))
  | .uniformRem h f => some (.s, packWord 0x28 h (srrBody f))
  | .uniformRemu h f => some (.s, packWord 0x29 h (srrBody f))
  | .uniformAnd h f => some (.s, packWord 0x2A h (srrBody f))
  | .uniformOr h f => some (.s, packWord 0x2B h (srrBody f))
  | .uniformXor h f => some (.s, packWord 0x2C h (srrBody f))
  | .uniformAndn h f => some (.s, packWord 0x2D h (srrBody f))
  | .uniformShl h f => some (.s, packWord 0x2E h (srrBody f))
  | .uniformShr h f => some (.s, packWord 0x2F h (srrBody f))
  | .uniformSra h f => some (.s, packWord 0x30 h (srrBody f))
  | .uniformRotl h f => some (.s, packWord 0x31 h (srrBody f))
  | .uniformMin h f => some (.s, packWord 0x32 h (srrBody f))
  | .uniformMax h f => some (.s, packWord 0x33 h (srrBody f))
  | .uniformMinu h f => some (.s, packWord 0x34 h (srrBody f))
  | .uniformMaxu h f => some (.s, packWord 0x35 h (srrBody f))
  | .uniformCmp h f => some (.s, packWord 0x36 h (srrBody f))
  | .uniformPlog h f => some (.s, packWord 0x37 h (srrBody f))
  | .uniformSel h f => some (.s, packWord 0x38 h (srrBody f))
  | .uniformMov h f => some (.s, packWord 0x39 h (srrBody f))
  | .uniformMovi h f => some (.s, packWord 0x3A h (sriBody f))
  | .uniformMovhi h f => some (.s, packWord 0x3B h (sriBody f))
  | .uniformClz h f => some (.s, packWord 0x3C h (srrBody f))
  | .uniformPopc h f => some (.s, packWord 0x3D h (srrBody f))
  | .uniformBrev h f => some (.s, packWord 0x3E h (srrBody f))
  | .uniformBfx h f => some (.s, packWord 0x3F h (srrBody f))
  | .uniformBfi h f => some (.s, packWord 0x40 h (srrBody f))
  | .uniformAddsh h f => some (.s, packWord 0x41 h (srrBody f))
  | .add h f => some (.a, packWord 0x20 h (rrrBody f))
  | .sub h f => some (.a, packWord 0x21 h (rrrBody f))
  | .addi h f => some (.a, packWord 0x22 h (rriBody f))
  | .mul h f => some (.a, packWord 0x23 h (rrrBody f))
  | .mulh h f => some (.a, packWord 0x24 h (rrrBody f))
  | .mulhu h f => some (.a, packWord 0x25 h (rrrBody f))
  | .div h f => some (.a, packWord 0x26 h (rrrBody f))
  | .divu h f => some (.a, packWord 0x27 h (rrrBody f))
  | .rem h f => some (.a, packWord 0x28 h (rrrBody f))
  | .remu h f => some (.a, packWord 0x29 h (rrrBody f))
  | .and h f => some (.a, packWord 0x2A h (rrrBody f))
  | .or h f => some (.a, packWord 0x2B h (rrrBody f))
  | .xor h f => some (.a, packWord 0x2C h (rrrBody f))
  | .andn h f => some (.a, packWord 0x2D h (rrrBody f))
  | .shl h f => some (.a, packWord 0x2E h (rrrBody f))
  | .shr h f => some (.a, packWord 0x2F h (rrrBody f))
  | .sra h f => some (.a, packWord 0x30 h (rrrBody f))
  | .rotl h f => some (.a, packWord 0x31 h (rrrBody f))
  | .min h f => some (.a, packWord 0x32 h (rrrBody f))
  | .max h f => some (.a, packWord 0x33 h (rrrBody f))
  | .minu h f => some (.a, packWord 0x34 h (rrrBody f))
  | .maxu h f => some (.a, packWord 0x35 h (rrrBody f))
  | .cmp h f => some (.a, packWord 0x36 h (rrrBody f))
  | .plog h f => some (.a, packWord 0x37 h (rrrBody f))
  | .sel h f => some (.a, packWord 0x38 h (rrrBody f))
  | .mov h f => some (.a, packWord 0x39 h (rrrBody f))
  | .movi h f => some (.a, packWord 0x3A h (rriBody f))
  | .movhi h f => some (.a, packWord 0x3B h (rriBody f))
  | .clz h f => some (.a, packWord 0x3C h (rrrBody f))
  | .popc h f => some (.a, packWord 0x3D h (rrrBody f))
  | .brev h f => some (.a, packWord 0x3E h (rrrBody f))
  | .bfx h f => some (.a, packWord 0x3F h (rrrBody f))
  | .bfi h f => some (.a, packWord 0x40 h (rrrBody f))
  | .addsh h f => some (.a, packWord 0x41 h (rrrBody f))
  | .movk h f => some (.a, packWord 0x42 h (rrrBody f))
  | .ld h f => some (.a, packWord 0x50 h (memBody f))
  | .st h f => some (.a, packWord 0x51 h (memBody f))
  | .amo h f => some (.a, packWord 0x52 h (memBody f))
  | .acas h f => some (.a, packWord 0x53 h (memBody f))
  | .vadd h f => some (.v, packWord 0x1 h (rrrBody f))
  | .vsub h f => some (.v, packWord 0x2 h (rrrBody f))
  | .vmul h f => some (.v, packWord 0x3 h (rrrBody f))
  | .vfma h f => some (.v, packWord 0x4 h (rrrBody f))
  | .vmin h f => some (.v, packWord 0x5 h (rrrBody f))
  | .vmax h f => some (.v, packWord 0x6 h (rrrBody f))
  | .vabs h f => some (.v, packWord 0x7 h (rrrBody f))
  | .vneg h f => some (.v, packWord 0x8 h (rrrBody f))
  | .vcmp h f => some (.v, packWord 0x9 h (rrrBody f))
  | .vclass h f => some (.v, packWord 0xA h (rrrBody f))
  | .vrcp h f => some (.v, packWord 0xB h (rrrBody f))
  | .vrsq h f => some (.v, packWord 0xC h (rrrBody f))
  | .vsqrt h f => some (.v, packWord 0xD h (rrrBody f))
  | .vexp2 h f => some (.v, packWord 0xE h (rrrBody f))
  | .vlog2 h f => some (.v, packWord 0xF h (rrrBody f))
  | .vsin h f => some (.v, packWord 0x10 h (rrrBody f))
  | .vcos h f => some (.v, packWord 0x11 h (rrrBody f))
  | .vtanh h f => some (.v, packWord 0x12 h (rrrBody f))
  | .vsigm h f => some (.v, packWord 0x13 h (rrrBody f))
  | .viadd h f => some (.v, packWord 0x20 h (rrrBody f))
  | .visub h f => some (.v, packWord 0x21 h (rrrBody f))
  | .vimul h f => some (.v, packWord 0x22 h (rrrBody f))
  | .vimulh h f => some (.v, packWord 0x23 h (rrrBody f))
  | .vimin h f => some (.v, packWord 0x24 h (rrrBody f))
  | .vimax h f => some (.v, packWord 0x25 h (rrrBody f))
  | .viabs h f => some (.v, packWord 0x26 h (rrrBody f))
  | .vshl h f => some (.v, packWord 0x27 h (rrrBody f))
  | .vshr h f => some (.v, packWord 0x28 h (rrrBody f))
  | .vsra h f => some (.v, packWord 0x29 h (rrrBody f))
  | .vand h f => some (.v, packWord 0x2A h (rrrBody f))
  | .vor h f => some (.v, packWord 0x2B h (rrrBody f))
  | .vxor h f => some (.v, packWord 0x2C h (rrrBody f))
  | .vicmp h f => some (.v, packWord 0x2D h (rrrBody f))
  | .vclz h f => some (.v, packWord 0x2E h (rrrBody f))
  | .vpopc h f => some (.v, packWord 0x2F h (rrrBody f))
  | .vcvt h f => some (.v, packWord 0x30 h (rrrBody f))
  | .vbq h f => some (.v, packWord 0x31 h (rrrBody f))
  | .vmxd h f => some (.v, packWord 0x32 h (rrrBody f))
  | .vmov h f => some (.v, packWord 0x38 h (rrrBody f))
  | .vbca h f => some (.v, packWord 0x39 h (rrrBody f))
  | .vext h f => some (.v, packWord 0x3A h (rrrBody f))
  | .vsel h f => some (.v, packWord 0x3B h (rrrBody f))
  | .vshf h f => some (.v, packWord 0x3C h (rrrBody f))
  | .vqx h f => some (.v, packWord 0x3D h (rrrBody f))
  | .vsld h f => some (.v, packWord 0x3E h (rrrBody f))
  | .vpart h f => some (.v, packWord 0x3F h (rriBody f))
  | .viota h f => some (.v, packWord 0x40 h (rriBody f))
  | .vsplat h f => some (.v, packWord 0x41 h (rriBody f))
  | .vred h f => some (.v, packWord 0x48 h (rrrBody f))
  | .vscan h f => some (.v, packWord 0x49 h (rrrBody f))
  | .vvote h f => some (.v, packWord 0x4A h (rrrBody f))
  | .vmpop h f => some (.v, packWord 0x4B h (rrrBody f))
  | .mlog h f => some (.v, packWord 0x4C h (rrrBody f))
  | .mmovp h f => some (.v, packWord 0x4D h (rrrBody f))
  | .vld h f => some (.v, packWord 0x50 h (memBody f))
  | .vst h f => some (.v, packWord 0x51 h (memBody f))
  | .vgath h f => some (.v, packWord 0x52 h (rrrBody f))
  | .vscat h f => some (.v, packWord 0x53 h (rrrBody f))
  | .mtd h f => some (.m, packWord 0x1 h (rrrBody f))
  | .mtld h f => some (.m, packWord 0x2 h (memBody f))
  | .mtst h f => some (.m, packWord 0x3 h (memBody f))
  | .mtz h f => some (.m, packWord 0x4 h (rrrBody f))
  | .mma h f => some (.m, packWord 0x5 h (rrrBody f))
  | .mmax h f => some (.m, packWord 0x6 h (rrrBody f))
  | .mmas h f => some (.m, packWord 0x7 h (rrrBody f))
  | .mfwd h f => some (.m, packWord 0x8 h (rrrBody f))
  | .mtv h f => some (.m, packWord 0x9 h (rrrBody f))
  | .mvt h f => some (.m, packWord 0xA h (rrrBody f))
  | .mtt h f => some (.m, packWord 0xB h (rrrBody f))
  | .mscl h f => some (.m, packWord 0xC h (rrrBody f))
  | .shpEdit h f => some (.f, packWord 0x1 h (rrrBody f))
  | .shpLoad h f => some (.f, packWord 0x1 h (rrrBody f))
  | .tfetch h f => some (.f, packWord 0x2 h (rrrBody f))
  | .tstore h f => some (.f, packWord 0x3 h (rrrBody f))
  | .tgath h f => some (.f, packWord 0x4 h (rrrBody f))
  | .tscat h f => some (.f, packWord 0x5 h (rrrBody f))
  | .warm h f => some (.f, packWord 0x6 h (rriBody f))
  | .wchk h f => some (.f, packWord 0x7 h (rriBody f))
  | .walw h f => some (.f, packWord 0x8 h (rrrBody f))
  | .wrd h f => some (.f, packWord 0x9 h (rrrBody f))
  | .mcmdCopy h f => some (.f, packWord 0xA h (rrrBody f))
  | .mcmdFill h f => some (.f, packWord 0xA h (rrrBody f))
  | .mcmdReduce h f => some (.f, packWord 0xA h (rrrBody f))
  | .mired h f => some (.f, packWord 0xB h (rrrBody f))
  | .maadd h f => some (.f, packWord 0xC h (rrrBody f))
  | .mfence h f => some (.f, packWord 0xD h (rriBody f))
  | .wccrd h f => some (.f, packWord 0xE h (rrrBody f))
  | .send h f => some (.x, packWord 0x1 h (rrrBody f))
  | .recv h f => some (.x, packWord 0x2 h (rrrBody f))
  | .sendt h f => some (.x, packWord 0x3 h (rrrBody f))
  | .recvt h f => some (.x, packWord 0x4 h (rrrBody f))
  | .fput h f => some (.x, packWord 0x5 h (rrrBody f))
  | .facc h f => some (.x, packWord 0x6 h (rrrBody f))
  | .cbase h f => some (.x, packWord 0x7 h (rrrBody f))
  | .crun h f => some (.x, packWord 0x8 h (rriBody f))
  | .cstat h f => some (.x, packWord 0x9 h (rrrBody f))
  | .dispatcherRead => none
  | .clauseStart _ => none
  | .registerWriteBack _ => none
  | .eventCounterWindow _ => none
  | .tileGroupAccess _ => none
  | .streamCycleArrival _ => none
  | .meshEntryArrival _ _ _ => none
  | .recvtEntryWrite _ _ => none
  | .putPieceDelivery _ => none
  | .ingressBufferDrain => none
  | .fetchSnapshot _ => none
  | .fetchLanding _ _ => none
  | .miredLanding _ _ => none
  | .storeWriteCompletion _ => none
  | .maaddEffect _ => none
  | .mcmdBlockEffect _ _ _ => none
  | .mcmdCompletion _ => none
  | .mfenceCompletion _ => none
  | .moduleScheduleEntry _ _ => none
  | .moduleScheduleStall _ _ => none
  | .moduleScheduleDrain _ => none
  | .rowSparing _ _ _ _ => none
  | .moduleOffline _ _ => none
  | .deliverAtArrival _ => none
  | .lastCall _ => none
  | .arrivalBoundReport _ => none
  | .holdRequest _ _ _ => none
  | .gangHold _ => none
  | .holdQuantum _ => none
  | .holdEnd => none
  | .slackArm _ _ => none
  | .elasticBufferMargin => none
  | .slackStarvation => none
  | .pointReport _ => none
  | .reportTimeout _ _ => none
  | .galignAlignment _ _ => none
  | .gangStop _ _ => none
  | .coreStop => none
  | .handlerEntry => none
  | .singleStepTrap => none
  | .gangResume => none
  | .regionRestart => none
  | .taskLaunch => none
  | .taskEnd => none
  | .runPairingCheck _ _ => none
  | .planRecv _ _ => none
  | .planSend _ _ _ => none
  | .planReduce _ _ _ => none
  | .planForward _ _ _ => none
  | .planDeliver _ _ _ => none
  | .beatLanding _ => none
  | .runCompletion _ => none
  | .streamEnable _ => none
  | .streamDoorbell _ _ => none
  | .serrClear _ => none
  | .dispatchGrant => none
  | .pnop _ => none
  | .launch _ _ => none
  | .pageWalkRetry => none
  | .readyMessage _ => none
  | .gangGoAbort _ _ _ _ => none
  | .semwait _ _ => none
  | .semwaitPoll _ => none
  | .semwaitTimeout _ => none
  | .semsig _ _ _ _ _ => none
  | .mapx _ _ => none
  | .planld _ _ _ _ => none
  | .hcopy _ _ _ _ _ => none
  | .qfence _ => none
  | .preempt _ _ => none
  | .preemptPending => none
  | .discard => none
  | .preemptDrainEnd => none
  | .saveComplete => none
  | .wrdone _ => none
  | .resume _ _ => none
  | .restoreLaunch => none
  | .mpCoarseTune _ => none
  | .mpLock _ => none
  | .mpRotation _ => none
  | .mpEyeTraining _ => none
  | .mpGoLive _ => none
  | .mpStepComplete _ _ => none
  | .memoryPortDisable _ => none
  | .mpspareForce _ => none
  | .flitCrcFailure _ _ _ _ => none
  | .ringLockLoss _ _ _ => none
  | .spareLive _ => none
  | .marginScan _ _ => none
  | .laserEnable _ _ => none
  | .biasServoStep _ _ _ => none
  | .laserFailure _ => none
  | .join _ _ _ => none
  | .leave => none
  | .referenceLoss => none
  | .nbindGo => none
  | .scaleUpEnable _ _ => none
  | .quiesceRequest _ _ => none
  | .quiesceComplete _ => none
  | .scaleUpLaneFailure _ => none
  | .identityFrame _ => none
  | .identityFrameReceipt _ _ _ _ => none
  | .keySwitch _ => none
  | .keyRelease _ => none
  | .packageReset _ _ => none
  | .pcieTrainingRetry _ => none
  | .retirementPending _ _ => none
  | .retirementCommit _ => none
  | .getVersion => none
  | .getCapabilities => none
  | .negotiateAlgorithms _ => none
  | .getDigests => none
  | .getCertificate _ => none
  | .challenge _ => none
  | .getMeasurements _ _ => none
  | .keyExchange _ => none
  | .finish _ => none
  | .endSession => none
  | .unsupportedRequest => none
  | .mctpControl _ => none
  | .fwload _ _ _ _ _ => none
  | .svncommit _ _ => none
  | .reset _ _ _ => none
  | .setkey _ _ _ _ _ => none
  | .regread _ _ => none
  | .dbginWrite _ _ => none
  | .dbgoutRead _ => none
  | .wearSample _ => none
  | .thermalWarning _ => none
  | .thermalTrip _ _ => none
  | .supplyTrip _ => none
  | .registerWrite _ _ => none
  | .slackHoldEnd => none
  | .exchangeDieForwarding _ => none
  | .laneRetrainingComplete _ _ => none
  | .portTrainingComplete _ _ _ _ _ => none
  | .laserOk _ => none

/-! ## Clause headers (R52 to R55) -/

/-- A clause header (R52). -/
structure ClauseHdr where
  cls : BitVec 3
  cnt : BitVec 4
  start : BitVec 25
  wait : BitVec 16
  fpre : BitVec 1
  fidb : BitVec 1
  fide : BitVec 1
  rsv : BitVec 5
  chk : BitVec 8
  deriving DecidableEq, Repr, Inhabited

/-- The fields of a header word (R52). -/
def clauseHdrOf (w : Word) : ClauseHdr :=
  ⟨w.extractLsb' 61 3, w.extractLsb' 57 4, w.extractLsb' 32 25, w.extractLsb' 16 16, w.extractLsb' 15 1, w.extractLsb' 14 1,
   w.extractLsb' 13 1, w.extractLsb' 8 5, w.extractLsb' 0 8⟩

/-- A header word from its fields (R52). -/
def packClauseHdr (h : ClauseHdr) : Word :=
  h.cls ++ h.cnt ++ h.start ++ h.wait ++ h.fpre ++ h.fidb ++ h.fide ++ h.rsv ++ h.chk

/-- The exclusive-OR of the bits of byte `i` of a word. -/
def byteParity (w : Word) (i : Nat) : Bool :=
  ((List.range 8).map fun j => w.getLsbD (8 * i + j)).foldl (fun a b => a != b) false

/-- CHK of R53 for a header word. -/
def checkBits (w : Word) : BitVec 8 :=
  let up := (List.range 7).map fun i => byteParity w (i + 1)
  let low := up.foldl (fun a b => a != b) false
  BitVec.ofNat 8 ((low :: up).foldr (fun b n => 2 * n + b.toNat) 0)

/-- A header with the check bits of R53. -/
def sealHdr (w : Word) : Word := (w &&& ~~~(0xFF : Word)) ||| (checkBits w).zeroExtend 64

/-- The first fault of a header by its own bits (R54, R55, R81): class 0x4, check bits 0x5, reserved bits and the WAIT of an
S clause 0x6, flags of a clause that is no S clause 0x7. -/
def headerFault (w : Word) : Option Nat :=
  let h := clauseHdrOf w
  if h.cls = 6 then some 4
  else if h.chk ≠ checkBits w then some 5
  else if h.rsv ≠ 0 ∨ (h.cls = 0 ∧ h.wait ≠ 0) then some 6
  else if h.cls ≠ 0 ∧ h.cls ≠ 7 ∧ (h.fpre ≠ 0 ∨ h.fidb ≠ 0 ∨ h.fide ≠ 0) then some 7
  else none

/-- The flags of an S clause disagree with its words, or it holds two words of one of the flagged opcodes (R54). -/
def flagFault (w : Word) (words : List Word) : Option Nat :=
  let h := clauseHdrOf w
  let n := fun (op : BitVec 7) => (words.filter fun x => opcOf x == op).length
  if h.cls = 0 ∧ (n 0x0C ≠ h.fpre.toNat ∨ n 0x0D ≠ h.fidb.toNat ∨ n 0x0E ≠ h.fide.toNat) then some 7 else none

/-- Offsets of the words of a clause from its start, and its span (R58). -/
def wordOffsets : List Word → Nat → List Nat × Nat
  | [], n => ([], n)
  | w :: ws, n => let (os, sp) := wordOffsets ws (n + 1 + (gapOf w).toNat); (n :: os, sp)

/-- The opcodes of the frame-changing words of column S (R78). -/
def frameChanging (w : Word) : Bool := [1, 2, 3, 4, 5, 6, 7, 9, 0xA, 0xF].contains (opcOf w).toNat

/-- The instruction of a program's first two words: the clause header (the low 64 bits) and the clause's first word. The
word is read in the column that the header names; a pad clause holds none. -/
def decodeTableWord (_nbits w : Nat) : Option Instr :=
  let hdr : Word := BitVec.ofNat 64 w
  match Col.ofCls (clauseHdrOf hdr).cls with
  | none => none
  | some c =>
    match decodeWord c (BitVec.ofNat 64 (w / 2 ^ 64)) with
    | .ok i => some i
    | .error _ => none

end Sys2Proof
end

