-- ==== Sys2Proof/Machine/CoreState.lean ====
section
/-! DEFINITION. What one logical core and one row of the package hold: registers, tiles, barriers, windows, the local
store with the classes of its check bits, receive buffers, traps, and the row's stream, frame and dispatcher. -/

namespace Sys2Proof.Machine

open Sys2Proof

/-- A task slot of the package. At most eight tasks hold rows; a saved or ended task whose far-memory writes go on keeps its slot
beside them (R152, R392), so there is no last slot. -/
abbrev Slot := Nat

/-- The class of an aligned 8-byte word of the local store or of a tile register under the code of R141. -/
inductive LsClass where
  | clean | corrected | poisoned | uncorrectable
  deriving DecidableEq, Repr, Inhabited

/-- An arrival barrier (R304). -/
structure Barrier where
  arm : Bool := false
  psn : Bool := false
  lost : Bool := false
  ovr : Bool := false
  src : Bool := false
  pend : Nat := 0
  deriving DecidableEq, Repr, Inhabited

/-- A put window (R258). -/
structure PutWin where
  base : Nat := 0
  len : Nat := 0x1800000
  ben : Bool := false
  w : Nat := 0
  deriving DecidableEq, Repr, Inhabited

/-- An entry of an extent table (R145). -/
structure Extent where
  taddr : Nat
  size : Nat
  maddr : Nat
  md : Nat
  r : Bool
  w : Bool
  a : Bool
  deriving DecidableEq, Repr, Inhabited

/-- Scheduled engine-port accesses of one word (R135): from local cycle `start` on, `n` bytes from `la`, `per` bytes a
cycle, under a swizzle mode. -/
structure EngClaim where
  start : Nat
  la : Nat
  n : Nat
  per : Nat
  sw : Nat
  deriving DecidableEq, Repr, Inhabited

/-- The core-port bank words of one local cycle (R137). -/
structure PortClaim where
  cycle : Nat
  words : List Nat
  deriving DecidableEq, Repr, Inhabited

/-- A bank word held in the ingress write buffer (R136): its number, the bytes held, whether any is poisoned and
whether it belongs to a DELIVER beat. -/
structure IngressWord where
  word : Nat
  bytes : List (Nat × Byte)
  poison : List Nat
  deliver : Bool
  deriving DecidableEq, Repr, Inhabited

/-- A receive buffer (R247, R248): the entries present, oldest first, the cycles at which announced entries of SENDT
words will arrive, and the number of places occupied. -/
structure RxBuf where
  entries : List MeshEntry := []
  announced : List Nat := []
  occupied : Nat := 0
  deriving DecidableEq, Repr, Inhabited

/-- The stream that an MMAS or MFWD word of a core is using or waits to receive (R287 to R290). -/
structure StreamUse where
  wid : Nat
  mfwd : Bool
  head : Bool
  fwd : Bool
  n : Nat
  tile : Nat
  zero : Bool
  start : Nat
  descA : Word
  aBytes : List Byte := []
  aScale : List Byte := []
  header : Option StreamCyc := none
  slices : List (List Byte) := []
  dead : Bool := false
  nth : Nat := 0
  /-- What the word has replaced of an MFWD's destination and no other word has written since (R284): the descriptor, the bytes by
  their place in the tile, and the classes of tile words. -/
  oldTd : Option Word := none
  oldBytes : List (Nat × Byte) := []
  oldCls : List (Nat × LsClass) := []
  deriving DecidableEq, Repr

/-- A write-back of the running cycle with what it replaced (R182): a trap of the same cycle holds it. -/
structure Undone where
  rank : Nat
  ord : Nat
  wb : WriteBack
  olds : List RegWrite
  cls : List (Nat × LsClass) := []
  deriving DecidableEq, Repr

/-- What one logical core holds. -/
structure Core where
  /-- Physical column (R195). -/
  pcol : Nat := 0
  /-- a1 to a31 (R196). -/
  a : Sparse Word := []
  /-- p0 to p6 (R196). -/
  p : Sparse Bool := []
  /-- v0 to v47, lane i of register r at 128 r + i (R219). -/
  v : Sparse Lane := []
  /-- m0 to m6, bit i of register r at 128 r + i (R219). -/
  m : Sparse Bool := []
  /-- Segment width W (R219). -/
  seg : Nat := 128
  /-- b0 to b15 (R223). -/
  bnd : Sparse Word := []
  /-- t0 to t15, byte i of tile t at 16384 t + i (R271). -/
  tile : Sparse Byte := []
  /-- Check-bit classes of the tiles' 8-byte words (R295). -/
  tileCls : Sparse LsClass := []
  /-- TD0 to TD15 (R272). -/
  td : Sparse Word := []
  /-- Tile bytes as they stood before the matrix results written in the running cycle (R296). -/
  tileOld : List (Nat × Byte) := []
  /-- The GCC to which `tileOld` belongs. -/
  tileOldAt : Nat := 0
  /-- g0 to g7 (R298). -/
  g : Sparse (BitVec 256) := []
  /-- w0 to w15 (R304). -/
  w : Sparse Barrier := []
  /-- ALLOW.LIMIT (R303). -/
  limit : Nat := 0x200000
  /-- ALLOW.INFL (R303). -/
  infl : Nat := 0
  /-- LFREE, SFREE, LWCC and LAST (R297). -/
  lfree : Nat := 0
  sfree : Nat := 0
  lwcc : Nat := 0
  last : Nat := 0
  /-- The landed-poison record (R320). -/
  pcnt : Nat := 0
  psrc : Bool := false
  pmod : Nat := 0
  paddr : Nat := 0
  /-- Landing share (R301). -/
  share : Nat := 0
  /-- The valid entries of the extent table (R145). -/
  extents : List Extent := []
  /-- The local store (R133). -/
  ls : Memory := []
  /-- Check-bit classes of the local store's 8-byte words (R141). -/
  lsCls : Sparse LsClass := []
  /-- The ingress write buffer, oldest first (R136). -/
  ingress : List IngressWord := []
  /-- Receive buffers of xe, xw, xn and xs, at keys 0 to 3 (R247). -/
  rx : Sparse RxBuf := []
  /-- Put windows 0 to 3 (R258). -/
  win : Sparse PutWin := []
  /-- Base registers BT0 to BT15 of collective runs (R353). -/
  bt : Sparse Word := []
  /-- EVCFG0 to EVCFG3, EVCNT0 to EVCNT3 and EVLIM0 to EVLIM3 (R191). -/
  evcfg : Sparse Word := []
  evcnt : Sparse Word := []
  evlim : Sparse Word := []
  /-- TRAPF and STOPG (R193, R194). -/
  trapf : Word := 0
  /-- Words issued at this core since launch (R194). -/
  nIssued : Nat := 0
  stopg : Word := 0
  /-- The stop GCC of the running stop front (R181). -/
  sigma : Option Nat := none
  /-- The core has frozen at its stop GCC (R182), and a trap was recorded at it in this stop (R194). -/
  frozen : Bool := false
  trapped : Bool := false
  /-- Core-port and engine-port accesses already fixed (R135, R137). -/
  port : List PortClaim := []
  eng : List EngClaim := []
  /-- Bank words written by ingress pieces in the running cycle (R136, R262). -/
  ingressUse : List Nat := []
  ingressAt : Nat := 0
  ingressPieces : Nat := 0
  /-- The east-link stream this core uses (R287). -/
  stream : Option StreamUse := none
  /-- The stream header that arrived last, and its GCC (R290). -/
  strHeader : Option StreamCyc := none
  strAt : Nat := 0
  /-- The write-backs carried out in the GCC `undoAt` (R182). -/
  undo : List Undone := []
  undoAt : Nat := 0
  deriving DecidableEq, Repr

/-- A clause the dispatcher has found in the stream (R52, R77 to R82, R159): its header's word address, its class code, its
number of words, START, the frame base (none while a GALIGN is open), WAIT, the fault found, whether it fails R80, R250 or
R278, whether it is the first clause of a launch or a handler and starts before row cycle 32 (R45, R186), whether its header has been read, the cycle of its delivery, whether its last word has issued at column 0, whether a
HALT has discarded it, whether it belongs to a handler, and the uniform values captured by its words. -/
structure Clause where
  id : Nat
  addr : Nat
  cls : Nat
  cnt : Nat
  start : Nat
  fb : Option Nat
  wait : Nat
  fault : Option Nat := none
  clash : Bool := false
  early : Bool := false
  read : Bool := false
  delivered : Option Nat := none
  left : Bool := false
  dropped : Bool := false
  handler : Bool := false
  uni : Sparse (List Word) := []
  deriving DecidableEq, Repr

/-- Resources that dispatched words of columns M and X claim (R250, R278), in row cycles as GCC at logical column 0:
kind 0 to 3 the slots of xe, xw, xn, xs, 4 xf, 5 the mesh budget, 6 the multiply array. -/
structure ResClaim where
  kind : Nat
  first : Nat
  len : Nat
  slots : Nat
  deriving DecidableEq, Repr

/-- The snapshot of an open idempotent region (R171) and its poison-restart flag (R321). -/
structure Region where
  tag : Nat
  addr : Nat
  entry : Nat
  k : Sparse Word
  q : Sparse Bool
  rstack : List Nat
  fb : Nat
  restarted : Bool := false
  /-- The region has been restarted and its IDEMB has not yet issued again. -/
  redo : Bool := false
  /-- The numbers of SLACK, PREPT and GALIGN words the row had issued at the entry. -/
  counts : Nat × Nat × Nat := (0, 0, 0)
  deriving DecidableEq, Repr

/-- What one row of the package holds. -/
structure Row where
  /-- The row exists after retirement (R16), and its physical row (R195). -/
  present : Bool := true
  prow : Nat := 0
  /-- A row gap lies between this row and the next (R16). -/
  gapBelow : Bool := false
  /-- The slot of the task that owns the row, and the row's index in the row set (R193). -/
  task : Option Slot := none
  rowid : Nat := 0
  /-- Instruction SRAM and the length of the stream (R51). -/
  sram : Sparse Word := []
  slen : Nat := 0
  /-- k1 to k95, q0 to q6 and the handler bank (R159). -/
  k : Sparse Word := []
  q : Sparse Bool := []
  kh : Sparse Word := []
  qh : Sparse Bool := []
  /-- Return stack and handler return stack, top first (R159). -/
  rstack : List Nat := []
  hstack : List Nat := []
  /-- FB, and the task's FB kept aside in handler mode (R186). -/
  fb : Nat := 0
  fbTask : Nat := 0
  handler : Bool := false
  /-- The row has begun and not yet ended its stream (R166), and the GCC of its HALT. -/
  running : Bool := false
  halted : Option Nat := none
  /-- The dispatcher reads the stream at this word address (R77); none while it reads nothing. -/
  rpos : Option Nat := none
  /-- Where the dispatcher reads on after each clause of a re-feed list (R403). -/
  refeed : List Nat := []
  /-- The frame is open until a GALIGN is answered (R164). -/
  frameOpen : Bool := false
  /-- A row waits in GALIGN: its ordinal, issue GCC and destination register (R164). -/
  galign : Option (Nat × Nat × Nat) := none
  /-- The dispatcher's own state while the row is in handler mode (R186). -/
  rposTask : Option Nat := none
  frameOpenTask : Bool := false
  galignTask : Option (Nat × Nat × Nat) := none
  /-- Dispatched clauses: the column queues and the retained list (R79, R159). -/
  clauses : List Clause := []
  /-- The cycle at which the last clause of each column ends, by the column's place (R80). -/
  colEnd : Sparse Nat := []
  claims : List ResClaim := []
  /-- The open idempotent region (R171). -/
  region : Option Region := none
  /-- TRAPC, TVEC, SSTEP, DBGIN, DBGOUT, DBGST and TRAPFS (R193 to R195). -/
  trapc : Word := 0
  tvec : Word := 0
  sstep : Word := 0
  dbgin : Word := 0
  dbgout : Word := 0
  dbgst : Word := 0
  trapfs : Word := 0
  /-- The GCC at which the slack-starvation count began (R41), counting only running cycles. -/
  slackAt : Nat := 0
  /-- How many SLACK, PREPT and GALIGN words the row has issued (R446). -/
  nSlack : Nat := 0
  nPrept : Nat := 0
  nGalign : Nat := 0
  /-- The sequencer's stop GCC and whether it has frozen (R181, R182). -/
  sigma : Option Nat := none
  frozen : Bool := false
  /-- A trap was recorded in TRAPFS in this stop (R194). -/
  trapped : Bool := false
  /-- The key (x, place) of the trap that set the row's front, and whether it is secondary (R194). -/
  front : Option (Nat × Nat) := none
  /-- The sequencer's write-backs carried out in the GCC `undoAt` (R182). -/
  undo : List Undone := []
  undoAt : Nat := 0
  /-- The row has requested resume (R183). -/
  wantsResume : Bool := false
  /-- The row has stopped at a PREPT, with its liveness record (R168). -/
  prept : Option Nat := none
  deriving DecidableEq, Repr

end Sys2Proof.Machine
end

