-- ==== Sys2Proof/Machine/GangState.lean ====
section
/-! DEFINITION. What the package holds of one task and of the gang it belongs to: its counts, holds and stops, its far
memory transfers, its collective plans and runs, and its pre-emption. -/

namespace Sys2Proof.Machine

open Sys2Proof

/-- The kinds of far-memory operation (R151, R325). -/
inductive XKind where
  | fetch | gath | mired | store | scat | maadd | copy | fill | reduce
  deriving DecidableEq, Repr, Inhabited

/-- A far-memory transfer or module command in flight (R148, R312, R313, R330 to R332): its issuing core and GCC, its
channel index, the local-store side (address, bytes, share, swizzle), the shape, base address and index list that give
every tensor address, the bytes carried and which of them are poisoned. -/
structure Xfer where
  id : Nat
  kind : XKind
  row : Fin 8
  core : Fin 8
  g : Nat
  ch : Nat
  la : Nat := 0
  n : Nat := 0
  s : Nat := 1
  sw : Nat := 0
  bar : Option Nat := none
  shape : BitVec 256 := 0
  base : Word := 0
  idx : List Int := []
  bad : List Bool := []
  h : Nat := 1
  /-- Bytes by landing order: of a fetch after its snapshot, of a store after its source reads. -/
  data : Sparse Byte := []
  /-- Bytes poisoned at their source and in transit (R320). -/
  srcPsn : List Nat := []
  traPsn : List Nat := []
  /-- An MCMD block (R329). -/
  dst : Nat := 0
  src : Nat := 0
  len : Nat := 0
  value : Word := 0
  ty : Nat := 0
  rop : Nat := 0
  /-- Write-completion, completion or last landing cycle. -/
  wcc : Nat := 0
  /-- Modules that have still to serve the transfer's snapshot or write (R324, R335, R336). -/
  waits : List Nat := []
  /-- The bags of a MIRED that hold a row from a poisoned sector, with that sector's module and address (R331). -/
  bags : List (Nat × Nat × Nat) := []
  /-- The extents of the issuing core, kept once its row belongs to the task no longer (R401). -/
  ext : List Extent := []
  deriving DecidableEq, Repr

/-- A gang hold that has been announced (R34): effective GCC, quanta, whether a debugger holds the gang there until it ends that hold, and
how many of the quanta are a debugger's, which count against no limit (R37). -/
structure HoldRec where
  h : Nat
  n : Nat
  debug : Bool := false
  free : Nat := 0
  deriving DecidableEq, Repr, Inhabited

/-- A write of module memory with its place in time (R149, R150, R323): the key of that place, bytes by their place in module
memory, the places that arrive poisoned, the sectors that a read rewrites poisoned where it finds them uncorrectable (R337), and those that a row
copy reads, whose correctable errors it leaves behind (R339). -/
structure ModWrite where
  key : Nat
  bytes : List (Nat × Byte) := []
  psn : List Nat := []
  reads : List Nat := []
  copies : List Nat := []
  deriving DecidableEq, Repr, Inhabited

/-- An entry of a stalled channel schedule (R335): its GCC g, the key of its place in time (R150, R323) and what is to be
done. -/
structure SchedEntry where
  g : Nat
  key : Nat
  op : ModOp
  deriving DecidableEq, Repr

/-- Something that a stalled schedule lacks (R335): the mark of it, the DCC W of the domain cycle in which the gang reached its
GCC, the effective GCC of the hold requested for it, and the first module address it concerns (R375). -/
structure Missing where
  mark : LateMark
  since : Nat
  hold : Nat
  addr : Nat := 0
  deriving DecidableEq, Repr, Inhabited

/-- A stalled channel schedule of the gang at a module (R335): the GCC at which it stalled, what is still missing, the entries
waiting, the GCC the drain has come to, whether it is draining, work of other gangs that waits for the drain (R336), with
its slot, and the GCCs that a resume has left out, which the drain steps over: the first of each run and their number (R184). -/
structure Stall where
  md : Nat
  w : Nat
  missing : List Missing := []
  queue : List SchedEntry := []
  pos : Nat := 0
  draining : Bool := false
  waiters : List (Nat × SchedEntry) := []
  gaps : List (Nat × Nat) := []
  deriving DecidableEq, Repr

/-- A resident collective plan (R346). -/
structure Plan where
  index : Nat
  cbuf : Nat
  entries : List PlanEntry
  deriving DecidableEq, Repr, Inhabited

/-- The run record of a plan (R357). -/
structure RunRec where
  run : Bool := false
  runs : Nat := 0
  p0 : Nat := 0
  e : Nat := 0
  c : Nat := 0
  deriving DecidableEq, Repr, Inhabited

/-- A dependency counter (R359): beats still due and beats counted since it was armed. -/
structure PlanCtr where
  pend : Nat := 0
  got : Nat := 0
  deriving DecidableEq, Repr, Inhabited

/-- An active run of a plan (R355): launching core and GCC, start, captured bases (row, column, base entry, value),
counters, bound tags (tag, destination, counter), the barrier of the CRUN, the record to put back when the run is
thrown away, and the FPUT egress and local-store read cycles it uses. -/
structure Run where
  plan : Nat
  row : Fin 8
  core : Fin 8
  g : Nat
  p0 : Nat
  e : Nat
  bases : List (Nat × Nat × Nat × Word)
  ctrs : Sparse PlanCtr := []
  tags : List (Nat × Nat × Nat) := []
  bar : Option Nat := none
  before : RunRec := {}
  deriving DecidableEq, Repr

/-- The primary trap of a gang stop (R180): GCC, member rank, row, place (0 sequencer, 1 + c core c). -/
structure Primary where
  x : Nat
  rank : Nat
  row : Nat
  place : Nat
  deriving DecidableEq, Repr, Inhabited

/-- A gang stop in force (R181). -/
structure Stop where
  primary : Primary
  code : Nat
  /-- The module freeze GCC S, once the gang has reached it. -/
  s : Option Nat := none
  /-- The record of the primary trap (R375): detail and logical column, 0xFF for the sequencer. -/
  detail : Nat := 0
  col : Nat := 0xFF
  /-- The task terminates whatever its handlers ask (R40, R368). -/
  fatal : Bool := false
  /-- A poison consumption asks for a region restart or a termination (R321). -/
  restart : Bool := false
  source : Option (Nat × Nat) := none
  deriving DecidableEq, Repr

/-- A pre-emption in progress (R390 to R401): the packet, the GCC at which it becomes pending, whether it is pending,
its discard announcement, the PREPT it took effect at, and the drain end. -/
structure Preempt where
  strm : Nat
  pkt : PreemptPkt
  q : Nat
  pending : Bool := false
  discardAt : Option Nat := none
  /-- A region has closed since the discard was announced. -/
  lapsed : Bool := false
  taken : Option Nat := none
  drained : Option Nat := none
  /-- The size of the image being saved, and whether its WRDONE is 1 (R395). -/
  size : Nat := 0
  done : Bool := false
  deriving DecidableEq, Repr

/-- What the report of a LAUNCH, PLANLD, PREEMPT or RESUME says beside TASKID and DCC (R375, R383). -/
structure EndReport where
  code : Nat
  trapc : Nat := 0
  detail : Nat := 0
  row : Nat := 0xFF
  col : Nat := 0xFF
  rank : Option Nat := none
  addr : Nat := 0
  module : Nat := 0xFF
  aux : Nat := 0
  deriving DecidableEq, Repr, Inhabited

/-- One task slot of the package and its gang. -/
structure Task where
  live : Bool := false
  taskid : Nat := 0
  rank : Nat := 0
  members : Nat := 1
  gangTag : Nat := 0
  strm : Nat := 0
  report : Nat := 0
  image : Nat := 0
  ctx : MapCtx := {}
  pod0 : Nat := 0
  firstRow : Nat := 0
  nrows : Nat := 0
  /-- GCC, HOLDS, SLKR and SHIFTC (R25, R193). -/
  gcc : Nat := 0
  holds : Nat := 0
  slkr : Nat := 0
  shiftc : Nat := 0
  launch : Nat := 0
  llead : Nat := 64
  holdLim : Nat := 64
  /-- Holds announced and not yet begun, and the one in force with the DCC at which it began (R34, R35). -/
  announced : List HoldRec := []
  holding : Option (HoldRec × Nat) := none
  /-- Armed slack (R39): amount and the GCC it is valid from, and a slack hold in force. -/
  armed : Nat := 0
  armedFrom : Nat := 0
  slackHold : Bool := false
  /-- The DCC at which the slack hold in force ends, and the holds that have ended: GCC and domain cycles absorbed (R39, R446). -/
  slackEnd : Nat := 0
  pastHolds : List (Nat × Nat) := []
  /-- Reports held by the hold master and the comparisons it has closed (R446). -/
  points : List Point := []
  /-- Route, shape, liveness and plan tables (R263, R300, R169, R346). -/
  routes : Sparse (BitVec 128) := []
  shapes : List (BitVec 256) := []
  lrecs : List (List Byte) := []
  plans : List Plan := []
  /-- Run records by plan index, active runs, chunk buffer and the classes of its 8-byte words (R344, R345). -/
  records : Sparse RunRec := []
  runs : List Run := []
  /-- Runs that have completed and that a restart of the open region of their launching row would throw away (R366). -/
  doneRuns : List Run := []
  cbuf : Memory := []
  cbufCls : Sparse LsClass := []
  /-- Runs started of each plan (R356), its most recent run's launching core at 8 row + column (R368), and one more than the
  GCC at which a CRUN of it last came to step 5 (R355). -/
  runCount : Sparse Nat := []
  /-- The starts of runs that other members have announced (R356): plan, ordinal, rank, P0. -/
  peerP0 : List (Nat × Nat × Nat × Nat) := []
  lastRun : Sparse Nat := []
  crunAt : Sparse Nat := []
  /-- Transfers in flight, late marks and stalled module schedules. -/
  xfers : List Xfer := []
  lates : List LateMark := []
  /-- The transfers and delivery cycles that have requested a hold (R34, R445). -/
  asked : List (Nat × Nat) := []
  stalls : List Stall := []
  /-- The far-memory writes, module commands and puts issued (R154): core at 8 row + column, issue GCC, last effect or
  completion cycle. -/
  effects : List (Nat × Nat × Nat) := []
  /-- The puts to other members (R261, R268): core at 8 row + column, the put's number, last delivery cycle. -/
  aways : List (Nat × Nat × Nat) := []
  /-- The gang stop in force (R181), and the GCC from which the modules and exchange dies stand still (R182). -/
  stop : Option Stop := none
  schedFreeze : Option Nat := none
  /-- How the task is ending (R49, R156). -/
  ending : Option EndReport := none
  /-- DCC of the task's end, and the latest DCC at which one of its far-memory writes has taken effect (R375, R395). -/
  endDcc : Nat := 0
  lastFx : Nat := 0
  /-- The task has been saved and its rows released; its far-memory writes go on (R392, R395): the save area. -/
  ghost : Option Nat := none
  /-- The latest completion of a fetch, gather or MIRED (R392). -/
  landed : Nat := 0
  /-- At the hold master, the ranks whose PREEMPT has come (R390), and the open regions that rows of other members have reported:
  rank, row, entry GCC (R394). -/
  preempts : List Nat := []
  peerRegions : List (Nat × Nat × Nat) := []
  preempt : Option Preempt := none
  deriving DecidableEq, Repr

end Sys2Proof.Machine
end

