-- ==== Sys2Proof/Machine/PackageState.lean ====
section
/-! DEFINITION. What the package holds outside its cores, rows and tasks: streams and front end, optical ports, lasers,
the domain registers, start-up, management and the event queue. -/

namespace Sys2Proof.Machine

open Sys2Proof

/-! ## Streams and the dispatch engine (R371 to R384) -/

/-- The packet that a front end is executing (R372, R373): its number, its offset, where the next one begins, its IRQ bit,
and whether the stream has been enabled anew since it was read. -/
structure Busy where
  id : Nat
  pos : Nat
  next : Nat
  irq : Bool
  stale : Bool := false
  deriving DecidableEq, Repr, Inhabited

/-- A command stream (R371): SBASE, SCTL, SHEAD, STAIL and SERR, its map context (R377), the packet in execution, the
semaphore a SEMWAIT waits for, a QFENCE that waits, and the images saved by its PREEMPT packets whose WRDONE is still 0
(R382). -/
structure Stream where
  base : Nat := 0
  en : Bool := false
  prio : Nat := 0
  log2 : Nat := 12
  head : Nat := 0
  tail : Nat := 0
  err : Bool := false
  code : Nat := 0
  pos : Nat := 0
  badTail : Bool := false
  ctx : MapCtx := {}
  busy : Option Busy := none
  wait : Option SemWait := none
  fencing : Bool := false
  saves : List Nat := []
  deriving DecidableEq, Repr, Inhabited

/-- What a stream asks the dispatch engine for (R374). -/
inductive EngJob where
  | launch (p : LaunchPkt)
  | planld (taskid plan report : Nat)
  | hcopy (src dst left : Nat) (bad : Option Nat)
  | resume (p : ResumePkt)
  deriving DecidableEq, Repr

/-- The launch or restore that the dispatch engine is preparing (R386, R402): its stream, the slot and first row allocated,
the pages walked so far (module, module address), the DCC at which the present page walk was first held, and, once ready,
the launch DCC. -/
structure Prep where
  strm : Nat
  job : EngJob
  place : Option (Slot × Nat) := none
  walked : List (Nat × Nat) := []
  heldAt : Option Nat := none
  launch : Option Nat := none
  deriving DecidableEq, Repr

/-! ## Optical ports, lasers and the fabric (R407 to R424) -/

/-- RINGn of a memory port (R410), and the numbers of its flits whose CRC failed of late (R413). -/
structure Ring where
  lock : Bool := false
  failed : Bool := false
  heat : Nat := 0
  eyeH : Nat := 0
  eyeW : Nat := 0
  crc : List Nat := []
  deriving DecidableEq, Repr, Inhabited

/-- A memory port (R410): MPCTL, MPSTAT, its ten rings, MPSPARE and MPCNT, the bring-up step in progress, the data ring whose
lane the spare is being tuned for, whether that move belongs to a retraining, and rings that retrain or wait to (R413). -/
structure MemPort where
  absent : Bool := false
  en : Bool := false
  step : Nat := 0
  md : Nat := 0
  live : Bool := false
  busy : Option Nat := none
  done : Nat := 0
  fail : Bool := false
  rot : Nat := 0
  rotv : Bool := false
  spared : Nat := 0xF
  rings : Sparse Ring := []
  auto : Bool := true
  force : Nat := 0xF
  retrains : Nat := 0
  sparings : Nat := 0
  replays : Nat := 0
  tuning : Option Nat := none
  mover : Option Nat := none
  inPlace : List Nat := []
  waiting : List Nat := []
  deriving DecidableEq, Repr, Inhabited

/-- A laser (R414): LSRCTL, LSRSTAT and LSRAGE. -/
structure Laser where
  en : Bool := false
  ok : Bool := false
  warn : Bool := false
  eol : Bool := false
  hours : Nat := 0
  bias0 : Nat := 0
  bias : Nat := 0
  pwr : BitVec 16 := 0
  drift : Nat := 0
  /-- The DCC of the last step of the bias servo. -/
  stepAt : Option Nat := none
  deriving DecidableEq, Repr, Inhabited

/-- A flit in a replay buffer of a scale-up port (R419, R423, R424): its sequence number, the transfer it belongs to and the byte of
that transfer it begins at, the key slot it is sealed under, and its payload and tag as sent. -/
structure Flit where
  seq : Nat
  id : Nat
  ofs : Nat
  slot : Option Nat
  bytes : List Byte
  tag : BitVec 128
  deriving DecidableEq, Repr, Inhabited

/-- What leaves the package on its scale-up ports, on the control wavelength or towards the host. -/
inductive Sent where
  | put (piece : PutPiece) (dest port : Nat) (due : Nat)
  | beat (msg : BeatMsg) (port : Nat) (due : Nat)
  | flit (port : Nat) (f : Flit)
  | runStart (plan ordinal p0 : Nat)
  | ready (m : ReadyMsg)
  | note (code : Nat) (args : List Nat)
  deriving DecidableEq, Repr

/-- A scale-up port (R419, R424): SUCTL, SUSTAT, SUPEER, SUNODE and SUKEY, and its keys: slot s of the transmitter at s, of the
receiver at 2 + s; the sequence number of its next flit, its replay buffer, oldest first (R412, R423), and what waits in the exchange
die's egress buffer for it (R420). -/
structure SuPort where
  en : Bool := false
  qreq : Bool := false
  up : Bool := false
  qsd : Bool := false
  quar : Bool := false
  spl : Bool := false
  lflt : Nat := 0
  serial : Nat := 0
  pnode : Nat := 0
  pport : Nat := 0
  seen : Bool := false
  txs : Nat := 0
  old : Bool := false
  valid : Sparse Bool := []
  keys : Sparse (BitVec 256) := []
  replays : Nat := 0
  seq : Nat := 0
  buf : List Flit := []
  egress : List Sent := []
  deriving DecidableEq, Repr, Inhabited

/-! ## Start-up and management (R426 to R437) -/

/-- RETn (R430) and whether its pending entry has been committed to the flash. -/
structure Retire where
  rowret : Bool := false
  seqf : Bool := false
  splost : Bool := false
  pcol : Nat := 0xF
  pendv : Bool := false
  pendcol : Nat := 0xF
  committed : Bool := false
  deriving DecidableEq, Repr, Inhabited

/-- BOOTREC (R428). -/
structure BootRec where
  full : Bool := true
  stage : Nat := 7
  failed : Nat := 0
  lrows : Nat := 8
  rgap : Nat := 0
  prrow : Nat := 0
  splost : Nat := 0
  rstcause : Nat := 0
  code : Nat := 0
  deriving DecidableEq, Repr, Inhabited

/-- A firmware copy of the package flash (R431, R437): its bytes, header, code and signature together, and whether it is marked
valid. -/
structure FwCopy where
  data : Memory := []
  valid : Bool := false
  deriving DecidableEq, Repr, Inhabited

/-- How far an SPDM exchange has come (R432): nothing, a key exchange answered, a secured session. -/
inductive Session where
  | none | keyed | secured
  deriving DecidableEq, Repr, Inhabited

/-- The package state outside its cores, rows and tasks. -/
structure Pkg where
  podSlot : Nat := 0
  /-- Memory ports, lasers and scale-up ports by number. -/
  ports : Sparse MemPort := []
  lasers : Sparse Laser := []
  su : Sparse SuPort := []
  /-- DOMCTL.NODE, DOMSTAT and NBIND, NBSER (R415). -/
  nodeCtl : Nat := 0
  locked : Bool := false
  member : Bool := false
  node : Nat := 0
  nbNode : Nat := 0
  nbSer : Word := 0
  /-- BOOTREC, RETn, the retirement list of the flash (physical row, physical column; 9 the sequencer, 15 the whole row), a start
  that waits for PCIe (R426 to R430). -/
  boot : BootRec := {}
  ret : Sparse Retire := []
  flash : List (Nat × Nat) := []
  started : Option (Nat × StartReport) := none
  /-- The firmware copies, the one that runs, the fused SVN, now and as stage 0 read it (R433), and the offset a load must
  continue at (R431, R437). -/
  copies : FwCopy × FwCopy := ({ valid := true }, {})
  runsB : Bool := false
  fusedSvn : Nat := 0
  svnAtStart : Nat := 0
  fwNext : Option Nat := none
  /-- The SPDM session, and RETn and BOOTREC as they were measured (R432, R433). -/
  session : Session := .none
  measured : List Word := [0x0FF0000000000000, 0x0FF0000000000000, 0x0FF0000000000000, 0x0FF0000000000000, 0x0FF0000000000000,
    0x0FF0000000000000, 0x0FF0000000000000, 0x0FF0000000000000, 0x8700800000000000]
  /-- SASSIGNs (R436). -/
  sassign : Sparse Word := []
  /-- PEOL, whether its record has been written, and the drifts sampled of each component, the latest first (R441). -/
  peol : Word := 0xFFFFFFFFFF
  peolTold : Bool := false
  wear : Sparse (List Int) := []
  /-- The 64 command streams (R371) and DCTL: CREDIT and WALKTMO. -/
  streams : Sparse Stream := []
  credit : Nat := 8
  walkTmo : Nat := 1000000
  /-- Requests for the dispatch engine in the order they came, requests that wait for free rows, what the engine is
  preparing, the credits of the priority levels and one more than the stream last granted in each (R384, R385). -/
  reqs : List (Nat × EngJob) := []
  waitRows : List (Nat × EngJob) := []
  engine : Option Prep := none
  credits : Sparse Nat := []
  granted : Sparse Nat := []
  /-- Ready messages that have reached the hold master here, with the DCC of their arrival (R389). -/
  readyIn : List (ReadyMsg × Nat) := []
  /-- HCORR of each physical core at 9 row + column, then of the exchange dies at 128 and 129 (R440). -/
  hcorr : Sparse Word := []
  /-- EVQBASE, EVQCTL, EVQHEAD, EVQTAIL and EVQLOST (R438), and the records of the running domain cycle with the key of
  their order. -/
  evqBase : Nat := 0
  evqCtl : Word := 7
  evqHead : Nat := 0
  evqTail : Nat := 0
  evqLost : Nat := 0
  evqNew : List (Nat × List Byte) := []
  /-- Records of earlier cycles that wait for a memory port (R407). -/
  evqWait : List (List Byte) := []
  /-- Modules that have reported themselves offline, or serve no more (R342), and the pool rows used and post-package repairs made
  in each stack at 8 module + stack (R339). -/
  offline : List Nat := []
  sparesUsed : Sparse Nat := []
  repairsUsed : Sparse Nat := []
  /-- The DCCs of the corrected reads of each DRAM row in the current window, and the rows being spared, at 64 row + module
  (R339). -/
  rowReads : Sparse (List Nat) := []
  sparing : List Nat := []
  /-- Interrupt vectors raised, oldest first (R435): the function and the vector. -/
  raised : List (Nat × Nat) := []
  /-- 64-byte lines of host memory at which an access fails (R383): what the host answers. -/
  hostBad : List Nat := []
  deriving DecidableEq, Repr

end Sys2Proof.Machine
end

