-- ==== Sys2Proof/Machine/State.lean ====
section
/-! DEFINITION. The machine: one Phovia C64 package with the module memory it drives, and the agenda of the work that
is due at fixed cycles (R28, R151). -/

namespace Sys2Proof.Machine

open Sys2Proof

/-- Whose stop GCC freezes a piece of work (R182): nothing, the row's sequencer, a core, the gang's channel schedules at
the modules, or its plans at the exchange dies. -/
inductive Part where
  | free | seq | core | sched | exch
  deriving DecidableEq, Repr, Inhabited

/-- The later parts of an instruction word's effect that the table of operations does not list as events of their
own. -/
inductive Cont where
  /-- A core-port write of the local store at the end of its cycle (R138); `nibs` are half bytes by twice their address,
  one more for the high half (R239). -/
  | lsWrite (bytes : List (Nat × Byte)) (nibs : List (Nat × Nat))
  /-- An engine-port write of the local store: bytes and the byte addresses that arrive poisoned (R138, R142). -/
  | engWrite (bytes : List (Nat × Byte)) (poison : List Nat)
  /-- Places of a receive buffer become free (R248). -/
  | rxFree (port n : Nat)
  /-- Piece `i` of a SENDT of `u` pieces is read at `addr` (R255). -/
  | sendtRead (port addr i u : Nat)
  /-- Piece `k` of an FPUT is read (R261): source, bytes left, bytes done, descriptor, route entry, the cycles
  from a read to its delivery and the word's place in issue order. -/
  | putRead (src n done : Nat) (desc : Word) (route : BitVec 128) (lat order : Nat)
  /-- Source-lane read of chunk `k` of a store (R313). -/
  | sourceRead (id k : Nat)
  /-- The trap of a TRAP or BRK is taken after its row cycle (R167): TRAPC and code. -/
  | trapAfter (code info : Nat)
  /-- A core of a row samples its predicate for a QVOTE (R176). -/
  | voteSample (pn mode d : Nat) (handler : Bool) (wid acc : Nat)
  /-- A core register is sampled for a CRD (R175). -/
  | crdSample (sel d : Nat) (handler : Bool) (wid : Nat)
  /-- The dispatcher resumes at a word address after a frame-changing word (R78, R163). -/
  | fetchFrom (addr : Nat)
  /-- A failed read or a faulty pad clause takes effect (R81): detail and word address. -/
  | badRead (detail addr : Nat)
  /-- The row's last word has issued and every latency has elapsed (R166). -/
  | rowEnd
  /-- The gang has reached L_lead domain cycles after its primary trap (R181, R182). -/
  | freezeSched
  /-- A row of a stopped gang asks the hold master to resume (R183). -/
  | resumeRequest
  /-- A REDUCE result of a plan is written into the chunk buffer (R358, R360). -/
  | chunkWrite (plan addr : Nat) (beat : Beat)
  /-- A DELIVER beat reaches its core (R358): local-store address, bytes, poisoned words, barrier. -/
  | deliverBeat (addr : Nat) (beat : Beat) (bar : Option Nat) (plan entry : Nat)
  /-- The completion of a run counts one byte at a barrier (R364). -/
  | countByte (plan w : Nat)
  /-- The bytes of a DELIVER beat take their place among the writes of its cycle (R138). -/
  | collectiveWrite (bytes : List (Nat × Byte)) (poison : List Nat)
  /-- A terminating plan fault is taken (R368). -/
  | planFault (plan detail entry : Nat)
  /-- Bytes charged to the allowance are released at the end of the cycle (R303). -/
  | release (n : Nat)
  /-- A slack hold with a budget begins after the words of its cycle (R165). -/
  | slackBegin (budget : Nat)
  /-- The event records of a domain cycle are written in their order (R438). -/
  | evqFlush
  /-- A front end reads the packet at the head of its stream (R372). -/
  | frontEnd (strm : Nat)
  /-- The cycle by which the packet numbered `id` of a stream must have made its task ready, or a gang's launch DCC has come
  without an announcement (R389). -/
  | launchLimit (strm id : Nat)
  /-- The hold master of rank 0 decides on a gang's launch (R389). -/
  | goJudge (gangTag members cwd : Nat)
  /-- A report for the packet of a stream waits for a memory port (R407), and so does a context image. -/
  | report (strm addr : Nat) (bytes : List Byte)
  | imageWrite (img : List Byte)
  /-- The dispatch engine begins a request anew that waited for a task to end (R385). -/
  | retryRows
  /-- Nothing. -/
  | idle
  /-- The end fence of a task has completed (R156). -/
  | endFence
  /-- The L_lead domain cycles of a gang stop that the hold master announced have passed (R446). -/
  | stopReached (code : Nat)
  /-- An interrupt vector is raised (R190, R435). -/
  | interrupt (vector : Nat)
  /-- A CWR reaches its core, the cycle before its effect (R83, R175). -/
  | cwrCore (sel : Nat) (x : Word)
  /-- A DRAM row has been copied into its spare (R339): the module, the sector whose read began it, and its cause. -/
  | rowSwitch (m sector drow cause : Nat)
  /-- The pairing of a plan's run is judged, 64 cycles before its start (R356). -/
  | pairing (plan : Nat)
  /-- A pre-emption request is pending from this GCC on (R390). -/
  | preemptNow
  /-- A PREPT takes effect once every word of its cycle has issued (R366, R391): its liveness record. -/
  | preptTake (lrec : Nat)
  /-- The eyes of a live memory port are read (R413). -/
  | marginScan (port : Nat)
  /-- The spare of a memory port carries its lane, or a ring has retrained, at the latest (R413). -/
  | spareLive (port : Nat)
  | retrained (port ring : Nat)
  /-- Traffic that a quarantined port keeps is late (R422). -/
  | keptLate (l : LateMark)
  deriving DecidableEq, Repr

/-- What an agenda entry does. -/
inductive Work where
  /-- Word `idx` of clause `id` issues. -/
  | word (id idx : Nat)
  | ev (i : Instr)
  | cont (c : Cont)
  deriving DecidableEq, Repr

/-- A piece of work due at a fixed cycle: a GCC of the task in `slot`, or a DCC. Within a cycle, work runs in ascending
`rank`, then `ord`, then the order in which it was fixed. -/
structure Entry where
  gang : Bool := true
  due : Nat := 0
  rank : Nat := 0
  ord : Nat := 0
  slot : Slot := 0
  row : Fin 8 := 0
  core : Fin 8 := 0
  part : Part := .free
  /-- The effect of a word that issued before the trap of its own cycle (R137, R178). -/
  urgent : Bool := false
  /-- What an event from outside says beside its operands: the values of other members of a gang (R184, R173, R390, R391), the version of a
  request (R432). The package's own work says nothing here. -/
  args : List Nat := []
  work : Work := .cont .idle
  deriving DecidableEq, Repr

/-- The machine. -/
structure State where
  /-- DCC (R25). -/
  dcc : Nat
  /-- The work that is due. -/
  agenda : List Entry
  /-- The work being carried out: the model's own cursor. -/
  cur : Entry
  rows : Vector Row 8
  cores : Vector (Vector Core 8) 8
  /-- The tasks by slot: an unlisted slot is free. -/
  tasks : Sparse Task
  /-- Module memory, byte `a` of module `m` at m · 2^39 + a, and the classes of its sectors by address div 64 (R337). -/
  modMem : Memory
  modCls : Sparse LsClass
  /-- While some schedule is stalled (R336): module memory as it stood when the first one stalled, and the writes since in the
  order of their places in time. -/
  modBase : Option (Memory × Sparse LsClass)
  modLog : List ModWrite
  /-- Host memory as the package reaches it (R371). -/
  host : Memory
  pkg : Pkg
  /-- The next number of a clause, transfer or word: the model's own counter. -/
  next : Nat
  /-- What has left the package, oldest first. -/
  sent : List Sent
  deriving DecidableEq, Repr

/-- Why a step has no next state although the specification gives one: neither reason arises from State.reset. -/
inductive Fault where
  /-- A word of a clause that the row no longer holds is due. Raised by step. Safe: no run of the model reaches it. -/
  | clauseGone
  /-- The SRAM word that is due no longer decodes to an instruction of its column. Raised by step. Safe: the clause's
  check at its start (R81) has refused such a word. -/
  | wordChanged
  deriving DecidableEq, Repr

/-- Why an instruction is refused. -/
inductive Refusal where
  /-- The instruction has no meaning in the model. Raised by exec's arms. Safe. -/
  | notModelled (mnemonic : String)
  deriving DecidableEq, Repr

/-- The machine right after package reset (R8): every count zero, no task, nothing due. -/
def State.reset : State where
  dcc := 0
  agenda := []
  cur := {}
  rows := Vector.ofFn fun r => { prow := r.1 }
  cores := Vector.replicate 8 (Vector.ofFn fun c => { pcol := c.1 })
  tasks := []
  modMem := []
  modCls := []
  modBase := none
  modLog := []
  host := []
  pkg := {}
  next := 0
  sent := []

end Sys2Proof.Machine
end

