-- ==== Sys2Proof/Machine/Ops.lean ====
section
/-! DEFINITION. The operations every meaning is written over: the places of the state, the agenda and the clock, register
reads, the local store with its checks and classes, and taking a trap. -/

namespace Sys2Proof.Machine

open Sys2Proof

/-! ## Places -/

/-- Core `c` of row `r`. -/
def State.coreAt (s : State) (r c : Fin 8) : Core := s.cores[r][c]

/-- Replace core `c` of row `r` by `f` of it. -/
def State.modCore (s : State) (r c : Fin 8) (f : Core → Core) : State :=
  { s with cores := s.cores.set r (s.cores[r].set c (f (s.coreAt r c))) }

/-- Replace row `r` by `f` of it. -/
def State.modRow (s : State) (r : Fin 8) (f : Row → Row) : State :=
  { s with rows := s.rows.set r (f s.rows[r]) }

/-- The task in slot `t`. -/
def State.taskAt (s : State) (t : Slot) : Task := Sparse.get {} s.tasks t

/-- Replace task slot `t` by `f` of it. -/
def State.modTask (s : State) (t : Slot) (f : Task → Task) : State :=
  { s with tasks := Sparse.set {} s.tasks t (f (s.taskAt t)) }

/-- The slots in use. -/
def State.slots (s : State) : List Slot := s.tasks.map Prod.fst

/-- The tasks in use. -/
def State.taskList (s : State) : List Task := s.tasks.map Prod.snd

/-- The package state replaced. -/
def State.modPkg (s : State) (f : Pkg → Pkg) : State := { s with pkg := f s.pkg }

/-- The host reaches the package: stage 1 has trained PCIe and opened BAR0 and MCTP (R426). -/
def State.hostUp (s : State) : Bool := decide (1 ≤ s.pkg.boot.stage)

/-- What a host access or message leaves: nothing comes before stage 1 has passed (R426). -/
def State.ifUp (s t : State) : State := if s.hostUp then t else s

/-- The core of the work being carried out. -/
def State.core (s : State) : Core := s.coreAt s.cur.row s.cur.core

/-- The row of the work being carried out. -/
def State.row (s : State) : Row := s.rows[s.cur.row]

/-- The task of the work being carried out. -/
def State.task (s : State) : Task := (s.taskAt s.cur.slot)

/-- The GCC of the task of the work being carried out (R25). -/
def State.gcc (s : State) : Nat := s.task.gcc

/-- Replace the core of the work being carried out. -/
def State.here (s : State) (f : Core → Core) : State := s.modCore s.cur.row s.cur.core f

/-- Replace the row of the work being carried out. -/
def State.hereRow (s : State) (f : Row → Row) : State := s.modRow s.cur.row f

/-- Replace the task of the work being carried out. -/
def State.hereTask (s : State) (f : Task → Task) : State := s.modTask s.cur.slot f

/-- All eight indices, in ascending order. -/
def all8 : List (Fin 8) := [0, 1, 2, 3, 4, 5, 6, 7]

/-- The rows of a task, in ascending order. -/
def State.rowsOf (s : State) (t : Slot) : List (Fin 8) := all8.filter fun r => s.rows[r].task == some t

/-- Apply `f` for each element in turn. -/
def forEach {α : Type} (xs : List α) (f : α → State → State) (s : State) : State := xs.foldl (fun s x => f x s) s

/-! ## The agenda -/

/-- Put work on the agenda. -/
def State.add (s : State) (e : Entry) : State := { s with agenda := s.agenda ++ [e] }

/-- What the event being carried out says beside its operands: its value at a place, or `d` where it says none there. -/
def State.arg (s : State) (i d : Nat) : Nat := s.cur.args.getD i d

/-- Put work of the present core on the agenda, `dt` local cycles from now. -/
def State.addCore (s : State) (dt rank ord : Nat) (w : Work) : State :=
  s.add { s.cur with gang := true, due := s.gcc + dt, rank := rank, ord := ord, part := .core, urgent := false, args := [], work := w }

/-- Put work of the present row's sequencer on the agenda; a handler's work is never held by the stop front (R186). -/
def State.addSeq (s : State) (dt rank ord : Nat) (w : Work) : State :=
  s.add { s.cur with gang := true, due := s.gcc + dt, rank := rank, ord := ord,
                     part := if s.row.handler then .free else .seq, urgent := false, args := [], work := w }

/-- Put work of the present gang on the agenda at a GCC. -/
def State.addGang (s : State) (due rank ord : Nat) (part : Part) (w : Work) : State :=
  s.add { s.cur with gang := true, due := due, rank := rank, ord := ord, part := part, urgent := false, args := [], work := w }

/-- Put work on the agenda at a DCC. -/
def State.addDomain (s : State) (due rank : Nat) (w : Work) : State :=
  s.add { s.cur with gang := false, due := due, rank := rank, ord := 0, part := .free, urgent := false, args := [], work := w }

/-- A number not used before, for a clause, a transfer or a word. -/
def State.fresh (s : State) : State := { s with next := s.next + 1 }

/-- Record what leaves the package. -/
def State.send (s : State) (x : Sent) : State := { s with sent := s.sent ++ [x] }

/-- The task's GCC stands still (R35, R39). -/
def Task.held (t : Task) : Bool := t.holding.isSome || t.slackHold

/-- The work begins a word or a clause, reads the stream or takes a failed read. -/
def Work.issues : Work → Bool
  | .word _ _ => true
  | .ev (.clauseStart _) => true
  | .ev .dispatcherRead => true
  | .cont (.fetchFrom _) => true
  | .cont (.badRead _ _) => true
  | _ => false

/-- Work that a pre-emption's drain holds as well (R392, R41, R192): what issues, and counts of cycles that stand still. -/
def Work.stands : Work → Bool
  | .ev (.eventCounterWindow _) => true
  | .ev .slackStarvation => true
  | w => w.issues

/-- Work that goes on at a stopped core once its task ends (R152, R156, R268): the source reads of far-memory writes, and puts. -/
def Work.goesOn : Work → Bool
  | .cont (.sourceRead _ _) => true
  | .cont (.putRead _ _ _ _ _ _ _) => true
  | .ev (.putPieceDelivery _) => true
  | _ => false

/-- A due cycle at or after a stop GCC. -/
def atOrAfter (σ : Option Nat) (due : Nat) : Bool :=
  match σ with
  | some x => decide (x ≤ due)
  | none => false

/-- The stop front holds this work (R181, R182); during the drain of a pre-emption only issue is held (R392). -/
def State.blocked (s : State) (e : Entry) : Bool :=
  !e.urgent && !((s.taskAt e.slot).ending.isSome && e.work.goesOn) &&
    match e.part with
    | .free => false
    | .seq => atOrAfter s.rows[e.row].sigma e.due && (s.rows[e.row].prept.isNone || e.work.stands)
    | .core => atOrAfter (s.coreAt e.row e.core).sigma e.due && (s.rows[e.row].prept.isNone || e.work.stands)
    | .sched => atOrAfter (s.taskAt e.slot).schedFreeze e.due
    | .exch => atOrAfter (s.taskAt e.slot).schedFreeze e.due

/-- The work can be carried out in this domain cycle. -/
def State.ready (s : State) (e : Entry) : Bool :=
  if e.gang then
    let t := (s.taskAt e.slot)
    t.live && !t.held && decide (e.due ≤ t.gcc) && !s.blocked e
  else decide (e.due ≤ s.dcc)

/-- Within a cycle: by rank, then by order. -/
def Entry.before (a b : Entry) : Bool := decide (a.rank < b.rank) || (decide (a.rank = b.rank) && decide (a.ord < b.ord))

/-- The first ready entry in order, and the rest. -/
def State.pickFrom (s : State) : List Entry → Option (Entry × List Entry)
  | [] => none
  | e :: es =>
    match s.pickFrom es with
    | none => if s.ready e then some (e, es) else none
    | some (f, rest) => if s.ready e && !f.before e then some (e, es) else some (f, e :: rest)

/-- The next work of this domain cycle. -/
def State.pick (s : State) : Option (Entry × List Entry) := s.pickFrom s.agenda

/-- One domain cycle passes for a task (R25): GCC advances unless a hold absorbs the cycle; SLKR counts the cycles of a
slack hold. -/
def Task.tick (t : Task) : Task :=
  if !t.live then t
  else if t.slackHold then { t with slkr := t.slkr + 1 }
  else if t.held then t
  else { t with gcc := t.gcc + 1 }

/-- One domain cycle passes (R25). -/
def State.tick (s : State) : State := { s with dcc := s.dcc + 1, tasks := Sparse.mapVals {} Task.tick s.tasks }

/-! ## Registers -/

/-- Read an a register (R196). -/
def Core.ra (c : Core) (n : Nat) : Word := if n = 0 then 0 else Sparse.get 0 c.a n

/-- Read a p register (R196). -/
def Core.rp (c : Core) (n : Nat) : Bool := if n = 7 then true else Sparse.get false c.p n

/-- Read a lane of a v register (R219). -/
def Core.rv (c : Core) (r i : Nat) : Lane := Sparse.get 0 c.v (128 * r + i)

/-- Read a bit of an m register (R219). -/
def Core.rm (c : Core) (r i : Nat) : Bool := if r = 7 then true else Sparse.get false c.m (128 * r + i)

/-- Read a byte of a tile (R271). -/
def Core.rt (c : Core) (t i : Nat) : Byte := Sparse.get 0 c.tile (16384 * t + i)

/-- Read a tile descriptor (R271). -/
def Core.rtd (c : Core) (t : Nat) : Word := Sparse.get 0 c.td t

/-- Read a barrier (R304). -/
def Core.rw (c : Core) (n : Nat) : Barrier := Sparse.get {} c.w n

/-- Read a put window (R258). -/
def Core.rwin (c : Core) (n : Nat) : PutWin := Sparse.get {} c.win n

/-- Write an a register; a0 discards (R196). -/
def Core.wa (c : Core) (n : Nat) (x : Word) : Core := if n = 0 then c else { c with a := Sparse.set 0 c.a n x }

/-- Write a p register; p7 discards (R196). -/
def Core.wp (c : Core) (n : Nat) (x : Bool) : Core := if n = 7 then c else { c with p := Sparse.set false c.p n x }

/-- Write lanes of a v register. -/
def Core.wv (c : Core) (r : Nat) (ls : List (Nat × Lane)) : Core :=
  { c with v := Sparse.setMany 0 c.v (ls.map fun (i, x) => (128 * r + i, x)) }

/-- Write bits of an m register; m7 discards (R219). -/
def Core.wm (c : Core) (r : Nat) (bs : List (Nat × Bool)) : Core :=
  if r = 7 then c else { c with m := Sparse.setMany false c.m (bs.map fun (i, x) => (128 * r + i, x)) }

/-- Read a k register of the bank in force (R159, R187): k0 reads zero; in handler mode k64 to k95 name the handler
bank. -/
def Row.rk (r : Row) (h : Bool) (n : Nat) : Word :=
  if n = 0 then 0 else if h && decide (64 ≤ n) then Sparse.get 0 r.kh n else Sparse.get 0 r.k n

/-- Write a k register of a bank; k0 discards. -/
def Row.wk (r : Row) (h : Bool) (n : Nat) (x : Word) : Row :=
  if n = 0 then r else if h && decide (64 ≤ n) then { r with kh := Sparse.set 0 r.kh n x }
  else { r with k := Sparse.set 0 r.k n x }

/-- Read a q register of a bank; q7 reads true (R159). -/
def Row.rq (r : Row) (h : Bool) (n : Nat) : Bool :=
  if n = 7 then true else if h then Sparse.get false r.qh n else Sparse.get false r.q n

/-- Write a q register of a bank; q7 discards. -/
def Row.wq (r : Row) (h : Bool) (n : Nat) (x : Bool) : Row :=
  if n = 7 then r else if h then { r with qh := Sparse.set false r.qh n x } else { r with q := Sparse.set false r.q n x }

/-! ## Words -/

/-- The clause of the word being carried out. -/
def State.clause? (s : State) : Option Clause :=
  match s.cur.work with
  | .word id _ => s.row.clauses.find? fun c => c.id == id
  | _ => none

/-- The word address of the word being carried out (R194). -/
def State.wordAddr (s : State) : Nat :=
  match s.cur.work with
  | .word id idx => ((s.row.clauses.find? fun c => c.id == id).map fun c => c.addr + 1 + idx).getD 0
  | .ev (.clauseStart id) => ((s.row.clauses.find? fun c => c.id == id).map fun c => c.addr + 1).getD 0
  | _ => 0

/-- The word address of the header of the clause being carried out: H of R160. -/
def State.headAddr (s : State) : Nat := (s.clause?.map (·.addr)).getD 0

/-- The predicate of a core word reads true (R59). -/
def Core.enabled (c : Core) (h : Hdr) : Bool := c.rp h.pred.toNat != (h.pneg == 1)

/-- The predicate of an S word reads true (R59). -/
def Row.enabled (r : Row) (h : Hdr) : Bool := r.rq r.handler h.pred.toNat != (h.pneg == 1)

/-- The uniform value a core word receives (R23): what the sequencer held at the word's row cycle, captured at logical
column 0; element `j` belongs to the register `j` after the one named. -/
def State.uniform (s : State) (n j : Nat) : Word :=
  match s.cur.work with
  | .word _ idx =>
    match s.clause? with
    | some c => (Sparse.get [] c.uni idx).getD j 0
    | none => s.row.rk s.row.handler (n + j)
  | _ => s.row.rk s.row.handler (n + j)

/-- The B operand of a core word that takes an a register or a uniform register (R62). -/
def State.opB (s : State) (f : RRR) : Word := if f.ub = 1 then s.uniform f.uniNum 0 else s.core.ra f.b.toNat

/-! ## The local store -/

/-- The first address above the local store (R133). -/
def lsEnd : Nat := 0x1800000

/-- The access lies in the local store (R134). -/
def lsIn (ea n : Nat) : Bool := decide (ea + n ≤ lsEnd)

/-- The swizzle of R69 with mode `sw`. -/
def swizzle (sw ea : Nat) : Nat :=
  if sw = 0 then ea else ea ^^^ (bitsOf ea (11 + sw) 6 * 64)

/-- The effective address of a MEM word, before range check (R69). -/
def Core.memAddr (c : Core) (f : MEM) : Nat :=
  swizzle f.swz.toNat (c.ra f.base.toNat + f.ofs.signExtend 64).toNat

/-- The unswizzled effective address, for words that swizzle each byte. -/
def Core.memBase (c : Core) (f : MEM) : Nat := (c.ra f.base.toNat + f.ofs.signExtend 64).toNat

/-- The class of the 8-byte word that holds an address (R141). -/
def Core.cls (c : Core) (a : Nat) : LsClass := Sparse.get .clean c.lsCls (a / 8)

/-- A read of the address consumes poison (R141, R143). -/
def LsClass.bad : LsClass → Bool
  | .poisoned => true
  | .uncorrectable => true
  | _ => false

/-- Some byte of the list lies in a poisoned or uncorrectable word. -/
def Core.anyBad (c : Core) (as : List Nat) : Bool := as.any fun a => (c.cls a).bad

/-- The words of the list that hold a correctable error, each once (R141). -/
def Core.corrected (c : Core) (as : List Nat) : Nat :=
  ((as.map (· / 8)).eraseDups.filter fun w => Sparse.get .clean c.lsCls w == .corrected).length

/-- Uncorrectable words that the addresses touch are rewritten as poisoned (R141). -/
def Core.poisonUncorrectable (c : Core) (as : List Nat) : Core :=
  { c with lsCls := as.foldl (fun m a => if Sparse.get .clean m (a / 8) = .uncorrectable then Sparse.set .clean m (a / 8) .poisoned else m) c.lsCls }

/-- The class of a word after bytes of it are written (R142, R213): poisoned when a byte arrives poisoned, clean when all
eight bytes are written clean, otherwise poisoned when it was poisoned or uncorrectable. -/
def classAfter (old : LsClass) (full psn : Bool) : LsClass :=
  if psn then .poisoned else if full then .clean else if old.bad then .poisoned else .clean

/-- Write bytes into the local store, those of `whole` altogether; the byte addresses of `psn` arrive poisoned (R138, R142). A merge with
a corrected word is no read of it (R213; log entry 154). -/
def Core.storePart (c : Core) (bs : List (Nat × Byte)) (whole psn : List Nat) : Core :=
  let ws := (bs.map fun (a, _) => a / 8).eraseDups
  let as := whole.eraseDups
  { c with
    ls := Sparse.setMany 0 c.ls bs
    lsCls := ws.foldl (fun m w =>
      Sparse.set .clean m w (classAfter (Sparse.get .clean m w) (decide ((as.filter (fun a => a / 8 = w)).length = 8))
        (psn.any fun a => a / 8 == w))) c.lsCls }

/-- Write bytes into the local store; the byte addresses of `psn` arrive poisoned (R138, R142). -/
def Core.store (c : Core) (bs : List (Nat × Byte)) (psn : List Nat) : Core := c.storePart bs (bs.map Prod.fst) psn

/-- The bytes that half-byte writes make, with whether both halves are written (R239): later half bytes replace earlier ones. -/
def Core.nibBytes (c : Core) (ns : List (Nat × Nat)) : List (Nat × Byte × Bool) :=
  ((ns.map fun (k, _) => k / 2).eraseDups).map fun a =>
    let mine := ns.filter fun (k, _) => k / 2 = a
    let x := mine.foldl (fun x (k, v) => if k % 2 = 1 then x % 16 + v % 16 * 16 else x / 16 * 16 + v % 16) (Memory.byte c.ls a).toNat
    (a, BitVec.ofNat 8 x, (mine.any fun (k, _) => k % 2 = 0) && mine.any fun (k, _) => k % 2 = 1)

/-- Write half bytes into the local store as one write, each merged with the byte as it stands (R142, R239): a byte of which only one
half is written is not written altogether, so a poisoned word stays poisoned (R243; log entry 155). -/
def Core.storeNibs (c : Core) (ns : List (Nat × Nat)) : Core :=
  let bs := c.nibBytes ns
  c.storePart (bs.map fun x => (x.1, x.2.1)) ((bs.filter fun x => x.2.2).map Prod.fst) []

/-- The bank words of a list of byte addresses, each once (R133). -/
def bankWords (as : List Nat) : List Nat := (as.map (· / 64)).eraseDups

/-- Two bank words lie in one bank (R133). -/
def sameBank (a b : Nat) : Bool := a % 64 == b % 64

/-- Some bank is named with two different bank words. -/
def bankClash (ws : List Nat) : Bool := ws.any fun a => ws.any fun b => sameBank a b && a != b

/-- The core-port bank words already fixed for a cycle (R137). -/
def Core.portWords (c : Core) (cycle : Nat) : List Nat :=
  (c.port.filter fun p => p.cycle == cycle).flatMap (·.words)

/-- A core-port access breaches R137: two words of one bank, or more than 32 bank words, in one local cycle. -/
def Core.portFails (c : Core) (cycle : Nat) (ws : List Nat) : Bool :=
  let xs := (c.portWords cycle ++ ws).eraseDups
  (ws.any fun a => xs.any fun b => sameBank a b && a != b) || decide (32 < xs.length)

/-- Fix a core-port access; accesses of earlier cycles are forgotten. -/
def Core.portAdd (c : Core) (now cycle : Nat) (ws : List Nat) : Core :=
  { c with port := (c.port.filter fun p => decide (now ≤ p.cycle)) ++ [⟨cycle, ws⟩] }

/-- The core-port accesses of a cycle have been made: they meet no other access any more, whatever that cycle moves to (R137, R184). -/
def Core.portDone (now : Nat) (c : Core) : Core := { c with port := c.port.filter fun p => p.cycle != now }

/-- The bank words an engine-port claim touches in a cycle (R135). -/
def EngClaim.at (k : EngClaim) (cycle : Nat) : List Nat :=
  if cycle < k.start then []
  else
    let o := (cycle - k.start) * k.per
    let m := min k.per (k.n - o)
    if m = 0 then []
    else (List.range ((k.la + o + m - 1) / 64 - (k.la + o) / 64 + 1)).map fun j => swizzle k.sw (((k.la + o) / 64 + j) * 64) / 64

/-- The cycle after the last one a claim uses. -/
def EngClaim.stop (k : EngClaim) : Nat := k.start + ceilDiv k.n k.per

/-- Two claims touch one bank in different bank words in some cycle. -/
def EngClaim.clash (x y : EngClaim) : Bool :=
  let lo := max x.start y.start
  (List.range (min x.stop y.stop - lo)).any fun i =>
    (x.at (lo + i)).any fun a => (y.at (lo + i)).any fun b => sameBank a b && a != b

/-- A new engine-port access clashes with one already scheduled (R135). -/
def Core.engFails (c : Core) (k : EngClaim) : Bool := c.eng.any fun e => e.clash k

/-- Schedule an engine-port access. -/
def Core.engAdd (c : Core) (now : Nat) (k : EngClaim) : Core :=
  { c with eng := (c.eng.filter fun e => decide (now < e.stop)) ++ [k] }

/-! ## Traps (R178 to R182, R194) -/

/-- What a trap records (R194). -/
structure TrapInfo where
  code : Nat
  detail : Nat := 0
  wb : Bool := false
  info : Nat := 0
  addr : Nat := 0
  deriving DecidableEq, Repr

/-- The layout of TRAPF and TRAPFS (R194). -/
def TrapInfo.word (t : TrapInfo) (sec : Bool) : Word :=
  BitVec.ofNat 64 (t.code % 256 * 2 ^ 56 + t.detail % 16 * 2 ^ 52 + (if sec then 2 ^ 51 else 0) + (if t.wb then 2 ^ 50 else 0)
    + t.addr % 2 ^ 18 * 2 ^ 30 + t.info % 2 ^ 16)

/-- The lesser of a stop GCC and a new one (R181). -/
def lower (σ : Option Nat) (x : Nat) : Option Nat :=
  match σ with
  | none => some x
  | some y => some (min y x)

/-- Lower a core's stop GCC and put its CORE_STOP on the agenda (R181, R182). -/
def State.stopCore (slot : Slot) (r c : Fin 8) (x : Nat) (s : State) : State :=
  let old := (s.coreAt r c).sigma
  let new := lower old x
  if new = old then s
  else (s.modCore r c fun k => { k with sigma := new }).add
    { gang := true, due := x, rank := 0, slot := slot, row := r, core := c, part := .core, urgent := true, work := .ev .coreStop }

/-- Lower a sequencer's stop GCC and put its CORE_STOP on the agenda. -/
def State.stopSeq (slot : Slot) (r : Fin 8) (x : Nat) (s : State) : State :=
  let old := s.rows[r].sigma
  let new := lower old x
  if new = old then s
  else (s.modRow r fun k => { k with sigma := new }).add
    { gang := true, due := x, rank := 0, slot := slot, row := r, part := .seq, urgent := true, work := .ev .coreStop }

/-- The distance between two logical columns. -/
def dist (a b : Nat) : Nat := (a - b) + (b - a)

/-- The stop front of a row whose trap lies at logical column `c` at GCC `x` (R181). -/
def State.frontRow (slot : Slot) (r : Fin 8) (c x : Nat) (s : State) : State :=
  forEach all8 (fun c' => State.stopCore slot r c' (x + 2 * dist c'.1 c)) (State.stopSeq slot r (x + 2 * c) s)

/-- The stop of every core and sequencer of a task at one GCC (R181: S_p, S). -/
def State.frontAll (slot : Slot) (x : Nat) (s : State) : State :=
  forEach (s.rowsOf slot) (fun r s => forEach all8 (fun c => State.stopCore slot r c x) (State.stopSeq slot r x s)) s

/-- A core register put back to what it held before a write-back (R182). -/
def Core.restoreReg (c : Core) (w : RegWrite) : Core :=
  match w with
  | .a n x => c.wa n x
  | .p n x => c.wp n x
  | .v n ls => c.wv n ls
  | .m n bs => c.wm n bs
  | .tile n bs => { c with tile := Sparse.setMany 0 c.tile (bs.map fun (i, x) => (16384 * n + i, x)) }
  | .td n x => { c with td := Sparse.set 0 c.td n x }
  | .g n x => { c with g := Sparse.set 0 c.g n x }
  | .bt n x => { c with bt := Sparse.set 0 c.bt n x }
  | .limit x => { c with limit := x }
  | .seg x => { c with seg := x }
  | .window n b l e x => { c with win := Sparse.set {} c.win n ⟨b, l, e, x⟩ }
  | .coreCtl sel x =>
    if sel = 4 then { c with limit := x.toNat }
    else if sel < 0x14 then { c with evcfg := Sparse.set 0 c.evcfg (sel - 0x10) x }
    else if sel < 0x18 then { c with evcnt := Sparse.set 0 c.evcnt (sel - 0x14) x }
    else if sel < 0x1C then { c with evlim := Sparse.set 0 c.evlim (sel - 0x18) x }
    else { c with bnd := Sparse.set 0 c.bnd (sel - 0x20) x }
  | .k _ _ _ => c
  | .q _ _ _ => c
  | .rowCtl _ _ => c

/-- A sequencer register put back to what it held before a write-back (R182). -/
def Row.restoreReg (r : Row) (w : RegWrite) : Row :=
  match w with
  | .k h n x => r.wk h n x
  | .q h n x => r.wq h n x
  | .rowCtl sel x =>
    if sel = 0x0B then { r with tvec := x } else if sel = 0x0C then { r with sstep := x }
    else if sel = 0x0E then { r with dbgout := x } else if sel = 0x0F then { r with dbgst := x } else r
  | _ => r

/-- A write-back that is held again. -/
def Undone.entry (u : Undone) (slot : Slot) (r c : Fin 8) (p : Part) (x : Nat) : Entry :=
  { gang := true, due := x, rank := u.rank, ord := u.ord, slot := slot, row := r, core := c, part := p, work := .ev (.registerWriteBack u.wb) }

/-- The write-backs that a core has carried out at its stop GCC before its stop was known are held (R182). -/
def State.undoCore (slot : Slot) (r c : Fin 8) (x : Nat) (s : State) : State :=
  let k := s.coreAt r c
  if k.undoAt ≠ x || k.sigma ≠ some x || k.undo.isEmpty then s
  else
    let s := s.modCore r c fun k =>
      let k := k.undo.foldr (fun u k => u.olds.foldl Core.restoreReg k) k
      { k with undo := [], tileCls := Sparse.setMany .clean k.tileCls (k.undo.flatMap (·.cls)) }
    { s with agenda := s.agenda ++ k.undo.map fun u => u.entry slot r c .core x }

/-- The same at the sequencer. -/
def State.undoSeq (slot : Slot) (r : Fin 8) (x : Nat) (s : State) : State :=
  let w := s.rows[r]
  if w.undoAt ≠ x || w.sigma ≠ some x || w.undo.isEmpty then s
  else
    let s := s.modRow r fun k => { k.undo.foldr (fun u k => u.olds.foldl Row.restoreReg k) k with undo := [] }
    { s with agenda := s.agenda ++ w.undo.map fun u => u.entry slot r 0 .seq x }

/-- One key of R180 comes before another: smaller GCC, then lower rank, row, place. -/
def Primary.before (a b : Primary) : Bool :=
  decide (a.x < b.x) || (a.x == b.x && (decide (a.rank < b.rank) || (a.rank == b.rank &&
    (decide (a.row < b.row) || (a.row == b.row && decide (a.place < b.place))))))

/-- The timing traps that a secondary trap marks (R180). -/
def timingTrap (code : Nat) : Bool := code == 3 || code == 4 || code == 5

/-- TRAPC.ORIGIN of a place: sequencer 0x0F, core c (R194). -/
def originOf (place : Nat) : Nat := if place = 0 then 0x0F else place - 1

/-- TRAPC with CODE, ORIGIN and PRIM (R194); RES is kept. -/
def trapcWord (old : Word) (code origin : Nat) (prim : Bool) : Word :=
  (old &&& 0x80000000) ||| BitVec.ofNat 64 (origin % 256 * 256 + code % 256 + if prim then 2 ^ 30 else 0)

/-- Clear TRAPC.PRIM. -/
def unprim (w : Word) : Word := w &&& ~~~(0x40000000 : Word)

/-- Drop the work that would issue words or read streams for a task. -/
def State.dropIssue (s : State) (slot : Slot) : State :=
  { s with agenda := s.agenda.filter fun e => !(e.gang && e.slot == slot && e.work.issues) }

/-- An entry of the agenda that the stop front holds (R182, R184). -/
def State.frontHolds (s : State) (slot : Slot) (e : Entry) : Bool :=
  e.gang && e.slot == slot && match e.part with
    | .free => false
    | .seq => atOrAfter s.rows[e.row].sigma e.due
    | .core => atOrAfter (s.coreAt e.row e.core).sigma e.due
    | _ => atOrAfter (s.taskAt slot).schedFreeze e.due

/-- The last effect or completion of an operation of the core `key`, which was to come at GCC `x`, moves by what moves the entries
that carry it (R184, R268): an effect at the modules with the channel schedule, a put, a MIRED or the completion of a command with the
cores that hold it. -/
def State.effectMove (s : State) (slot : Slot) (move : Entry → Nat) (sched key x : Nat) : Nat :=
  let t := (s.taskAt slot)
  let own := s.agenda.filter fun e => s.frontHolds slot e && match e.work with
    | .ev (.putPieceDelivery p) =>
      e.due == x && p.rank == t.rank && (s.rowsOf slot).any fun r => s.rows[r].rowid == p.row && 8 * r.1 + p.col == key
    | .cont (.putRead _ n _ _ _ lat _) => 8 * e.row.1 + e.core.1 == key && e.due + lat + ceilDiv n 128 - 1 == x
    | .ev (.miredLanding id _) => 8 * e.row.1 + e.core.1 == key && t.xfers.any fun y => y.id == id && y.wcc == x
    | .ev (.mcmdCompletion _) => 8 * e.row.1 + e.core.1 == key && e.due == x
    | _ => false
  let atModule := (t.xfers.any fun y => y.wcc == x && 8 * y.row.1 + y.core.1 == key && y.kind != .mired && !y.waits.isEmpty) && atOrAfter t.schedFreeze x
  x + ((own.map move) ++ if atModule then [sched] else []).foldl max 0

/-! ## Stalled schedules at the modules (R335) -/

/-- The drain of a stalled schedule is held up by something that is still missing at the GCC it has come to (R335). -/
def Stall.lacks (st : Stall) : Bool := st.missing.any fun k => decide (k.mark.due ≤ st.pos)

/-- The modules hold the gang's schedules (R182, R445): a stalled one does not drain. -/
def Task.frozen (t : Task) : Bool := atOrAfter t.schedFreeze t.gcc

/-- Stalled schedules that lack nothing at the GCC they have come to begin to drain (R335), unless the modules stand still (R182, R445). -/
def State.startDrains (slot : Slot) (s : State) : State :=
  let t := s.taskAt slot
  if t.frozen then s
  else
    let go := t.stalls.filter fun st => !st.draining && !st.lacks
    let s := s.modTask slot fun t => { t with stalls := t.stalls.map fun st => { st with draining := st.draining || !st.lacks } }
    forEach go (fun st s => s.add { gang := false, due := s.dcc, rank := 1, slot := slot, work := .ev (.moduleScheduleDrain st.md) }) s

/-- The modules' schedules go on `d` cycles later than they stood still (R184): a drain steps over the cycles between, in which nothing
has been fixed. -/
def Stall.resume (freeze : Option Nat) (d : Nat) (st : Stall) : Stall :=
  match freeze with
  | some x => { st with gaps := st.gaps ++ [(x, d)] }
  | none => st

/-- The GCC that a drain comes to after the one it has come to (R335, R184). -/
def Stall.nextPos (st : Stall) : Nat := st.gaps.foldl (fun p (x, d) => if p = x then p + d else p) (st.pos + 1)

/-! ## The end of a stopped task -/

/-- How far what a core has sent to another member, due there at GCC `x`, moves when a stopped gang goes on (R181, R268): the cores there
stop between the primary trap and S, so from S on it moves by `after`, and where it lies between only the other package knows whether it
moves, by `between`: log entry 148. -/
def Task.awayBy (t : Task) (after between key x : Nat) : Nat :=
  if atOrAfter t.schedFreeze x then after
  else if atOrAfter (t.stop.map (·.primary.x)) x && Config.openField 0x268 (64 * t.taskid + key) x % 2 == 1 then between
  else 0

/-- How far the last delivery, at GCC `x`, of a put that core `key` has sent to another member moves; 0 where none is due there then. -/
def Task.awayMove (t : Task) (after between key x : Nat) : Nat :=
  if t.aways.any fun a => a.1 == key && a.2.2 == x then t.awayBy after between key x else 0

/-- The puts to other members after a move. -/
def Task.moveAways (t : Task) (after : Nat) (between : Nat → Nat) : List (Nat × Nat × Nat) :=
  t.aways.map fun (k, o, x) => (k, o, x + t.awayBy after (between x) k x)

/-- What of a task waits for a scale-up port moves with its delivery (R184, R268, R365, R420). -/
def Sent.moved (t : Task) (after : Nat) (between : Nat → Nat) : Sent → Sent
  | .put p dest port due => match t.aways.find? fun a => a.2.1 == p.order with
    | some a => .put p dest port (due + t.awayBy after (between due) a.1 due)
    | none => .put p dest port due
  | .beat m port due => .beat m port (if m.rank = t.rank && (t.runs.any fun u => u.plan == m.plan) && atOrAfter t.schedFreeze due then due + after else due)
  | x => x

/-- The egress buffers after a move of a task's traffic. -/
def State.moveEgress (t : Task) (after : Nat) (between : Nat → Nat) (s : State) : State :=
  s.modPkg fun p => { p with su := Sparse.mapVals {} (fun q => { q with egress := q.egress.map (Sent.moved t after between) }) p.su }

/-- How much later than due an entry of a stopped task comes once the task ends: what the modules and exchange dies hold comes
G − S later, and the source reads and puts that a core holds come G − σ later, in the order they had (R149, R152, R268). -/
def State.endMove (s : State) (slot : Slot) (e : Entry) : Nat :=
  let g := (s.taskAt slot).gcc
  if !s.frontHolds slot e then 0
  else match e.part with
    | .core => if e.work.goesOn then g - ((s.coreAt e.row e.core).sigma.getD g) else 0
    | .sched => g - (s.taskAt slot).schedFreeze.getD g
    | .exch => g - (s.taskAt slot).schedFreeze.getD g
    | _ => 0

/-- Terminate a task (R49, R152, R156, R181): rows that have not come to their stop GCC go on to it, and what the stop front holds
stays held; far-memory writes and puts already issued go on, those that were held in the order they had, and the end fence of
system scope is put on the agenda: what the other members of a gang have issued for the task, runs and puts too, ends when they know
(R268, R364). The first reason given stands. -/
def State.terminate (slot : Slot) (rep : EndReport) (s : State) : State :=
  let t := (s.taskAt slot)
  if t.ending.isSome then s
  else
    let s := { s with agenda := s.agenda.filter fun e => !(e.gang && e.slot == slot && e.part == Part.free && e.work.issues) }
    let sched := t.gcc - t.schedFreeze.getD t.gcc
    let between := fun x => t.gcc - x + Config.openField 0x268 t.taskid x % (x + 1 - (t.stop.map (·.primary.x)).getD x)
    let effects := t.effects.map fun (k, g, x) => (k, g, max (s.effectMove slot (s.endMove slot) sched k x) (x + t.awayMove sched (between x) k x))
    let s := s.moveEgress t sched between
    let moved := s.agenda.map fun (e : Entry) => { e with due := e.due + s.endMove slot e }
    let s : State := { s with agenda := moved }
    let e := effects.foldl (fun m (_, _, v) => max m v) (if 1 < t.members then max t.gcc (Config.peerEffect t.taskid t.gcc) else t.gcc)
    let s := s.modTask slot fun t => { t with
      ending := some rep, endDcc := s.dcc, schedFreeze := none, effects := effects, aways := t.moveAways sched between
      stalls := t.stalls.map (Stall.resume t.schedFreeze sched)
      xfers := t.xfers.map fun (x : Xfer) => if x.waits.isEmpty || !atOrAfter t.schedFreeze x.wcc then x else { x with wcc := x.wcc + sched } }
    (s.startDrains slot).add { gang := true, due := max (t.gcc + t.llead + 1024) (e + 1), rank := 2, slot := slot, work := .cont .endFence }

/-- The report of a task ended by a trap (R375, R383). -/
def trapReport (code detail row col rank : Nat) : EndReport :=
  { code := 0x01, trapc := code, detail := detail, row := row, col := col, rank := some rank }

/-- A timing trap that another trap of the same cycle has displaced as the primary one is secondary (R180). -/
def State.markSecondary (s : State) (slot : Slot) (st : Stop) : State :=
  if !timingTrap st.code then s
  else match (s.rowsOf slot).find? fun r => s.rows[r].rowid == st.primary.row with
    | none => s
    | some r =>
      if st.col = 0xFF then s.modRow r fun w => { w with trapfs := w.trapfs ||| 0x8000000000000 }
      else s.modCore r (Fin.ofNat 8 st.col) fun k => { k with trapf := k.trapf ||| 0x8000000000000 }

/-- A trap at the sequencer or at logical column 0 is the only one of its cycle there (R179): the trap of a step falls away. -/
def State.dropStep (slot : Slot) (r : Fin 8) (x : Nat) (s : State) : State :=
  { s with agenda := s.agenda.filter fun e => !(e.gang && e.slot == slot && e.row == r && e.due == x && e.work == .ev .singleStepTrap) }

/-- TAKING A TRAP (R178 to R182, R187, R194): the record is kept where the trap was detected, the row's stop front and the
gang stop are set, the primary trap is kept, and the modules freeze L_lead domain cycles later. S_p of R181 follows only from a
trap that is the gang's primary one so far. `place` is 0 for the
sequencer and 1 + c for logical column c; `x` is the detection cycle; `seqRec` says that the record goes to TRAPFS. A trap
in handler mode is a handler fault, which ends the task. -/
def State.takeTrap (s : State) (place : Nat) (seqRec : Bool) (x : Nat) (i : TrapInfo) : State :=
  let slot := s.cur.slot
  let r := s.cur.row
  let t := s.task
  if s.row.handler then s.terminate slot (trapReport i.code i.detail s.row.rowid (if place = 0 then 0xFF else place - 1) t.rank)
  else
    let key : Primary := ⟨x, t.rank, s.row.rowid, place⟩
    let c := place - 1
    let col := if seqRec then 0xFF else c
    let prim := match t.stop with
      | some st => key.before st.primary
      | none => true
    let sec := !prim && timingTrap i.code
    let s := if seqRec then s.hereRow fun w => { w with trapfs := i.word sec, trapped := true }
      else s.modCore r (Fin.ofNat 8 c) fun k => { k with trapf := i.word sec, trapped := true }
    let s := match t.stop with
      | some st =>
        if prim then (forEach (s.rowsOf slot) (fun r s => s.modRow r fun w => { w with trapc := unprim w.trapc })
          (s.modTask slot fun t => { t with stop := some { st with primary := key, code := i.code, detail := i.detail, col := col } })).markSecondary slot st
        else s
      | none => (s.modTask slot fun t => { t with stop := some { primary := key, code := i.code, detail := i.detail, col := col } }).addDomain (s.dcc + t.llead) 0 (.cont .freezeSched)
    let s := s.hereRow fun w =>
      let first := match w.front with
        | some f => decide (x < f.1) || (x == f.1 && decide (place < f.2))
        | none => true
      { w with
        front := if first then some (x, place) else w.front
        trapc := if first then trapcWord w.trapc i.code (originOf (if seqRec then 0 else place)) prim
          else if prim then w.trapc ||| 0x40000000 else w.trapc }
    let s := s.frontRow slot r c x
    let s := if prim then s.frontAll slot (x + 64) else s
    let s := if c = 0 then s.dropStep slot r x else s
    (s.undoCore slot r (Fin.ofNat 8 c) x).undoSeq slot r x

/-- A core-port access of a word that has issued (R137). -/
def Work.corePort : Work → Bool
  | .cont (.lsWrite _ _) => true
  | .ev (.tileGroupAccess _) => true
  | _ => false

/-- The core-port accesses of a core's trapping cycle (R137, R182): where its trap is a bank clash those of the words that rank before take
effect, and so meet nothing after a resume (log entry 18); otherwise the freeze holds them. -/
def State.holdAccesses (s : State) (stand : Bool) : State :=
  { (if stand then s.here fun c => c.portDone s.gcc else s) with agenda := s.agenda.map fun e =>
      if e.gang && e.slot == s.cur.slot && e.row == s.cur.row && e.core == s.cur.core && e.part == .core && e.due == s.gcc && e.work.corePort then
        { e with urgent := stand }
      else e }

/-- An issue trap of a word of columns A to X (R178): the word is the stop word and issues again on resume. -/
def State.trapWord (s : State) (code detail : Nat) (info : Nat := 0) : State :=
  let s := s.holdAccesses (code == 0x0F && detail == 2)
  (s.add s.cur).takeTrap (1 + s.cur.core.1) false s.gcc { code := code, detail := detail, info := info, addr := s.wordAddr }

/-- An issue trap of an S word (R178, R194). -/
def State.trapSeq (s : State) (code detail : Nat) : State :=
  (s.add s.cur).takeTrap 0 true s.gcc { code := code, detail := detail, addr := s.wordAddr }

/-- A word of the row's instruction SRAM (R51). -/
def Row.at (r : Row) (a : Nat) : Word := Sparse.get 0 r.sram a

/-- The words of a clause whose header lies at `a`. -/
def Row.clauseWords (r : Row) (a n : Nat) : List Word := (List.range n).map fun i => r.at (a + 1 + i)

/-- The clause at `a` is an S clause with a frame-changing word (R78). -/
def Row.framed (r : Row) (a : Nat) : Bool :=
  let h := clauseHdrOf (r.at a)
  h.cls == 0 && (r.clauseWords a (h.cnt.toNat + 1)).any frameChanging

/-- The clauses of the straight run from word address `a`, up to the one that changes the frame or the end of the stream (R78): address
of the header, START and class. -/
def Row.run (r : Row) : Nat → Nat → List (Nat × Nat × Nat)
  | 0, _ => []
  | n + 1, a =>
    let h := clauseHdrOf (r.at a)
    if r.slen ≤ a then []
    else (a, h.start.toNat, h.cls.toNat) :: if r.framed a then [] else r.run n (a + 2 + h.cnt.toNat)

/-- Work that a row has on the agenda for a part. -/
def State.workOf (s : State) (r : Fin 8) (p : Part) : List Entry := s.agenda.filter fun e => e.gang && e.row == r && e.part == p

/-- The clauses of the run at which the dispatcher is about to resume (R78), whose frame base is in force, with the GCC of their start; and
those that wait for the frame base of an open GALIGN (R164), which come after everything that has a cycle, in stream order. -/
def State.clausesAhead (s : State) (r : Fin 8) (p : Part) : List (Nat × Nat × Nat) :=
  let w := s.rows[r]
  (w.clauses.filter fun c => c.fb.isNone && !c.dropped && c.handler == w.handler).map (fun c => (c.addr, 2 ^ 69 + c.start, c.cls))
    ++ (s.workOf r p).flatMap fun e => match e.work with
      | .cont (.fetchFrom a) => (w.run w.slen a).map fun k => (k.1, (if w.frameOpen then 2 ^ 69 else w.fb) + k.2.1, k.2.2)
      | _ => []

/-- The word address of the first word of a core that has not issued (R178, R194). A word still at an earlier core of the
caravan comes two cycles later at each core (R23), and so do the clauses ahead in the frame that follows. Where the
stream has been read no further the record has no address to hold, and the field is free. -/
def State.nextWordAddr (s : State) (r c : Fin 8) : Nat :=
  let cand := s.agenda.filterMap fun e =>
    if e.gang && e.row == r && decide (e.core ≤ c) && e.part == .core then
      let due := e.due + 2 * (c.1 - e.core.1)
      match e.work with
      | .word id idx => ((s.rows[r].clauses.find? fun k => k.id == id).map fun k => (due, e.rank, k.addr + 1 + idx))
      | .ev (.clauseStart id) => ((s.rows[r].clauses.find? fun k => k.id == id).map fun k => (due, 10 + k.cls, k.addr + 1))
      | _ => none
    else none
  let ahead := ((s.clausesAhead r .seq).filter fun k => decide (1 ≤ k.2.2) && decide (k.2.2 ≤ 5)).map fun k => (k.2.1 + 2 * c.1, 10 + k.2.2, k.1 + 1)
  match cand ++ ahead with
  | [] => Config.openField 0x194 (8 * r.1 + c.1) s.gcc % 2 ^ 18
  | x :: xs => (xs.foldl (fun m y => if decide (y.1 < m.1) || (y.1 == m.1 && decide (y.2.1 < m.2.1)) then y else m) x).2.2

/-- The word address of the sequencer's first word that has not issued (R194): its next word or clause, on the agenda or ahead in the
frame that follows, then the word whose read has failed. A row whose stream has ended has none, and the field is
free. -/
def State.nextSeqAddr (s : State) : Nat :=
  let r := s.row
  let cand := (s.workOf s.cur.row s.cur.part).filterMap fun e => match e.work with
    | .word id idx => ((r.clauses.find? fun k => k.id == id && k.cls == 0).map fun k => (e.due, k.addr + 1 + idx))
    | .ev (.clauseStart id) => ((r.clauses.find? fun k => k.id == id && k.cls == 0).map fun k => (e.due, k.addr + 1))
    | .cont (.badRead _ a) => some (e.due + 2 ^ 70, a)
    | _ => none
  let ahead := ((s.clausesAhead s.cur.row s.cur.part).filter fun k => k.2.2 == 0).map fun k => (k.2.1, k.1 + 1)
  match cand ++ ahead with
  | [] => Config.openField 0x195 s.cur.row.1 s.gcc % 2 ^ 18
  | x :: xs => (xs.foldl (fun m y => if y.1 < m.1 then y else m) x).2

/-- A write-back trap of a core (R178): detected at this cycle, the stop word is the core's first word not issued, and
CODE counts the words from the causing word to it unless marks are given. -/
def State.trapBack (s : State) (code : Nat) (nth : Nat) (marks : Option Nat := none) : State :=
  s.takeTrap (1 + s.cur.core.1) false s.gcc
    { code := code, wb := true, info := marks.getD (s.core.nIssued - nth), addr := s.nextWordAddr s.cur.row s.cur.core }

/-- Every row of the task here has an open region, and none has made a poison restart since its IDEMB (R321). -/
def State.mayRestart (s : State) (slot : Slot) : Bool :=
  (s.rowsOf slot).all fun r => match s.rows[r].region with
    | some g => !g.restarted
    | none => false

/-- A word of column A, V or M has consumed poison: what the gang does in place of handler entry when landed poison is on
record at the core (R321). -/
def State.markPoison (s : State) : State :=
  let c := s.core
  if c.pcnt = 0 then s
  else s.hereTask fun t => { t with
    stop := t.stop.map fun st =>
      if c.psrc then { st with source := st.source.or (some (c.pmod, c.paddr)) } else { st with restart := st.restart || s.mayRestart s.cur.slot } }

end Sys2Proof.Machine
end

