-- ==== Sys2Proof/Machine/Records.lean ====
section
/-! DEFINITION. Stream addresses (R370), the event queue of the package and its records (R340, R438), host interrupts
(R435) and the corrected-error counts (R440). -/

namespace Sys2Proof.Machine

open Sys2Proof

/-! ## Stream addresses -/

/-- The bytes of one module in the model's module memory. -/
def modSpan : Nat := 2 ^ 39

/-- The first module address above a module's 384 GiB (R145, R370). -/
def modEnd : Nat := 0x6000000000

/-- SPACE of a stream address: true for module memory (R370). -/
def inModule (a : Nat) : Bool := bitOf a 63

/-- The module a stream address names (R370). -/
def streamModule (a : Nat) : Nat := bitsOf a 57 6

/-- The stream address keeps R370. -/
def streamOk (a : Nat) : Bool := !inModule a || (bitsOf a 39 18 == 0 && decide (bitsOf a 0 39 < modEnd))

/-- The model's place of a byte of module memory. -/
def modAddr (m a : Nat) : Nat := m * modSpan + a

/-- Read one byte at a stream address (R370). -/
def State.streamByte (s : State) (a : Nat) : Byte :=
  if inModule a then Memory.byte s.modMem (modAddr (streamModule a) (bitsOf a 0 39)) else Memory.byte s.host a

/-- Read bytes at a stream address. -/
def State.streamBytes (s : State) (a n : Nat) : List Byte := (List.range n).map fun i => s.streamByte (a + i)

/-- Read a little-endian number at a stream address (R6). -/
def State.streamNat (s : State) (a n : Nat) : Nat := leNat (s.streamBytes a n)

/-- The class of the module sector that holds a place of module memory (R337). -/
def State.sector (s : State) (x : Nat) : LsClass := Sparse.get .clean s.modCls (x / 64)

/-- The class of a sector after some of its bytes are written (R337). -/
def sectorAfter (old : LsClass) (full psn : Bool) : LsClass :=
  if psn then .poisoned else if full then .clean else if old.bad then .poisoned else .clean

/-- The place in time of an effect at a module (R149, R150, R323): its DCC, its rank within that cycle, and the order in which
its operations were issued. -/
def effectKey (dcc rank ord : Nat) : Nat := (dcc * 2 ^ 64 + rank) * 2 ^ 64 + ord

/-- The place in time of what is being carried out. -/
def State.nowKey (s : State) : Nat := effectKey s.dcc s.cur.rank s.cur.ord

/-- A read finds a sector uncorrectable and rewrites it poisoned (R337). -/
def readSector (c : Sparse LsClass) (k : Nat) : Sparse LsClass :=
  if Sparse.get .clean c k = .uncorrectable then Sparse.set .clean c k .poisoned else c

/-- A row copy reads a sector: its copy has no correctable error (R339). -/
def copiedSector (c : Sparse LsClass) (k : Nat) : Sparse LsClass :=
  if Sparse.get .clean c k = .corrected then Sparse.set .clean c k .clean else readSector c k

/-- Module memory after a write (R149, R337, R339). -/
def ModWrite.apply (m : Memory × Sparse LsClass) (w : ModWrite) : Memory × Sparse LsClass :=
  let as := (w.bytes.map Prod.fst).eraseDups
  (Sparse.setMany 0 m.1 w.bytes,
   w.copies.foldl copiedSector (w.reads.foldl readSector (((as.map (· / 64)).eraseDups).foldl (fun c k => Sparse.set .clean c k
      (sectorAfter (Sparse.get .clean c k) (decide ((as.filter fun a => a / 64 = k).length = 64)) (w.psn.any fun a => a / 64 == k))) m.2)))

/-- Put a write behind those of equal or smaller key. -/
def insertWrite (w : ModWrite) : List ModWrite → List ModWrite
  | [] => [w]
  | x :: xs => if w.key < x.key then w :: x :: xs else x :: insertWrite w xs

/-- Module memory as the place `key` in time finds it (R149, R336). -/
def State.modAt (s : State) (key : Nat) : Memory × Sparse LsClass :=
  match s.modBase with
  | none => (s.modMem, s.modCls)
  | some b => if s.modLog.all fun w => decide (w.key ≤ key) then (s.modMem, s.modCls) else (s.modLog.filter fun w => decide (w.key ≤ key)).foldl ModWrite.apply b

/-- A write of module memory takes its place in time (R149, R150, R336): while a schedule is stalled, later writes of other gangs
stay on top of it. -/
def State.modPut (w : ModWrite) (s : State) : State :=
  match s.modBase with
  | none =>
    let m := ModWrite.apply (s.modMem, s.modCls) w
    { s with modMem := m.1, modCls := m.2 }
  | some b =>
    let log := insertWrite w s.modLog
    let m := if s.modLog.all fun x => decide (x.key ≤ w.key) then ModWrite.apply (s.modMem, s.modCls) w else log.foldl ModWrite.apply b
    { s with modMem := m.1, modCls := m.2, modLog := log }

/-- Write bytes of module memory now, as one write; `psn` holds the places that arrive poisoned (R149, R337). -/
def State.modWrite (s : State) (bs : List (Nat × Byte)) (psn : List Nat) : State := s.modPut { key := s.nowKey, bytes := bs, psn := psn }

/-- One byte of module memory at a place in time. -/
def State.modByteAt (s : State) (key a : Nat) : Byte := Memory.byte (s.modAt key).1 a

/-- The class of the sector that holds a place of module memory, at a place in time (R337). -/
def State.sectorAt (s : State) (key a : Nat) : LsClass := Sparse.get .clean (s.modAt key).2 (a / 64)

/-- Write bytes at a stream address (R370). -/
def State.streamWrite (s : State) (a : Nat) (bs : List Byte) : State :=
  if inModule a then s.modWrite (((List.range bs.length).map fun i => modAddr (streamModule a) (bitsOf a 0 39 + i)).zip bs) []
  else { s with host := Memory.putBytes s.host a bs }

/-- An access at a stream address fails (R383): the host refuses the line. -/
def State.accessFails (s : State) (a : Nat) : Bool := !inModule a && s.pkg.hostBad.contains (a / 64)

/-! ## Modules that cannot be reached (R377, R407) -/

/-- The ports of a module: the live ports with its MOD, ascending (R407). -/
def State.portsOf (s : State) (m : Nat) : List Nat := (s.pkg.ports.filter fun (n, p) => decide (n < 384) && p.live && p.md == m).map Prod.fst

/-- No port carries traffic toward a module (R407): what goes there or comes from there is late (R319, R335). -/
def State.portless (s : State) (m : Nat) : Bool := (s.portsOf m).isEmpty

/-- A module is absent from PODMAP or has reported itself offline (R377). -/
def State.away (s : State) (podMap m : Nat) : Bool := !bitOf podMap m || s.pkg.offline.contains m

/-- A stream address names a module that is away. -/
def State.addrAway (s : State) (podMap a : Nat) : Bool := inModule a && s.away podMap (streamModule a)

/-- No port carries traffic toward the module of a stream address that is not away (R407): an access of the package's own waits for one
(log entry 137). -/
def State.cut (s : State) (podMap a : Nat) : Bool := inModule a && !s.away podMap (streamModule a) && s.portless (streamModule a)

/-- The cycles after which an access that waits for a memory port is tried again. -/
def portWait : Nat := 64

/-! ## The event queue -/

/-- The function that a stream is assigned to (R436): the PF without V, and where FN names no function. -/
def Pkg.owner (p : Pkg) (n : Nat) : Nat :=
  let x := Sparse.get 0 p.sassign n
  if x.getLsbD 63 && decide (bitsOf x.toNat 0 5 ≤ 16) then bitsOf x.toNat 0 5 else 0

/-- The function and vector of an interrupt (R435): on the PF 0 to 63 a stream, 64 the event queue, 65 the mailbox; a VF has one vector for
each stream assigned to it, numbered as log entry 125 says. -/
def Pkg.vector (p : Pkg) (n : Nat) : Nat × Nat :=
  if n < 64 && p.owner n != 0 then (p.owner n, ((List.range n).filter fun k => p.owner k == p.owner n).length) else (0, n)

/-- The host is interrupted (R435). -/
def State.interrupt (s : State) (n : Nat) : State := s.modPkg fun p => { p with raised := p.raised ++ [p.vector n] }

/-- LOG2N of EVQCTL (R438). -/
def evqLog (x : Word) : Nat := let n := bitsOf x.toNat 0 5; if 7 ≤ n && n ≤ 20 then n else 7

/-- Write one record of the event queue (R438). -/
def State.evqWrite (s : State) (r : List Byte) : State :=
  let p := s.pkg
  if !p.evqCtl.getLsbD 63 then s
  else
    let n := 2 ^ evqLog p.evqCtl
    if (p.evqTail + 1) % n = p.evqHead % n then s.modPkg fun p => { p with evqLost := min (p.evqLost + 1) 0xFFFFFFFF }
    else ((s.streamWrite (p.evqBase + 32 * p.evqTail) r).modPkg fun p => { p with evqTail := (p.evqTail + 1) % n }).interrupt 64

/-- Put a record among those of this domain cycle (R438): they are written together, in the order of their keys. -/
def State.evqAdd (s : State) (key : Nat) (r : List Byte) : State :=
  let first := s.pkg.evqNew.isEmpty
  let s := s.modPkg fun p => { p with evqNew := p.evqNew ++ [(key, r)] }
  if first then s.add { gang := false, due := s.dcc, rank := 2 ^ 40, work := .cont .evqFlush } else s

/-- Insert a record behind those of equal or smaller key. -/
def evqInsert (x : Nat × List Byte) : List (Nat × List Byte) → List (Nat × List Byte)
  | [] => [x]
  | y :: ys => if x.1 < y.1 then x :: y :: ys else y :: evqInsert x ys

/-- Write the records of this domain cycle: module records first, by module, then package records, by type (R438). While no port carries
traffic toward the module of the queue they wait, those of earlier cycles first (R407). -/
def State.evqFlush (s : State) : State :=
  let rs := s.pkg.evqWait ++ (s.pkg.evqNew.foldl (fun out x => evqInsert x out) []).map (·.2)
  let s := s.modPkg fun p => { p with evqNew := [], evqWait := [] }
  if s.pkg.evqCtl.getLsbD 63 && s.cut (2 ^ 64 - 1) s.pkg.evqBase then
    let s := s.modPkg fun p => { p with evqWait := rs }
    if s.agenda.any fun e => e.work == Work.cont .evqFlush && decide (s.dcc < e.due) then s
    else s.add { gang := false, due := s.dcc + portWait, rank := 2 ^ 40, work := .cont .evqFlush }
  else forEach rs (fun x s => s.evqWrite x) s

/-- A package record (R438): where no rule gives VALUE it is free, and so is AUX. -/
def State.pkgEvent (s : State) (type inst : Nat) (value : Option Nat) : State :=
  s.evqAdd (1024 + type) (leBytes 1 type ++ leBytes 1 0 ++ leBytes 2 inst ++ leBytes 4 0
    ++ leBytes 8 (value.getD (Config.openField type inst s.dcc)) ++ leBytes 8 s.dcc ++ leBytes 8 (Config.openField (256 + type) inst s.dcc))

/-- Pool rows left in a stack of a module (R339). -/
def State.spares (s : State) (m stack : Nat) : Nat := 512 - Sparse.get 0 s.pkg.sparesUsed (8 * m + stack)

/-- A module event record (R340). Where it names no stack, SPARES is free. -/
def State.modEvent (s : State) (type m stack maddr ch task : Nat) : State :=
  s.evqAdd m (leBytes 1 type ++ leBytes 1 m ++ leBytes 1 stack ++ leBytes 1 0
    ++ leBytes 2 (if stack = 0xFF then Config.openField 0x341 m s.dcc else s.spares m stack) ++ leBytes 2 0 ++ leBytes 8 maddr ++ leBytes 8 s.dcc
    ++ leBytes 4 ch ++ leBytes 4 task)

/-! ## Sectors and row sparing (R337, R339) -/

/-- A module address of a sector by its place. -/
def sectorAddr (m k : Nat) : Nat := k * 64 - m * modSpan

/-- The stack that holds a sector (R339). -/
def stackOf (m k : Nat) : Nat := Config.dramRow m k % 8

/-- The key of a DRAM row of a module. -/
def rowKey (m k : Nat) : Nat := 64 * Config.dramRow m k + m

/-- A module begins to spare the row of a sector (R339): 0 after an uncorrectable read, 1 after 16 corrected ones. The copy takes
maintenance slots, whose number no rule gives. -/
def State.spareRow (s : State) (m k cause : Nat) : State :=
  if s.pkg.sparing.contains (rowKey m k) then s
  else (s.modPkg fun p => { p with sparing := p.sparing ++ [rowKey m k] }).addDomain (s.dcc + 1 + Config.within 0x339 s.dcc) (2 ^ 39) (.cont (.rowSwitch m k (Config.dramRow m k) cause))

/-- A corrected read counts against its DRAM row (R337, R339): the sixteenth within one window of 2^32 domain cycles is reported and
starts the sparing of the row. -/
def State.countRow (s : State) (m k ch task : Nat) : State :=
  let recent := s.dcc :: (Sparse.get [] s.pkg.rowReads (rowKey m k)).filter fun d => decide (s.dcc < d + 2 ^ 32)
  if recent.length < 16 then s.modPkg fun p => { p with rowReads := Sparse.set [] p.rowReads (rowKey m k) recent }
  else ((s.modPkg fun p => { p with rowReads := Sparse.set [] p.rowReads (rowKey m k) [] }).modEvent 1 m (stackOf m k) (sectorAddr m k) ch task).spareRow m k 1

/-- A module reads sectors (R337) at a place in time: a correctable error counts against its DRAM row; an uncorrectable sector is
rewritten poisoned, recorded, and its row is spared. -/
def State.touchSectors (s : State) (m ch task key : Nat) (ks : List Nat) : State :=
  forEach ks.eraseDups (fun k s =>
    match Sparse.get .clean (s.modAt key).2 k with
    | .uncorrectable => ((s.modPut { key := key, reads := [k] }).modEvent 2 m (stackOf m k) (sectorAddr m k) ch task).spareRow m k 0
    | .corrected => s.countRow m k ch task
    | _ => s) s

/-- The package reads `n` bytes at a stream address on its own account (R337, R370). -/
def State.streamTouch (s : State) (a n : Nat) : State :=
  if !inModule a || n = 0 then s
  else
    let x := modAddr (streamModule a) (bitsOf a 0 39)
    s.touchSectors (streamModule a) 0xFFFFFFFF 0 s.nowKey ((List.range ((x + n - 1) / 64 - x / 64 + 1)).map (x / 64 + ·))

/-- The sectors of a DRAM row of a module that hold errors. -/
def State.rowErrors (s : State) (m drow : Nat) : List (Nat × LsClass) :=
  s.modCls.filter fun (j, _) => decide (j / 2 ^ 33 = m) && Config.dramRow m j == drow

/-- A row is copied sector by sector (R337, R339): each read corrects what it can, and rewrites and records what it cannot. The spare has
counted no corrected read: log entry 135. -/
def State.copyRow (s : State) (m drow : Nat) : State :=
  let ks := s.rowErrors m drow
  let s := s.modPut { key := s.nowKey, copies := ks.map Prod.fst }
  let s := forEach (ks.filter fun k => k.2 == .uncorrectable) (fun k s => s.modEvent 2 m (drow % 8) (sectorAddr m k.1) 0xFFFFFFFF 0) s
  s.modPkg fun p => { p with rowReads := Sparse.set [] p.rowReads (64 * drow + m) [] }

/-- ROW_SPARING's switch (R339, R340): from the pool, then by post-package repair, each time with a copy of the row; with both exhausted
only a report is made. -/
def State.rowSwitch (s : State) (m k drow cause : Nat) : State :=
  let stack := 8 * m + drow % 8
  let ev := fun (type : Nat) (s : State) => s.modEvent type m (drow % 8) (sectorAddr m k) 0xFFFFFFFF 0
  let s := s.modPkg fun p => { p with sparing := p.sparing.filter (· != 64 * drow + m) }
  if cause < 2 && decide (0 < s.spares m (drow % 8)) then
    ev 3 ((s.copyRow m drow).modPkg fun p => { p with sparesUsed := Sparse.set 0 p.sparesUsed stack (Sparse.get 0 p.sparesUsed stack + 1) })
  else if cause < 2 && decide (Sparse.get 0 s.pkg.repairsUsed stack < Config.repairs stack) then
    ev 4 ((s.copyRow m drow).modPkg fun p => { p with repairsUsed := Sparse.set 0 p.repairsUsed stack (Sparse.get 0 p.repairsUsed stack + 1) })
  else ev 5 s

/-! ## Corrected errors -/

/-- A count reaches a multiple of 2^16 on its way from `x` to `y` (R440). -/
def crosses16 (x y : Nat) : Bool := decide (x / 65536 < y / 65536)

/-- Corrected local-store reads `ls` and tile reads `tc` counted at an entry of HCORR (R440). -/
def State.countCorr (s : State) (key ls tc : Nat) : State :=
  let old := Sparse.get 0 s.pkg.hcorr key
  let l0 := bitsOf old.toNat 32 32
  let t0 := bitsOf old.toNat 0 32
  let l1 := min (l0 + ls) 0xFFFFFFFF
  let t1 := min (t0 + tc) 0xFFFFFFFF
  let s := s.modPkg fun p => { p with hcorr := Sparse.set 0 p.hcorr key (BitVec.ofNat 64 (l1 * 2 ^ 32 + t1)) }
  let s := if crosses16 l0 l1 then s.pkgEvent 0x81 key (some l1) else s
  if crosses16 t0 t1 then s.pkgEvent 0x81 key (some t1) else s

/-- The HCORR entry of the present core's physical place (R440). -/
def State.hcorrKey (s : State) : Nat := 9 * s.row.prow + s.core.pcol

end Sys2Proof.Machine
end

