-- ==== Sys2Proof/Machine/Flags.lean ====
section
/-! DEFINITION. The numeric events of a core and its event counters (R130, R131, R191, R192), bound registers (R223,
R224), control-register writes (R175, R193, R195) and the write-back of results (R4, R83). -/

namespace Sys2Proof.Machine

open Sys2Proof

/-! ## Numeric events -/

/-- The events of one element (R130): `inx` counts only where the conversion is a narrow store. -/
def evOf (e : NumEv) : EvCount :=
  { inv := if e.inv then 1 else 0, ovf := if e.ovf then 1 else 0, unf := if e.unf then 1 else 0, inx := if e.inx then 1 else 0 }

/-- Add counts. -/
def evPlus (a b : EvCount) : EvCount :=
  ⟨a.inv + b.inv, a.ovf + b.ovf, a.unf + b.unf, a.inx + b.inx, a.bnd + b.bnd, a.psn + b.psn⟩

/-- The events of a list of element results (R131). -/
def countEv (rs : List FRes) : EvCount := rs.foldl (fun n r => evPlus n (evOf r.ev)) {}

/-- No event at all. -/
def evIsZero (e : EvCount) : Bool := e == {}

/-- What a counter with configuration `cfg` counts of the events (R191, EVSEL). -/
def evSelected (e : EvCount) (cfg : Word) : Nat :=
  (if cfg.getLsbD 50 then e.inv else 0) + (if cfg.getLsbD 51 then e.ovf else 0) + (if cfg.getLsbD 52 then e.unf else 0)
    + (if cfg.getLsbD 53 then e.inx else 0) + (if cfg.getLsbD 54 then e.bnd else 0) + (if cfg.getLsbD 55 then e.psn else 0)

/-- A counter's new COUNT (R191). -/
def evBump (old add : Nat) : Nat := min (old + add) 0xFFFFFFFF

/-- The counter crosses its limit (R192). -/
def evCrosses (old new lim : Nat) : Bool := decide (lim ≠ 0) && decide (old < lim) && decide (lim ≤ new)

/-- Count events at one counter: the core, and the ACT bits of a crossing (R191, R192). -/
def Core.countAt (c : Core) (e : EvCount) (n : Nat) : Core × Nat :=
  let cfg := Sparse.get 0 c.evcfg n
  let old := (Sparse.get 0 c.evcnt n).toNat
  let lim := (Sparse.get 0 c.evlim n).toNat
  let new := evBump old (evSelected e cfg)
  if !cfg.getLsbD 63 then (c, 0)
  else if evCrosses old new lim then
    ({ c with evcnt := Sparse.set 0 c.evcnt n (BitVec.ofNat 64 new), evcfg := Sparse.set 0 c.evcfg n (cfg ||| 1) }, bitsOf cfg.toNat 61 2)
  else ({ c with evcnt := Sparse.set 0 c.evcnt n (BitVec.ofNat 64 new) }, 0)

/-- Count events at the four counters of a core: the marks of the counters that trap, and of those that interrupt the host
(R192); a counter that only interrupts has no mark: log entry 143. -/
def Core.count (c : Core) (e : EvCount) : Core × Nat × List Nat :=
  [0, 1, 2, 3].foldl (fun (c, marks, irq) n =>
    let (c, act) := c.countAt e n
    (c, marks + (if act % 2 = 1 then 2 ^ n else 0), if 2 ≤ act then irq ++ [n] else irq)) (c, 0, [])

/-- Count events at the present core; a crossing with ACT 01 or 11 gives the marks of the trap, one with ACT 10 or 11 a
record for the host (R192, R438). -/
def State.countHere (s : State) (e : EvCount) : State × Nat :=
  if evIsZero e then (s, 0)
  else
    let (c, marks, irq) := s.core.count e
    let s := s.here fun _ => c
    (forEach irq (fun n s => s.pkgEvent 0x80 (s.cur.row.1 * 256 + s.cur.core.1 * 16 + n) none) s, marks)

/-- A poison event counts at its trap (R131, R143); a crossing of its own adds nothing to the trap of lower code. -/
def State.countPoison (s : State) : State := (s.countHere { psn := 1 }).1

/-! ## Bound registers -/

/-- The lowest-numbered bound register that checks v[d] (R224). -/
def Core.boundOf (c : Core) (d : Nat) : Option Word :=
  ((List.range 16).map fun n => Sparse.get 0 c.bnd n).find? fun b => b.getLsbD 63 && bitsOf b.toNat 52 6 == d

/-- The lowest-numbered bound register that checks tile `t` (R283). -/
def Core.tileBound (c : Core) (t : Nat) : Option Word :=
  ((List.range 16).map fun n => Sparse.get 0 c.bnd n).find? fun b => b.getLsbD 62 && bitsOf b.toNat 48 4 == t

/-- LO or HI widened to a lane (R223, R224). -/
def boundLane (b : Word) (lo : Nat) : Lane :=
  if b.getLsbD 59 then BitVec.ofNat 32 (wrapTo 32 (signedOf (bitsOf b.toNat lo 16) 16)) else BitVec.ofNat 32 (bitsOf b.toNat lo 16 * 65536)

/-- `x` lies below `y` as ITY directs (R223). -/
def boundLt (b : Word) (x y : Lane) : Bool :=
  if b.getLsbD 59 then x.slt y else !(f32 x).isNan && !(f32 y).isNan && (f32 x).ltv (f32 y)

/-- A lane hits its bound register, and the bound it takes (R224); a NaN lane or bound never hits. -/
def boundHit (b : Word) (x : Lane) : Option Lane :=
  if boundLt b x (boundLane b 0) then some (boundLane b 0)
  else if boundLt b (boundLane b 16) x then some (boundLane b 16)
  else none

/-- ACT of a bound register (R223). -/
def boundAct (b : Word) : Nat := bitsOf b.toNat 60 2

/-- Lanes after their bound register has acted, and the number of hits (R224). -/
def boundLanes (b : Word) (ls : List (Nat × Lane)) : List (Nat × Lane) × Nat :=
  let hits := (ls.filter fun (_, x) => (boundHit b x).isSome).length
  let out := if boundAct b = 0 || boundAct b = 3 then ls.map fun (i, x) => (i, (boundHit b x).getD x) else ls
  (out, hits)

/-! ## Control registers -/

/-- The bits of a core register that a CWR sets (R7, R191, R223). -/
def coreCtlMask (sel : Nat) : Word :=
  if sel < 0x10 then 0
  else if sel < 0x14 then 0xE0FFE00000000000
  else if sel < 0x1C then 0xFFFFFFFF
  else 0xFBFF0000FFFFFFFF

/-- ALLOW.LIMIT from an operand (R303): a value above 0x40_0000 sets 0x40_0000, and bits [5:0] read zero. -/
def limitOf (x : Nat) : Nat := min x 0x400000 / 64 * 64

/-- A CWR of a core register takes effect (R175, R193). -/
def Core.writeCtl (c : Core) (sel : Nat) (x : Word) : Core :=
  if sel = 4 then { c with limit := limitOf (x.toNat % 0x800000) }
  else if 0x10 ≤ sel && sel < 0x14 then
    let old := Sparse.get 0 c.evcfg (sel - 0x10)
    { c with evcfg := Sparse.set 0 c.evcfg (sel - 0x10) ((x &&& coreCtlMask sel) ||| (old &&& ~~~x &&& 1)) }
  else if 0x14 ≤ sel && sel < 0x18 then { c with evcnt := Sparse.set 0 c.evcnt (sel - 0x14) (x &&& coreCtlMask sel) }
  else if 0x18 ≤ sel && sel < 0x1C then { c with evlim := Sparse.set 0 c.evlim (sel - 0x18) (x &&& coreCtlMask sel) }
  else if 0x20 ≤ sel && sel < 0x30 then { c with bnd := Sparse.set 0 c.bnd (sel - 0x20) (x &&& coreCtlMask sel) }
  else c

/-- A CWR of a row register takes effect (R175, R190, R194, R195). -/
def Row.writeCtl (r : Row) (sel : Nat) (x : Word) : Row :=
  if sel = 0x0A then (if r.handler then { r with trapc := (r.trapc &&& ~~~(0x80000000 : Word)) ||| (x &&& 0x80000000) } else r)
  else if sel = 0x0B then { r with tvec := x &&& 0x800000000003FFFF }
  else if sel = 0x0C then { r with sstep := x &&& 7 }
  else if sel = 0x0E then { r with dbgout := x, dbgst := r.dbgst ||| 2 }
  else if sel = 0x0F then { r with dbgst := r.dbgst &&& ~~~(x &&& 1) }
  else r

/-- The window length of a counter, none when WLOG = 0 (R191). -/
def evWindow (cfg : Word) : Option Nat :=
  let w := bitsOf cfg.toNat 45 5
  if w = 0 then none else some (2 ^ max w 8)

/-- The counter windows of a core, put on the agenda anew (R192). -/
def State.armWindow (s : State) (n : Nat) : State :=
  let s := { s with agenda := s.agenda.filter fun e =>
    !(e.gang && e.slot == s.cur.slot && e.row == s.cur.row && e.core == s.cur.core && e.work == .ev (.eventCounterWindow n)) }
  match evWindow (Sparse.get 0 s.core.evcfg n) with
  | none => s
  | some w => s.addGang ((s.gcc / w + 1) * w) 1 0 .core (.ev (.eventCounterWindow n))

/-! ## Write-back -/

/-- The register a write names: a file number and a register (R83). -/
def writeKey : RegWrite → Option (Nat × Nat)
  | .a n _ => some (0, n)
  | .p n _ => some (1, n)
  | .v n _ => some (2, n)
  | .m n _ => some (3, n)
  | .k h n _ => some (if h && decide (64 ≤ n) then 5 else 4, n)
  | .q h n _ => some (if h then 7 else 6, n)
  | .tile n _ => some (8, n)
  | .td n _ => some (9, n)
  | .g n _ => some (10, n)
  | .bt n _ => some (11, n)
  | .limit _ => some (12, 4)
  | .seg _ => some (13, 0)
  | .window n _ _ _ _ => some (14, n)
  | .rowCtl sel _ => some (15, sel)
  | .coreCtl sel _ => some (12, sel)

/-- Carry out one update. A tile word of which any byte is written is clean (R295; log entry 164). -/
def applyWrite (w : RegWrite) (s : State) : State :=
  match w with
  | .a n x => s.here fun c => c.wa n x
  | .p n x => s.here fun c => c.wp n x
  | .v n ls => s.here fun c => c.wv n ls
  | .m n bs => s.here fun c => c.wm n bs
  | .k h n x => s.hereRow fun r => r.wk h n x
  | .q h n x => s.hereRow fun r => r.wq h n x
  | .tile n bs => s.here fun c => { c with
      tile := Sparse.setMany 0 c.tile (bs.map fun (i, x) => (16384 * n + i, x))
      tileCls := ((bs.map fun (i, _) => 2048 * n + i / 8).eraseDups).foldl (fun m w => Sparse.set .clean m w .clean) c.tileCls }
  | .td n x => s.here fun c => { c with td := Sparse.set 0 c.td n x }
  | .g n x => s.here fun c => { c with g := Sparse.set 0 c.g n x }
  | .bt n x => s.here fun c => { c with bt := Sparse.set 0 c.bt n x }
  | .limit x => s.here fun c => { c with limit := x }
  | .seg w => s.here fun c => { c with seg := w }
  | .window n b l e w => s.here fun c => { c with win := Sparse.set {} c.win n ⟨b, l, e, w⟩ }
  | .rowCtl sel x => s.hereRow fun r => r.writeCtl sel x
  | .coreCtl sel x =>
    let s := s.here fun c => c.writeCtl sel x
    if 0x10 ≤ sel && sel < 0x14 then s.armWindow (sel - 0x10) else s

/-- Carry out updates in order. -/
def applyWrites (ws : List RegWrite) (s : State) : State := forEach ws applyWrite s

/-- A write-back of another word in this cycle at the same place names the register of a write (R83). -/
def State.conflicts (s : State) (wid : Nat) (x : RegWrite) : Bool :=
  s.agenda.any fun e =>
    e.gang && e.slot == s.cur.slot && e.row == s.cur.row && e.core == s.cur.core && e.due == s.cur.due && e.part == s.cur.part &&
      match e.work with
      | .ev (.registerWriteBack w) => w.wid != wid && w.writes.any fun a => writeKey a == writeKey x
      | _ => false

/-- Put a core result on the agenda: it is written `lat` local cycles after issue (R4, R131). -/
def State.writeBack (s : State) (lat : Nat) (ws : List RegWrite) (ev : EvCount := {}) (bound : Option Nat := none) : State :=
  (s.addCore lat 3 s.next (.ev (.registerWriteBack { wid := s.next, writes := ws, ev := ev, bound := bound, nth := s.core.nIssued - 1 }))).fresh

/-- Put a result of an S word on the agenda (R161). -/
def State.writeSeq (s : State) (lat : Nat) (ws : List RegWrite) : State :=
  (s.addSeq lat 3 s.next (.ev (.registerWriteBack { wid := s.next, writes := ws }))).fresh

/-- Put the effect of a control-register write on the agenda: it follows the write-backs of its cycle (R224). -/
def State.writeCtl (s : State) (lat : Nat) (ws : List RegWrite) : State :=
  (s.addCore lat 5 s.next (.ev (.registerWriteBack { wid := s.next, writes := ws }))).fresh

/-- Each v register of a write-back after its bound register has acted, the hits, and whether a hit traps (R224). -/
def Core.boundWrites (c : Core) (ws : List RegWrite) : List RegWrite × Nat × Bool :=
  ws.foldl (fun (out, n, tr) w =>
    match w with
    | .v d ls =>
      match c.boundOf d with
      | some b => let (ls', h) := boundLanes b ls; (out ++ [.v d ls'], n + h, tr || (boundAct b == 1 && decide (0 < h)))
      | none => (out ++ [w], n, tr)
    | w => (out ++ [w], n, tr)) ([], 0, false)

/-- Keep the tile bytes that a matrix result of this cycle replaces (R296). -/
def Core.keepOld (c : Core) (now : Nat) (ws : List RegWrite) : Core :=
  let olds := ws.flatMap fun w =>
    match w with
    | .tile n bs => bs.map fun (i, _) => (16384 * n + i, Sparse.get 0 c.tile (16384 * n + i))
    | _ => []
  { c with tileOld := (if c.tileOldAt = now then c.tileOld else []) ++ olds, tileOldAt := now }

/-- What a write is about to replace (R182): none for what is not put back. -/
def State.oldWrite (s : State) (w : RegWrite) : List RegWrite :=
  let c := s.core
  match w with
  | .a n _ => [.a n (c.ra n)]
  | .p n _ => [.p n (c.rp n)]
  | .v n ls => [.v n (ls.map fun (i, _) => (i, c.rv n i))]
  | .m n bs => [.m n (bs.map fun (i, _) => (i, c.rm n i))]
  | .k h n _ => [.k h n (s.row.rk h n)]
  | .q h n _ => [.q h n (s.row.rq h n)]
  | .tile n bs => [.tile n (bs.map fun (i, _) => (i, c.rt n i))]
  | .td n _ => [.td n (c.rtd n)]
  | .g n _ => [.g n (Sparse.get 0 c.g n)]
  | .bt n _ => [.bt n (Sparse.get 0 c.bt n)]
  | .limit _ => [.limit c.limit]
  | .seg _ => [.seg c.seg]
  | .window n _ _ _ _ => let w := c.rwin n; [.window n w.base w.len w.ben w.w]
  | .rowCtl sel _ =>
    if sel = 0x0B then [.rowCtl sel s.row.tvec] else if sel = 0x0C then [.rowCtl sel s.row.sstep]
    else if sel = 0x0E then [.rowCtl 0x0E s.row.dbgout, .rowCtl 0x0F s.row.dbgst]
    else if sel = 0x0F then [.rowCtl sel s.row.dbgst] else []
  | .coreCtl sel _ =>
    if sel = 4 then [.coreCtl sel (BitVec.ofNat 64 c.limit)]
    else if 0x10 ≤ sel && sel < 0x14 then [.coreCtl sel (Sparse.get 0 c.evcfg (sel - 0x10))]
    else if 0x14 ≤ sel && sel < 0x18 then [.coreCtl sel (Sparse.get 0 c.evcnt (sel - 0x14))]
    else if 0x18 ≤ sel && sel < 0x1C then [.coreCtl sel (Sparse.get 0 c.evlim (sel - 0x18))]
    else if 0x20 ≤ sel && sel < 0x30 then [.coreCtl sel (Sparse.get 0 c.bnd (sel - 0x20))]
    else []

/-- Keep a write-back of this cycle with what it replaces (R182). -/
def State.keepUndo (s : State) (w : WriteBack) : State :=
  let now := s.gcc
  let c := s.core
  let ws := (w.writes.flatMap fun x => match x with
    | .tile n bs => bs.map fun (i, _) => 2048 * n + i / 8
    | _ => []).eraseDups
  let u : Undone := { rank := s.cur.rank, ord := s.cur.ord, wb := w, olds := w.writes.flatMap s.oldWrite
                      cls := if c.tileCls.isEmpty then [] else ws.map fun k => (k, Sparse.get .clean c.tileCls k) }
  match s.cur.part with
  | .core => s.here fun c => { c with undo := (if c.undoAt = now then c.undo else []) ++ [u], undoAt := now }
  | .seq => s.hereRow fun r => { r with undo := (if r.undoAt = now then r.undo else []) ++ [u], undoAt := now }
  | _ => s

/-- A write-back of the core here falls due in this cycle, has still to be counted and has no bound hit of its own that traps. -/
def State.countsNow (s : State) (e : Entry) : Option (WriteBack × List RegWrite × EvCount) :=
  if !(e.gang && e.slot == s.cur.slot && e.row == s.cur.row && e.core == s.cur.core && e.due == s.cur.due && e.part == .core) then none
  else match e.work with
    | .ev (.registerWriteBack w) =>
      if w.late || w.job.isSome then none
      else
        let (ws, hits, tr) := if w.bound.isNone then (w.writes, 0, false) else s.core.boundWrites w.writes
        let ev := { w.ev with bnd := w.ev.bnd + hits }
        if tr || (w.hitTrap && decide (0 < w.ev.bnd)) || evIsZero ev then none else some (w, ws, ev)
    | _ => none

/-- Count what the core's other write-backs of this cycle count, so that counters which cross in one cycle raise one trap (R192). -/
def State.countRest (s : State) (marks : Nat) : State × Nat :=
  let es := s.agenda.filterMap fun e => (s.countsNow e).map fun x => (e, x)
  let (s, marks) := es.foldl (fun (s, m) (_, _, _, ev) => let (s, k) := s.countHere ev; (s, m + k)) (s, marks)
  ({ s with agenda := s.agenda.map fun e =>
      match es.find? fun x => x.1 == e with
      | some (_, w, ws, _) => { e with work := .ev (.registerWriteBack { w with writes := ws, ev := {}, late := true }) }
      | none => e }, marks)

/-- A word writes to the destination of an MFWD in progress (R284): the MFWD's own writes keep what they replace, and what another word
writes is that word's from then on. -/
def StreamUse.track (c : Core) (wid : Nat) (u : StreamUse) : RegWrite → StreamUse
  | .td n _ => if n ≠ u.tile then u else { u with oldTd := if u.wid = wid then some (c.rtd n) else none }
  | .tile n bs =>
    if n ≠ u.tile then u
    else if u.wid = wid then
      { u with
        oldBytes := u.oldBytes ++ bs.map fun (i, _) => (i, c.rt n i)
        oldCls := u.oldCls ++ (if c.tileCls.isEmpty then [] else ((bs.map fun (i, _) => 2048 * n + i / 8).eraseDups.map fun k => (k, Sparse.get .clean c.tileCls k))) }
    else
      { u with
        oldBytes := u.oldBytes.filter fun x => !bs.any fun b => b.1 == x.1
        oldCls := u.oldCls.filter fun x => !bs.any fun b => 2048 * n + b.1 / 8 == x.1 }
  | _ => u

/-- The writes of a word are noted at an MFWD in progress at the core (R284). -/
def Core.track (wid : Nat) (ws : List RegWrite) (c : Core) : Core :=
  match c.stream with
  | some u => if u.mfwd then { c with stream := some (ws.foldl (StreamUse.track c wid) u) } else c
  | none => c

/-- A REGISTER_WRITE_BACK without an accumulator read (R4, R83, R131, R192, R224): the bound check and the event counts
come first; a trap of either holds the updates; of the updates, those that another word's result of this cycle names as well are
carried out after the cycle's reads, in issue order. -/
def State.writeRegs (s : State) (w : WriteBack) : State :=
  let (ws, hits, tr) := if w.late || w.bound.isNone then (w.writes, 0, false) else s.core.boundWrites w.writes
  let (s, marks) := s.countHere { w.ev with bnd := w.ev.bnd + hits }
  let held := { w with writes := ws, ev := {}, late := true }
  if tr || (w.hitTrap && !w.late && decide (0 < w.ev.bnd)) then (s.add { s.cur with work := .ev (.registerWriteBack held) }).trapBack 9 w.nth
  else if 0 < marks then
    let (s, marks) := s.countRest marks
    (s.add { s.cur with work := .ev (.registerWriteBack held) }).trapBack 0x0A w.nth (some marks)
  else
    let wait := if s.cur.rank < 21 then ws.filter (s.conflicts w.wid) else []
    let now := ws.filter fun x => !wait.contains x
    let s := if wait.isEmpty then s else s.add { s.cur with rank := 21, work := .ev (.registerWriteBack { held with writes := wait }) }
    if now.isEmpty then s
    else
      let held := { held with writes := now }
      applyWrites now ((s.keepUndo held).here fun c => let c := c.track w.wid now; if w.acc then c.keepOld s.gcc now else c)

end Sys2Proof.Machine
end

