-- ==== Sys2Proof/Machine/Operands.lean ====
section
/-! DEFINITION. The operand forms and value functions the instruction families share: integer width types (R198, R203 to
R209), local-store element access (R211 to R215), and the frame every word of a column runs in (R59, R60). -/

namespace Sys2Proof.Machine

open Sys2Proof

/-- The outcome of a meaning. -/
abbrev Out := Host.Outcome State Fault Refusal

/-- A core word that is not enabled changes nothing (R59). -/
def coreWord (h : Hdr) (f : State → State) (s : State) : State := if s.core.enabled h then f s else s

/-- An S word that is not enabled changes nothing (R59). -/
def seqWord (h : Hdr) (f : State → State) (s : State) : State := if s.row.enabled h then f s else s

/-! ## Width types -/

/-- The operation width of a TY code (R198). -/
def tyWidth (ty : Nat) : Nat := if ty = 20 || ty = 21 then 32 else 64

/-- An operand read as a signed value of the width (R203). -/
def sOf (ty : Nat) (x : Word) : Int := signedOf x.toNat (tyWidth ty)

/-- An operand read as an unsigned value of the width (R203). -/
def uOf (ty : Nat) (x : Word) : Nat := x.toNat % 2 ^ tyWidth ty

/-- fin of R203: the value brought to 64 bits. -/
def fin (ty : Nat) (v : Int) : Word :=
  if ty = 21 then BitVec.ofNat 64 (wrapTo 32 v)
  else if ty = 20 then BitVec.ofInt 64 (signedOf (wrapTo 32 v) 32)
  else BitVec.ofNat 64 (wrapTo 64 v)

/-- The clamp of R204. -/
def satClamp (ty : Nat) (v : Int) : Int :=
  if ty = 21 then clampInt 0 (2 ^ 32 - 1) v
  else clampInt (-(2 ^ (tyWidth ty - 1))) (2 ^ (tyWidth ty - 1) - 1) v

/-- A signed two-operand result, saturated on request (R203, R204). -/
def alu (ty : Nat) (sat : Bool) (g : Int → Int → Int) (x y : Word) : Word :=
  if sat then fin ty (satClamp ty (if ty = 21 then g (uOf ty x) (uOf ty y) else g (sOf ty x) (sOf ty y)))
  else fin ty (g (sOf ty x) (sOf ty y))

/-- An unsigned two-operand result (R203). -/
def aluU (ty : Nat) (g : Nat → Nat → Int) (x y : Word) : Word := fin ty (g (uOf ty x) (uOf ty y))

/-- MULH: the high half of the signed product (R203). -/
def mulhVal (x y : Word) : Word := fin 0 (sOf 0 x * sOf 0 y / 2 ^ 64)

/-- MULHU: the high half of the unsigned product (R203). -/
def mulhuVal (x y : Word) : Word := fin 0 ((uOf 0 x * uOf 0 y / 2 ^ 64 : Nat) : Int)

/-- Quotient and remainder of DIV and REM (R205). -/
def divS (ty : Nat) (x y : Word) : Int × Int :=
  let sx := sOf ty x
  let sy := sOf ty y
  if sy = 0 then (-1, sx)
  else if sx = -(2 ^ (tyWidth ty - 1)) ∧ sy = -1 then (sx, 0)
  else (Int.tdiv sx sy, Int.tmod sx sy)

/-- Quotient and remainder of DIVU and REMU (R205). -/
def divU (ty : Nat) (x y : Word) : Nat × Nat :=
  if uOf ty y = 0 then (2 ^ tyWidth ty - 1, uOf ty x) else (uOf ty x / uOf ty y, uOf ty x % uOf ty y)

/-- SHL (R203): the amount uses all 64 bits. -/
def shlVal (ty : Nat) (x y : Word) : Word :=
  if tyWidth ty ≤ y.toNat then 0 else fin ty (uOf ty x * 2 ^ y.toNat : Nat)

/-- SHR (R203). -/
def shrVal (ty : Nat) (x y : Word) : Word :=
  if tyWidth ty ≤ y.toNat then 0 else fin ty (uOf ty x / 2 ^ y.toNat : Nat)

/-- SRA (R203). -/
def sraVal (ty : Nat) (x y : Word) : Word := fin ty (sOf ty x / 2 ^ min y.toNat (tyWidth ty - 1))

/-- ROTL (R203). -/
def rotlVal (ty : Nat) (x y : Word) : Word :=
  let w := tyWidth ty
  let n := y.toNat % w
  fin ty (uOf ty x * 2 ^ n % 2 ^ w + uOf ty x / 2 ^ (w - n) : Nat)

/-- CMP at the width of TY (R206). -/
def cmpVal (ty cnd : Nat) (x y : Word) : Bool := icmp (Cond.ofCode (BitVec.ofNat 4 cnd)) (tyWidth ty) (uOf ty x) (uOf ty y)

/-- A two-input look-up (R206, R237). -/
def lutVal (lut : Nat) (a b : Bool) : Bool := bitOf lut (2 * a.toNat + b.toNat)

/-- Leading zero bits of the low `w` bits (R207). -/
def clzOf (w x : Nat) : Nat := if x % 2 ^ w = 0 then w else w - 1 - Nat.log2 (x % 2 ^ w)

/-- One bits of the low `w` bits (R207). -/
def popOf (w x : Nat) : Nat := ((List.range w).filter (bitOf x)).length

/-- The low `w` bits reversed (R207). -/
def revOf (w x : Nat) : Nat := (List.range w).foldl (fun n i => n + if bitOf x i then 2 ^ (w - 1 - i) else 0) 0

/-- BFX (R208). -/
def bfxVal (ty pos len : Nat) (x : Word) : Word :=
  if ty = 22 then BitVec.ofInt 64 (signedOf (bitsOf x.toNat pos len) len) else BitVec.ofNat 64 (bitsOf x.toNat pos len)

/-- BFI (R208). -/
def bfiVal (pos len : Nat) (x y : Word) : Word :=
  BitVec.ofNat 64 (x.toNat - bitsOf x.toNat pos len * 2 ^ pos + y.toNat % 2 ^ len * 2 ^ pos)

/-- ADDSH (R203). -/
def addshVal (sh : Nat) (x y : Word) : Word := x + BitVec.ofNat 64 (y.toNat * 2 ^ sh)

/-- ADDI (R204). -/
def addiVal (sat : Bool) (imm : BitVec 32) (x : Word) : Word := alu 0 sat (· + ·) x (imm.signExtend 64)

/-- MOVI (R209). -/
def moviVal (zx : Bool) (imm : BitVec 32) : Word := if zx then imm.zeroExtend 64 else imm.signExtend 64

/-- MOVHI (R209). -/
def movhiVal (imm : BitVec 32) (x : Word) : Word := imm ++ x.truncate 32

/-! ## Column-A words -/

/-- A column-A word on two 64-bit operands (R203). -/
def aluWord (h : Hdr) (f : RRR) (lat : Nat) (g : Word → Word → Word) : State → State :=
  coreWord h fun s => s.writeBack lat [.a f.d.toNat (g (s.core.ra f.a.toNat) (s.opB f))]

/-- A column-A word on one 64-bit operand. -/
def aluWord1 (h : Hdr) (f : RRR) (g : Word → Word) : State → State :=
  coreWord h fun s => s.writeBack 1 [.a f.d.toNat (g (s.core.ra f.a.toNat))]

/-- A column-A word with an immediate (R200). -/
def aluWordI (h : Hdr) (f : RRI) (g : Word → Word) : State → State :=
  coreWord h fun s => s.writeBack 1 [.a f.d.toNat (g (s.core.ra f.a.toNat))]

/-! ## Uniform words (R177) -/

/-- A k operand of an S word. -/
def State.k (s : State) (n : BitVec 7) : Word := s.row.rk s.row.handler n.toNat

/-- A q operand of an S word, coded 96 to 103. -/
def State.q (s : State) (n : BitVec 7) : Bool := s.row.rq s.row.handler (n.toNat - 96)

/-- A uniform word on two operands; SAT is AUX[12] (R177). -/
def uniWord (h : Hdr) (f : SRR) (lat : Nat) (g : Word → Word → Word) : State → State :=
  seqWord h fun s => s.writeSeq lat [.k s.row.handler f.d.toNat (g (s.k f.a) (s.k f.b))]

/-- A uniform word with an immediate (R177). -/
def uniWordI (h : Hdr) (f : SRI) (g : Word → Word) : State → State :=
  seqWord h fun s => s.writeSeq 1 [.k s.row.handler f.d.toNat (g (s.k f.a))]

/-! ## Scalar access to the local store -/

/-- The bytes of an element type (R201). -/
def tyBytes (ty : Nat) : Nat :=
  if ty = 16 || ty = 17 then 1 else if ty = 18 || ty = 19 then 2 else if ty = 20 || ty = 21 then 4 else 8

/-- The type extends its sign on a load (R212). -/
def tySigned (ty : Nat) : Bool := ty == 16 || ty == 18 || ty == 20

/-- Data brought to 64 bits (R212). -/
def extendData (ty x : Nat) : Word :=
  if tySigned ty then BitVec.ofInt 64 (signedOf x (8 * tyBytes ty)) else BitVec.ofNat 64 x

/-- The checks of R211 in their order: range 0x0, alignment 0x1, bank 0x2. -/
def State.lsCheck (s : State) (ea n : Nat) : Option Nat :=
  if !lsIn ea n then some 0
  else if ea % n ≠ 0 then some 1
  else if s.core.portFails s.gcc [ea / 64] then some 2
  else none

/-- Fix this cycle's core-port access (R137). -/
def State.usePort (s : State) (ws : List Nat) : State := s.here fun c => c.portAdd s.gcc s.gcc ws

/-- A core-port write at the end of this cycle, in issue order (R138); a trap of a later word of the cycle does not take
it back (R137). -/
def State.storeNow (s : State) (bs : List (Nat × Byte)) (nibs : List (Nat × Nat) := []) : State :=
  (s.add { s.cur with gang := true, due := s.gcc, rank := 30, ord := s.next, part := .core, urgent := true, work := .cont (.lsWrite bs nibs) }).fresh

/-- Corrected reads are counted in HCORR (R141, R440). -/
def State.countCorrected (s : State) (as : List Nat) : State :=
  let n := s.core.corrected as
  if n = 0 then s else s.countCorr s.hcorrKey n 0

/-- Consume poison at issue (R141, R143, R216): the words touched that were uncorrectable are rewritten as poisoned, corrected ones
are counted, and the trap stops the core at the word. -/
def State.consumePoison (s : State) (as : List Nat) : State :=
  (((s.countCorrected as).here fun c => c.poisonUncorrectable as).trapWord 8 0).markPoison

/-- The addresses of a run of bytes. -/
def addrs (ea n : Nat) : List Nat := (List.range n).map (ea + ·)

/-- A read of a core's local store by an engine (R141, R143): corrected words are counted and uncorrectable ones rewritten as
poisoned, without a trap. -/
def State.engineReadAt (r c : Fin 8) (as : List Nat) (s : State) : State :=
  let n := (s.coreAt r c).corrected as
  let s := if (s.coreAt r c).anyBad as then s.modCore r c fun k => k.poisonUncorrectable as else s
  if n = 0 then s else s.countCorr (9 * s.rows[r].prow + (s.coreAt r c).pcol) n 0

/-- A read of the present core's local store by an engine. -/
def State.engineRead (as : List Nat) (s : State) : State := s.engineReadAt s.cur.row s.cur.core as

/-- The bytes of a number paired with their addresses (R6). -/
def bytesAt (ea n x : Nat) : List (Nat × Byte) := (addrs ea n).zip (leBytes n x)

/-- A word of column A that reads `n` bytes at its address: the checks of R211, then poison (R216), then `k` of the bytes'
value. -/
def lsRead (ea n : Nat) (k : Nat → State → State) (s : State) : State :=
  match s.lsCheck ea n with
  | some d => s.trapWord 0x0F d
  | none =>
    if s.core.anyBad [ea] then (s.usePort [ea / 64]).countPoison.consumePoison [ea]
    else k (Memory.nat s.core.ls ea n) ((s.usePort [ea / 64]).countCorrected [ea])

end Sys2Proof.Machine
end

