-- ==== Sys2Proof/Machine/Ports.lean ====
section
/-! DEFINITION. The optical and electrical ports as the traffic of the package meets them (14_optics_fabric.md): the job map and the
ports of a module (R407, R408), and what a scale-up port sends, holds back, seals and resends (R412, R420 to R424). -/

namespace Sys2Proof.Machine

open Sys2Proof

/-! ## Places -/

/-- A memory port. -/
def State.port (s : State) (p : Nat) : MemPort := Sparse.get {} s.pkg.ports p

/-- Change a memory port. -/
def State.modPort (s : State) (p : Nat) (f : MemPort → MemPort) : State :=
  s.modPkg fun k => { k with ports := Sparse.set {} k.ports p (f (s.port p)) }

/-- A scale-up port. -/
def State.suPort (s : State) (p : Nat) : SuPort := Sparse.get {} s.pkg.su p

/-- Change a scale-up port. -/
def State.modSu (s : State) (p : Nat) (f : SuPort → SuPort) : State :=
  s.modPkg fun k => { k with su := Sparse.set {} k.su p (f (s.suPort p)) }

/-! ## Memory ports (R407, R408) -/

/-- The port on which the 64-byte sector at a module address travels (R407). -/
def State.sectorPort (s : State) (m a : Nat) : Option Nat :=
  let ps := s.portsOf m
  ps[(a / 64) % ps.length]?

/-- The flit slot of a physical row in a round (R408): never used when the row is retired. What its slots carry is timing: log entry 150. -/
def State.flitSlot (s : State) (prow : Nat) : Option Nat :=
  if bitOf s.pkg.boot.prrow prow then none else some prow

/-- The mark of a schedule's stall for want of a port toward a module: no transfer has this number. -/
def portMark (m : Nat) : Nat := 2 ^ 64 + m

/-! ## Scale-up ports (R412, R418 to R424) -/

/-- An optical scale-up port (R418). -/
def suOptical (p : Nat) : Bool := (decide (32 ≤ p) && decide (p < 72)) || (decide (104 ≤ p) && decide (p < 144))

/-- The bit of the encryption policy that belongs to an optical port (R433). -/
def policyBit (p : Nat) : Nat := if p < 72 then p - 32 else p - 64

/-- The port is encrypted (R423). -/
def suEncrypted (p : Nat) : Bool := suOptical p && Config.encPolicy.getLsbD (policyBit p)

/-- The port takes new flits (R420, R421): log entry 124 for an encrypted port without a key. -/
def SuPort.takes (p : SuPort) (n : Nat) : Bool := p.up && !p.qreq && !p.quar && (!suEncrypted n || Sparse.get false p.valid p.txs)

/-- The flits of a put piece or a beat (R412): the transfer's number, the first byte, 64 bytes of payload. -/
def Sent.flits : Sent → List (Nat × Nat × List Byte)
  | .put p _ _ _ => (List.range (ceilDiv p.bytes.length 64)).map fun i => (p.id, 64 * i, (p.bytes.drop (64 * i)).take 64)
  | .beat m _ _ => [(m.id, 0, m.beat.bytes)]
  | _ => []

/-- The next flit of a port, sealed where the port is encrypted (R423, R424): the IV is the port number and the sequence number, the
selector names the slot of TXS. -/
def SuPort.flit (p : SuPort) (n : Nat) (x : Nat × Nat × List Byte) : Flit :=
  if suEncrypted n then
    let c := Config.gcm (Sparse.get 0 p.keys p.txs) (BitVec.ofNat 96 (n * 2 ^ 64 + p.seq)) x.2.2
    ⟨p.seq, x.1, x.2.1, some p.txs, c.1, c.2⟩
  else ⟨p.seq, x.1, x.2.1, none, x.2.2, 0⟩

/-- A key slot is cleared: s of the transmitter, 2 + s of the receiver. -/
def SuPort.clearKey (p : SuPort) (k : Nat) : SuPort := { p with valid := Sparse.set false p.valid k false, keys := Sparse.set 0 p.keys k 0 }

/-- The transmitter's old key slot is cleared once no flit under it is left in the replay buffer, which flits leave when they are
acknowledged (R419, R424; log entry 95). -/
def SuPort.settle (p : SuPort) : SuPort :=
  if p.old && !p.buf.any fun f => f.slot == some (1 - p.txs) then { p.clearKey (1 - p.txs) with old := false } else p

/-- A flit goes out and into the replay buffer, which keeps 1,024 (R412, R419). -/
def SuPort.push (p : SuPort) (f : Flit) : SuPort :=
  ({ p with seq := (p.seq + 1) % 2 ^ 64, buf := (p.buf ++ [f]).drop (p.buf.length + 1 - 1024) } : SuPort).settle

/-- A put piece or beat goes out on a port. -/
def State.transmit (n : Nat) (x : Sent) (s : State) : State :=
  forEach x.flits (fun b s => let f := (s.suPort n).flit n b; (s.modSu n fun p => p.push f).send (.flit n f)) (s.send x)

/-- A put piece or beat comes to a port (R420, R421): it goes out, or waits in the egress buffer while the port takes nothing. -/
def State.emit (n : Nat) (x : Sent) (s : State) : State :=
  if (s.suPort n).takes n then s.transmit n x else s.modSu n fun p => { p with egress := p.egress ++ [x] }

/-- What waits for a port goes out once the port takes flits again (R420). -/
def State.flushPort (n : Nat) (s : State) : State :=
  if (s.suPort n).takes n then forEach (s.suPort n).egress (fun x s => s.transmit n x) (s.modSu n fun p => { p with egress := [] }) else s

/-- Flits of a transfer that the replay buffer still holds go out again as they were sealed (R412, R424). -/
def State.resend (n id ofs : Nat) (s : State) : State :=
  forEach ((s.suPort n).buf.filter fun f => f.id == id && f.ofs == ofs) (fun f s => s.send (.flit n f)) s

/-- What has come over a scale-up port is delivered and forwarded (R421): not over a quarantined port. -/
def State.opens (s : State) (via : Option (Nat × Nat)) : Bool :=
  match via with
  | none => true
  | some (n, _) => !(s.suPort n).quar

/-- The payloads of the flits that carry some bytes (R412). -/
def flitsOf (bs : List Byte) : List (List Byte) := (List.range (ceilDiv bs.length 64)).map fun i => (bs.drop (64 * i)).take 64

/-- The tag that a flit has come with, and its sequence number, are those of its payload under the receiver's key of the slot that its
selector names (R423, R424). The port number in the IV is the sender's: log entry 138. -/
def SuPort.tagHolds (p : SuPort) (slot : Nat) (x : Nat × BitVec 128) (b : List Byte) : Bool :=
  Sparse.get false p.valid (2 + slot) && (Config.gcm (Sparse.get 0 p.keys (2 + slot)) (BitVec.ofNat 96 (p.pport * 2 ^ 64 + x.1)) b).2 == x.2

/-- The flits of some bytes whose tag check fails at the port they have come over (R423): each fails its replays too (R412). -/
def State.badFlits (s : State) (via : Option (Nat × Nat)) (seals : List (Nat × BitVec 128)) (bs : List Byte) : List Nat :=
  match via with
  | none => []
  | some (n, slot) =>
    if !suEncrypted n then []
    else (List.range (flitsOf bs).length).filter fun i => !(seals[i]?.any fun x => (s.suPort n).tagHolds slot x ((flitsOf bs).getD i []))

/-- The 8-byte words of the flits that a tag check fails: they come as transit poison (R320, R412). -/
def State.tagPoison (s : State) (via : Option (Nat × Nat)) (seals : List (Nat × BitVec 128)) (bs : List Byte) : List Nat :=
  (s.badFlits via seals bs).flatMap fun i => (List.range 8).map (8 * i + ·)

/-- A tag that fails costs the four replays of its flit (R412, R419). -/
def State.countTags (s : State) (via : Option (Nat × Nat)) (seals : List (Nat × BitVec 128)) (bs : List Byte) : State :=
  match via, s.badFlits via seals bs with
  | some (n, _), _ :: is => s.modSu n fun p => { p with replays := min (p.replays + 4 * (is.length + 1)) 0xFFFFFFFF }
  | _, _ => s

/-- Traffic that a quarantined port keeps is late, and its path reports no bound (R422, R445). -/
def State.keptLate (s : State) (via : Option (Nat × Nat)) (id : Nat) : State :=
  if s.opens via || s.task.lates.any fun l => l.id == id then s else s.addDomain s.dcc 0 (.cont (.keptLate ⟨id, s.gcc, none⟩))

end Sys2Proof.Machine
end

