-- ==== Sys2Proof/Machine/Plans.lean ====
section
/-! DEFINITION. The shape of a collective plan's entries (R347 to R349, R358): which apply to a member, the cycles at which
they read and write, and the local-store bytes they touch. Shared by the exchange dies and the link engine (R363). -/

namespace Sys2Proof.Machine

open Sys2Proof

/-- The entry applies to a member rank (R347). -/
def planApplies (e : PlanEntry) (rank : Nat) : Bool := bitOf e.memb 15 || e.memb % 8192 == rank

/-- The flags of an entry (R347). -/
def planChkA (e : PlanEntry) : Bool := bitOf e.flags 0
def planChkB (e : PlanEntry) : Bool := bitOf e.flags 1
def planLsa (e : PlanEntry) : Bool := bitOf e.flags 2
def planRed (e : PlanEntry) : Bool := bitOf e.flags 3
def planBen (e : PlanEntry) : Bool := bitOf e.flags 4
def planCvt (e : PlanEntry) : Bool := bitOf e.flags 5
def planWide (e : PlanEntry) : Bool := bitOf e.flags 6

/-- LOCAL of the RTE field (R347). -/
def planLocal (e : PlanEntry) : Bool := bitOf e.rte 15

/-- An LS reference: row, column, base entry, offset in bytes (R349). -/
def lsRef (x : Nat) : Nat × Nat × Nat × Nat := (bitsOf x 29 3, bitsOf x 26 3, bitsOf x 22 4, bitsOf x 0 19 * 64)

/-- The LS reference of an entry, and the bytes of one beat there (R349, R358): the A of a SEND with LSA, the D of a
DELIVER. -/
def planLs (e : PlanEntry) : Option (Nat × Nat) :=
  if e.kind = 2 && planLsa e then some (e.a, if planWide e then 32 else 64)
  else if e.kind = 5 then some (e.d, if planCvt e then 32 else 64)
  else none

/-- The entries of a plan that apply to a member, with their indices. -/
def Plan.mine (p : Plan) (rank : Nat) : List (Nat × PlanEntry) :=
  ((List.range p.entries.length).zip p.entries).filter fun (_, e) => planApplies e rank

/-- The captured base value of a run for an LS reference (R355). -/
def Run.base (u : Run) (row col b : Nat) : Word :=
  ((u.bases.find? fun (r, c, n, _) => r == row && c == col && n == b).map fun (_, _, _, x) => x).getD 0

/-- The local-store reads of a run: row, column, first cycle, beats, address, bytes of a beat (R358). -/
def Run.lsReads (u : Run) (es : List (Nat × PlanEntry)) : List (Nat × Nat × Nat × Nat × Nat × Nat) :=
  es.filterMap fun (_, e) =>
    if e.kind = 2 && planLsa e then
      let (r, c, b, o) := lsRef e.a
      some (r, c, u.p0 + e.off, e.nb + 1, (u.base r c b).toNat + o, if planWide e then 32 else 64)
    else none

/-- The plan of an index resident in a task. -/
def Task.plan? (t : Task) (n : Nat) : Option Plan := t.plans.find? fun p => p.index == n

/-- Some active run reads the local store of (row index, column) in the cycles lo .. hi (R363). -/
def Task.runReads (t : Task) (row col lo hi : Nat) : Bool :=
  t.runs.any fun u =>
    match t.plan? u.plan with
    | none => false
    | some p => (u.lsReads (p.mine t.rank)).any fun (r, c, first, n, _, _) =>
        r == row && c == col && decide (first ≤ hi) && decide (lo < first + n)

end Sys2Proof.Machine
end

