-- ==== Sys2Proof/Machine/Links.lean ====
section
/-! DEFINITION. Column X without the collective words (08_links.md): mesh sends and receives, put windows, fabric puts,
and their arrivals and deliveries. -/

namespace Sys2Proof.Machine

open Sys2Proof

/-! ## Ports and receive buffers -/

/-- The neighbour across a mesh port, none where the port is closed (R245, R246, R16): xe 0, xw 1, xn 2, xs 3. -/
def State.neighbour (s : State) (r c : Fin 8) (port : Nat) : Option (Fin 8 × Fin 8) :=
  let t := s.rows[r].task
  if port = 0 then (if c.1 < 7 then some (r, c + 1) else none)
  else if port = 1 then (if 0 < c.1 then some (r, c - 1) else none)
  else if port = 2 then
    (if 0 < r.1 && s.rows[r - 1].task == t && !s.rows[r - 1].gapBelow then some (r - 1, c) else none)
  else if port = 3 then
    (if r.1 < 7 && s.rows[r + 1].task == t && !s.rows[r].gapBelow then some (r + 1, c) else none)
  else none

/-- The buffer that data sent through a port fills (R247). -/
def opposite (port : Nat) : Nat := if port = 0 then 1 else if port = 1 then 0 else if port = 2 then 3 else 2

/-- The place of a port among the link deliveries of a cycle: xw, xe, xn, xs, xf (R138). -/
def portPlace (port : Nat) : Nat := if port = 1 then 0 else if port = 0 then 1 else port

/-- A receive buffer. -/
def Core.rxb (c : Core) (port : Nat) : RxBuf := Sparse.get {} c.rx port

/-- Change a receive buffer. -/
def Core.modRx (c : Core) (port : Nat) (f : RxBuf → RxBuf) : Core := { c with rx := Sparse.set {} c.rx port (f (c.rxb port)) }

/-- Put work of another core on the agenda. -/
def State.addAt (s : State) (r c : Fin 8) (dt rank ord : Nat) (w : Work) : State :=
  s.add { s.cur with gang := true, due := s.gcc + dt, rank := rank, ord := ord, row := r, core := c, part := .core, urgent := false, args := [], work := w }

/-- The 512 bytes of a v register, lane 0 first (R253). -/
def Core.vBytes (c : Core) (r : Nat) : List Byte := (List.range 128).flatMap fun i => leBytes 4 (c.rv r i).toNat

/-- The lanes of 512 bytes (R254). -/
def lanesOf (bs : List Byte) : List (Nat × Lane) :=
  (List.range 128).map fun i => (i, BitVec.ofNat 32 (leNat ((bs.drop (4 * i)).take 4)))

/-- The entries a SEND carries (R253). -/
def State.sendEntries (s : State) (f : RRR) : List MeshEntry :=
  if f.aux.getLsbD 8 then [⟨leBytes 8 (s.core.ra f.a.toNat).toNat ++ List.replicate 504 0, []⟩]
  else (List.range (f.aux.toNat % 4 + 1)).map fun j => ⟨s.core.vBytes (f.a.toNat + j), []⟩

/-- SEND (R246, R248, R253). -/
def execSend (h : Hdr) (f : RRR) (s : State) : Out :=
  .next (coreWord h (fun s =>
    let port := f.d.toNat
    match s.neighbour s.cur.row s.cur.core port with
    | none => s.trapWord 5 2
    | some (r, c) =>
      let es := s.sendEntries f
      let q := opposite port
      if 128 < ((s.coreAt r c).rxb q).occupied + es.length then s.trapWord 5 1
      else
        let s := s.modCore r c fun k => k.modRx q fun b => { b with occupied := b.occupied + es.length }
        forEach es (fun e s => (s.addAt r c 2 2 s.next (.ev (.meshEntryArrival q e []))).fresh) s) s)

/-- RECV (R246, R249, R254): an entry with a poisoned word is consumed at issue. -/
def execRecv (h : Hdr) (f : RRR) (s : State) : Out :=
  .next (coreWord h (fun s =>
    let port := f.a.toNat
    let n := f.aux.toNat % 4 + 1
    match s.neighbour s.cur.row s.cur.core port with
    | none => s.trapWord 5 2
    | some _ =>
      let es := (s.core.rxb port).entries.take n
      if es.length < n then s.trapWord 5 0
      else if es.any fun e => !e.poison.isEmpty then s.countPoison.trapWord 8 0
      else
        let s := s.here fun c => c.modRx port fun b => { b with entries := b.entries.drop n }
        let s := s.addCore 4 2 0 (.cont (.rxFree port n))
        let ws := ((List.range n).zip es).map fun (j, e) =>
          if f.aux.getLsbD 8 then RegWrite.a f.d.toNat (BitVec.ofNat 64 (leNat (e.bytes.take 8)))
          else .v (f.d.toNat + j) (lanesOf e.bytes)
        s.writeBack 2 ws) s)

/-- SENDT (R255): the checks in order, then piece i is read at t + i. -/
def execSendt (h : Hdr) (f : RRR) (s : State) : Out :=
  .next (coreWord h (fun s =>
    let port := f.d.toNat
    let x := (s.opB f).toNat
    let u := f.aux.toNat % 128 + 1
    let q := opposite port
    if !lsIn x (512 * u) then s.trapWord 0x0F 0
    else if x % 64 ≠ 0 then s.trapWord 0x0F 1
    else match s.neighbour s.cur.row s.cur.core port with
      | none => s.trapWord 5 2
      | some (r, c) =>
        let k : EngClaim := ⟨s.gcc, x, 512 * u, 512, 0⟩
        if 128 < ((s.coreAt r c).rxb q).occupied + u then s.trapWord 5 1
        else if s.core.engFails k then s.trapWord 0x0F 4
        else
          let s := s.modCore r c fun k => k.modRx q fun b => { b with occupied := b.occupied + u }
          let s := s.here fun c => c.engAdd s.gcc k
          s.add { s.cur with gang := true, due := s.gcc, rank := 20, part := .core, urgent := true, work := .cont (.sendtRead port x 0 u) }) s)

/-- The 8-byte words of a run of bytes that are poisoned or uncorrectable, counted from its start (R143). -/
def Core.poisonedWords (c : Core) (ea n : Nat) : List Nat := (List.range ((n + 7) / 8)).filter fun j => (c.cls (ea + 8 * j)).bad

/-- One piece of a SENDT is read and sent (R255). -/
def State.sendtPiece (s : State) (port x i u : Nat) : State :=
  let e : MeshEntry := ⟨Memory.bytes s.core.ls (x + 512 * i) 512, s.core.poisonedWords (x + 512 * i) 512⟩
  let s := s.engineRead (addrs (x + 512 * i) 512)
  let ann := if i = 0 then (List.range (u - 1)).map (1 + ·) else [0]
  let s := match s.neighbour s.cur.row s.cur.core port with
    | none => s
    | some (r, c) => (s.addAt r c 2 2 s.next (.ev (.meshEntryArrival (opposite port) e ann))).fresh
  if i + 1 < u then s.addCore 1 20 0 (.cont (.sendtRead port x (i + 1) u)) else s

/-- MESH_ENTRY_ARRIVAL (R247, R256, R257): the entry joins the buffer. The first piece of a SENDT announces the cycles of the
others, each counted from its own; a later piece, which carries the single count 0, takes the oldest announcement away. -/
def execMeshEntryArrival (port : Nat) (e : MeshEntry) (announced : List Nat) (s : State) : Out :=
  .next (s.here fun c => c.modRx port fun b =>
    { b with
      entries := b.entries ++ [e]
      announced := if announced = [0] then b.announced.drop 1 else b.announced ++ announced.map (s.gcc + ·) })

/-- Put an arrival among others in ascending cycle, those that no SENDT announces first (log entry 156). -/
def arrivalInsert (x : Nat × Bool) : List (Nat × Bool) → List (Nat × Bool)
  | [] => [x]
  | y :: ys => if x.1 < y.1 || (x.1 == y.1 && !x.2) then x :: y :: ys else y :: arrivalInsert x ys

/-- The entries on their way to a receive buffer of the present core, in the order of their arrival: cycle, and whether a SENDT has
announced them here (R255, R256). -/
def State.arrivals (s : State) (port : Nat) : List (Nat × Bool) :=
  let others := s.agenda.filterMap fun e => match e.work with
    | .ev (.meshEntryArrival p _ ann) =>
      if e.gang && e.row == s.cur.row && e.core == s.cur.core && p == port && ann != [0] then some (e.due, false) else none
    | _ => none
  (((s.core.rxb port).announced.map fun y => (y, true)) ++ others).foldl (fun out x => arrivalInsert x out) []

/-- A piece announced for local cycle `y` does not come before the present core takes it at `take` (R182): the sending core has stopped
before the piece's read, and this core has not stopped at the take. -/
def State.senderHolds (s : State) (port y take : Nat) : Bool :=
  match s.neighbour s.cur.row s.cur.core port with
  | some (r, c) => atOrAfter (s.coreAt r c).sigma (y - 2) && !atOrAfter s.core.sigma take
  | none => false

/-- Every entry of a RECVT, counted in the order of arrival, is usable, or announced and in time (R182, R256). Log entry 122: an entry that
is sent only after the RECVT issues is not seen by its check. -/
def State.recvtReady (s : State) (port u : Nat) : Bool :=
  let n := (s.core.rxb port).entries.length
  let xs := s.arrivals port
  (List.range u).all fun i =>
    decide (i < n) ||
      match xs[i - n]? with
      | some (y, ann) => ann && decide (y ≤ s.gcc + i) && !s.senderHolds port y (s.gcc + i)
      | none => false

/-- RECVT (R248, R256): the places of all its entries become free 4 cycles on. -/
def execRecvt (h : Hdr) (f : RRR) (s : State) : Out :=
  .next (coreWord h (fun s =>
    let port := f.a.toNat
    let x := (s.opB f).toNat
    let u := f.aux.toNat % 128 + 1
    let k : EngClaim := ⟨s.gcc, x, 512 * u, 512, 0⟩
    if !lsIn x (512 * u) then s.trapWord 0x0F 0
    else if x % 64 ≠ 0 then s.trapWord 0x0F 1
    else if (s.neighbour s.cur.row s.cur.core port).isNone then s.trapWord 5 2
    else if !s.recvtReady port u then s.trapWord 5 0
    else if s.core.engFails k then s.trapWord 0x0F 4
    else
      let s := (s.here fun c => c.engAdd s.gcc k).addCore 4 2 0 (.cont (.rxFree port u))
      let s := s.add { s.cur with gang := true, due := s.gcc, rank := 16, part := .core, urgent := true, work := .ev (.recvtEntryWrite port x) }
      forEach (List.range (u - 1)) (fun i s => s.addCore (i + 1) 6 0 (.ev (.recvtEntryWrite port (x + 512 * (i + 1))))) s) s)

/-- RECVT_ENTRY_WRITE (R256): the oldest entry is taken and written as a link delivery of its port. One that a stop of its sender after the
RECVT's issue keeps back is taken when it comes (R185; log entry 157). -/
def execRecvtEntryWrite (port addr : Nat) (s : State) : Out :=
  .next (match (s.core.rxb port).entries with
    | [] => s.addCore 1 6 0 (.ev (.recvtEntryWrite port addr))
    | e :: es =>
      let s := s.here fun c => c.modRx port fun b => { b with entries := es }
      s.add { s.cur with rank := 24 + portPlace port, work := .cont (.engWrite ((addrs addr 512).zip e.bytes) (e.poison.map fun j => addr + 8 * j)) })

/-! ## Barriers and landed poison -/

/-- `n` counted bytes arrive at a barrier (R305). -/
def Barrier.count (b : Barrier) (n : Nat) (psn src lost : Bool) : Barrier :=
  { b with
    pend := b.pend - n
    ovr := b.ovr || decide (b.pend < n)
    psn := b.psn || psn
    src := b.src || src
    lost := b.lost || lost }

/-- Count bytes at w[n] of a core. -/
def Core.countBar (c : Core) (w n : Nat) (psn src lost : Bool) : Core :=
  if n = 0 then c else { c with w := Sparse.set {} c.w w ((c.rw w).count n psn src lost) }

/-- Words made poisoned update the landed-poison record (R320); the first source-poisoned byte gives its module place. -/
def Core.landPoison (c : Core) (words : Nat) (src : Option (Nat × Nat)) : Core :=
  if words = 0 then c
  else
    let c' := { c with pcnt := min 65535 (c.pcnt + words) }
    match src with
    | some (m, a) => if c.psrc then c' else { c' with psrc := true, pmod := m, paddr := a }
    | none => c'

/-! ## Put windows and fabric puts -/

/-- FACC (R258, R259). -/
def execFacc (h : Hdr) (f : RRR) (s : State) : Out :=
  .next (coreWord h (fun s =>
    let base := (s.core.ra f.a.toNat).toNat
    let len := (s.opB f).toNat
    if base % 64 ≠ 0 || len % 64 ≠ 0 || len = 0 then s.trapWord 0x0F 1
    else if !lsIn base len then s.trapWord 0x0F 0
    else s.writeBack 1 [.window (f.aux.toNat % 4) base len (f.aux.getLsbD 8) f.c.toNat]) s)

/-- Fields of a route table entry (R263). -/
def routeVal (e : BitVec 128) : Bool := e.getLsbD 127
def routeRank (e : BitVec 128) : Nat := bitsOf e.toNat 112 13
def routeHops (e : BitVec 128) : Nat := bitsOf e.toNat 108 4
def routeLfix (e : BitVec 128) : Nat := bitsOf e.toNat 72 24
def routePort (e : BitVec 128) (hop : Nat) : Nat := bitsOf e.toNat (8 * hop) 8

/-- Fields of a put descriptor (R260). -/
def descRte (d : Word) : Nat := bitsOf d.toNat 52 12
def descWin (d : Word) : Nat := bitsOf d.toNat 50 2
def descRow (d : Word) : Nat := bitsOf d.toNat 47 3
def descCol (d : Word) : Nat := bitsOf d.toNat 44 3
def descOfs (d : Word) : Nat := bitsOf d.toNat 0 24

/-- The checks of R261 and R363 in order: TRAPC and detail. -/
def State.fputFault (s : State) (src n : Nat) (d : Word) : Option (Nat × Nat) :=
  let e := Sparse.get 0 s.task.routes (descRte d)
  if !routeVal e then some (6, 1)
  else if s.task.nrows ≤ descRow d then some (6, 2)
  else if bitsOf d.toNat 24 20 ≠ 0 || descOfs d % 64 ≠ 0 then some (6, 3)
  else if !lsIn src n then some (0x0F, 0)
  else if src % 64 ≠ 0 then some (0x0F, 1)
  else if s.task.runReads s.row.rowid s.cur.core.1 s.gcc (s.gcc + ceilDiv n 128 - 1) then some (0x12, 7)
  else if s.core.engFails ⟨s.gcc, src, n, 128, 0⟩ then some (0x0F, 4)
  else none

/-- The key of a core in a task's table of latest effects. -/
def coreKey (r c : Fin 8) : Nat := 8 * r.1 + c.1

/-- An operation of the present core has its last effect or completion at GCC `x` (R154). -/
def State.noteEffect (s : State) (x : Nat) : State :=
  s.hereTask fun t => { t with effects := t.effects ++ [(coreKey s.cur.row s.cur.core, s.gcc, x)] }

/-- FPUT (R261): L_route from the entry and the two core terms; piece k is read at t + k. -/
def execFput (h : Hdr) (f : RRR) (s : State) : Out :=
  .next (coreWord h (fun s =>
    let src := (s.core.ra f.a.toNat).toNat
    let n := 64 * (f.aux.toNat % 64 + 1)
    let d := s.opB f
    match s.fputFault src n d with
    | some (code, detail) => s.trapWord code detail
    | none =>
      let e := Sparse.get 0 s.task.routes (descRte d)
      let lat := routeLfix e + 2 * (7 - s.cur.core.1) + 2 * (7 - descCol d)
      let last := s.gcc + lat + ceilDiv n 128 - 1
      let s := (s.here fun c => c.engAdd s.gcc ⟨s.gcc, src, n, 128, 0⟩).noteEffect last
      let s := if routeRank e = s.task.rank then s else s.hereTask fun t => { t with aways := t.aways ++ [(coreKey s.cur.row s.cur.core, s.next, last)] }
      (s.add { s.cur with gang := true, due := s.gcc, rank := 20, part := .core, urgent := true,
                          work := .cont (.putRead src n 0 d e lat s.next) }).fresh) s)

/-- The row of the present task with a row index. -/
def State.rowOfId (s : State) (t : Slot) (id : Nat) : Option (Fin 8) := (s.rowsOf t).find? fun r => s.rows[r].rowid == id

/-- The place of a piece among those of its cycle (R262). -/
def pieceOrd (p : PutPiece) : Nat := ((p.rank * 8 + p.row) * 8 + p.col) * 2 ^ 64 + p.order

/-- A piece of an FPUT is read and sent (R261): to a core of this package, or out on the first port of its route. -/
def State.putPiece (s : State) (src n done : Nat) (d : Word) (e : BitVec 128) (lat order : Nat) : State :=
  let m := min 128 n
  let p : PutPiece := { rank := s.task.rank, row := s.row.rowid, col := s.cur.core.1, order := order, win := descWin d, ofs := descOfs d + done,
                        bytes := Memory.bytes s.core.ls src m, poison := s.core.poisonedWords src m, id := s.next,
                        drank := routeRank e, drow := descRow d, dcol := descCol d }
  let s := (s.engineRead (addrs src m)).fresh
  let s :=
    if routeRank e = s.task.rank then
      match s.rowOfId s.cur.slot (descRow d) with
      | some r => s.add { s.cur with gang := true, due := s.gcc + lat, rank := 28, ord := pieceOrd p, row := r, core := Fin.ofNat 8 (descCol d),
                                     part := .core, urgent := false, args := [], work := .ev (.putPieceDelivery p) }
      | none => s
    else s.emit (routePort e 0) (.put p (routeRank e) (routePort e 0) (s.gcc + lat))
  if m < n then
    s.addCore 1 20 0 (.cont (.putRead (src + m) (n - m) (done + m) d e lat order))
  else s

/-- The ingress pieces of this cycle so far at a core, and the bank words they used (R136, R262). -/
def Core.ingressNow (c : Core) (now : Nat) : Nat × List Nat := if c.ingressAt = now then (c.ingressPieces, c.ingressUse) else (0, [])

/-- A bank word cannot be written in this cycle: a scheduled access or an earlier ingress write uses another word of its
bank (R136). -/
def Core.bankBusy (c : Core) (now w : Nat) : Bool :=
  (c.eng.any fun k => (k.at now).any fun v => sameBank v w && v != w) || (c.ingressNow now).2.any fun v => sameBank v w && v != w

/-- Bytes of an ingress piece that have to wait for their bank (R136). -/
def Core.ingressWait (c : Core) (now : Nat) (bs : List (Nat × Byte)) : List Nat := (bankWords (bs.map Prod.fst)).filter (c.bankBusy now)

/-- An ingress piece is written (R136, R138, R142): its bytes at once, a held bank word occupying an entry of the ingress buffer of its
own until its bank is free (log entry 161). -/
def State.ingressWrite (s : State) (bs : List (Nat × Byte)) (psn : List Nat) (deliver : Bool) : State :=
  let now := s.gcc
  let wait := s.core.ingressWait now bs
  let held := wait.map fun w =>
    (⟨w, bs.filter (fun (a, _) => a / 64 = w), psn.filter (fun a => a / 64 = w), deliver⟩ : IngressWord)
  let fresh := s.core.ingress.isEmpty && !held.isEmpty
  let s := s.here fun c =>
    let (n, use) := c.ingressNow now
    { c.store bs psn with
      ingress := c.ingress ++ held, ingressAt := now, ingressPieces := n + 1,
      ingressUse := use ++ (bankWords (bs.map Prod.fst)).filter (fun w => !wait.contains w) }
  if fresh then s.addCore 1 32 0 (.ev .ingressBufferDrain) else s

/-- Number of free ingress entries for put pieces: 16 of the 64 are kept for DELIVER beats, whose words beyond those take the others
too (R136). -/
def Core.putRoom (c : Core) : Nat :=
  48 - (c.ingress.filter fun w => !w.deliver).length - ((c.ingress.filter fun w => w.deliver).length - 16)

/-- The number under which a snapshot is awaited that a stalled schedule holds (R336): its data come late, whatever the path says of
the transfer itself. -/
def snapMark (id : Nat) : Nat := 2 ^ 65 + id

/-- The data of an arriving transfer are marked absent at its delivery cycle, so it is delivered as transit poison
(R445). -/
def Task.absent (t : Task) (id : Nat) : Bool := t.lates.any fun l => (l.id == id || l.id == snapMark id) && decide (l.due ≤ t.gcc)

/-- All 8-byte words of `n` bytes. -/
def allWords (n : Nat) : List Nat := List.range ((n + 7) / 8)

/-- What has come over a scale-up port waits in the deliver-at buffer (R31) for its delivery cycle, at its place among the work of that
cycle; what comes over a quarantined port is kept there and is late from now on (R421, R422; log entry 152). -/
def State.intoBuffer (s : State) (rank ord : Nat) (part : Part) (via : Option (Nat × Nat)) (id : Nat) (i : Instr) : State :=
  let due := if s.cur.gang then s.cur.due else s.arg 0 s.gcc
  let s' := s.add { s.cur with gang := true, due := due, rank := rank, ord := ord, part := part, urgent := false, args := [], work := .ev i }
  if s.cur.gang || s.opens via then s' else s'.addDomain s.dcc 0 (.cont (.keptLate ⟨id, due, none⟩))

/-- A piece is delivered (R258, R261, R262, R320): the window in force maps the bytes; a fourth piece of the cycle, or one
that finds no room for its held words, is discarded and counts as lost. What a quarantined port keeps is absent and late (R422), and a flit
whose tag fails is poisoned (R423). -/
def State.deliverPiece (p : PutPiece) (s : State) : State :=
  let s := (s.countTags p.via p.seals p.bytes).keptLate p.via p.id
  let c := s.core
  let w := c.rwin p.win
  let n := p.bytes.length
  let bs := ((List.range n).map fun j => w.base + (p.ofs + j) % w.len).zip p.bytes
  let bad := if s.task.absent p.id || !s.opens p.via then allWords n else (p.poison ++ s.tagPoison p.via p.seals p.bytes).eraseDups
  let psn := bad.map fun j => w.base + (p.ofs + 8 * j) % w.len
  let wait := (c.ingressWait s.gcc bs).length
  if 3 ≤ (c.ingressNow s.gcc).1 || decide (c.putRoom < wait) then
    s.here fun c => let (k, use) := c.ingressNow s.gcc
      let c := { c with ingressAt := s.gcc, ingressPieces := k + 1, ingressUse := use }
      if w.ben then c.countBar w.w n false false true else c
  else
    (s.ingressWrite bs psn false).here fun c =>
      let c := c.landPoison bad.length none
      if w.ben then c.countBar w.w n (!bad.isEmpty) false false else c

/-- PUT_PIECE_DELIVERY (R31, R262): a piece comes over a port, or is delivered at its place among the pieces of its cycle. -/
def execPutPieceDelivery (p : PutPiece) (s : State) : Out :=
  .next (if s.cur.gang && s.cur.rank = 28 && s.cur.ord = pieceOrd p then s.deliverPiece p
    else s.intoBuffer 28 (pieceOrd p) .core p.via p.id (.putPieceDelivery p))

/-- INGRESS_BUFFER_DRAIN (R136): the oldest held word of each free bank is written to its bank; its bytes are already
visible. -/
def execIngressBufferDrain (s : State) : Out :=
  let keep := fun (c : Core) =>
    (c.ingress.foldl (fun (done, out) (w : IngressWord) =>
      if done.any (fun v => sameBank v w.word) || c.bankBusy s.gcc w.word || (c.ingressNow s.gcc).2.any (fun v => sameBank v w.word)
          || c.eng.any (fun k => (k.at s.gcc).any fun v => sameBank v w.word)
      then (done ++ [w.word], out ++ [w]) else (done ++ [w.word], out)) (([] : List Nat), ([] : List IngressWord))).2
  let s := s.here fun c => { c with ingress := keep c }
  .next (if s.core.ingress.isEmpty then s else s.addCore 1 32 0 (.ev .ingressBufferDrain))

end Sys2Proof.Machine
end

