-- ==== Sys2Proof/Machine/Fetch.lean ====
section
/-! DEFINITION. The clause dispatcher (02_encoding.md, R159 to R163): reading the stream, the checks of a clause, its start
in every core, and the issue of its words. -/

namespace Sys2Proof.Machine

open Sys2Proof

/-! ## Claims of columns M and X (R250, R278) -/

/-- The slots of a claimed resource in one cycle (R245, R251, R278): xe takes 4, every other one. -/
def claimCap (kind : Nat) : Nat := if kind = 0 then 4 else 1

/-- The claims of a word that issues at GCC `t` at logical column 0: its port's slots, the mesh budget (5) and the multiply
array (6). -/
def wordClaims (i : Instr) (t : Nat) : List ResClaim :=
  match i with
  | .send _ f => [⟨f.d.toNat, t, 1, f.aux.toNat % 4 + 1⟩]
  | .sendt _ f => [⟨f.d.toNat, t, f.aux.toNat % 128 + 1, 1⟩, ⟨5, t, f.aux.toNat % 128 + 1, 1⟩]
  | .recvt _ f => [⟨5, t, f.aux.toNat % 128 + 1, 1⟩]
  | .fput _ f => [⟨4, t, ceilDiv (f.aux.toNat % 64 + 1) 2, 1⟩]
  | .mma _ f => [⟨6, t, f.aux.toNat % 8 + 1, 1⟩]
  | .mmax _ f => [⟨6, t, f.aux.toNat % 8 + 1, 1⟩]
  | .mmas _ f => [⟨6, t, f.aux.toNat % 8 + 2, 1⟩, ⟨0, t, f.aux.toNat % 8 + 2, 4⟩]
  | .mfwd _ _ => [⟨0, t, 9, 4⟩]
  | _ => []

/-- The slots of `kind` claimed in a cycle. -/
def claimedAt (cs : List ResClaim) (kind y : Nat) : Nat :=
  ((cs.filter fun c => c.kind == kind && decide (c.first ≤ y) && decide (y < c.first + c.len)).map (·.slots)).foldl (· + ·) 0

/-- New claims exceed what a resource takes in some cycle. -/
def claimsFail (old new : List ResClaim) : Bool :=
  new.any fun c => (List.range c.len).any fun i => decide (claimCap c.kind < claimedAt (old ++ new) c.kind (c.first + i))

/-! ## Clauses as the dispatcher finds them -/

/-- A word names what its task's image does not hold: a PREPT record or a shape index (R160, R309). -/
def Task.lacks (t : Task) (c : Col) (w : Word) : Bool :=
  match c with
  | .s => opcOf w == 0x0C && decide ((sriOf w).imm.toNat < 256) && decide (t.lrecs.length ≤ (sriOf w).imm.toNat)
  | .f => opcOf w == 1 && !(rrrOf w).aux.getLsbD 8 && decide (t.shapes.length ≤ (rrrOf w).aux.toNat % 256)
  | _ => false

/-- The first fault of the words of a column (R81): a record or shape that the image lacks is out of range, which comes before a
modifier or a reserved bit. -/
def wordsFault (t : Task) (c : Col) : List Word → Option Nat
  | [] => none
  | w :: ws =>
    match decodeWord c w with
    | .error d => some (if (d == 1 || d == 3) && t.lacks c w then 2 else d)
    | .ok _ => if t.lacks c w then some 2 else wordsFault t c ws

/-- The fault of the clause at `a` (R54, R55, R81): its header first, where log entry 111 gives the order among several faults, then
its flags and its words. A clause inside which the stream ends is never delivered: its failed read is a trap of its own. -/
def Row.clauseFault (r : Row) (t : Task) (a : Nat) : Option Nat :=
  let w := r.at a
  let h := clauseHdrOf w
  let n := h.cnt.toNat + 1
  let ws := r.clauseWords a n
  match headerFault w with
  | some d => some d
  | none =>
    if r.slen < a + 1 + n then none
    else match flagFault w ws with
      | some d => some d
      | none => match Col.ofCls h.cls with
        | some c => wordsFault t c ws
        | none => none

/-- The claims of some words of a clause that starts at GCC `g`, each with its offset. -/
def wordsClaims (c : Col) (ws : List (Nat × Word)) (g : Nat) : List ResClaim :=
  ws.flatMap fun (o, w) =>
    match decodeWord c w with
    | .ok i => wordClaims i (g + o)
    | .error _ => []

/-- The claims of the words of a clause that starts at GCC `g`. -/
def clauseClaims (c : Col) (ws : List Word) (g : Nat) : List ResClaim := wordsClaims c ((wordOffsets ws 0).1.zip ws) g

/-- The column class of a clause as a key of the row's tables; a handler's S clauses have their own (R187). -/
def Clause.column (c : Clause) : Nat := if c.handler then c.cls + 8 else c.cls

/-- The GCC at which a clause starts (R26): none while its frame base is not known. -/
def Clause.startGcc (c : Clause) : Option Nat := c.fb.map fun f => (f + c.start) % 2 ^ 64

/-- The clause takes part in the overlap rule (R55, R80). -/
def Clause.columned (c : Clause) : Bool := decide (c.cls ≤ 5)

/-- Bring a clause's frame base into force: R80 and the claims are checked against the clauses before it, and its start is
put on the agenda (R78, R80, R250, R278). A start already past is due at once. -/
def State.placeClause (slot : Slot) (r : Fin 8) (id fb : Nat) (s : State) : State :=
  let w := s.rows[r]
  match w.clauses.find? fun c => c.id == id with
  | none => s
  | some c =>
    let now := (s.taskAt slot).gcc
    let g := (fb + c.start) % 2 ^ 64
    let ws := w.clauseWords c.addr c.cnt
    let claims := match Col.ofCls (BitVec.ofNat 3 c.cls) with
      | some k => if c.fault.isNone then clauseClaims k ws g else []
      | none => []
    let live := w.claims.filter fun k => decide (now ≤ k.first + k.len)
    let early := c.columned && decide (g < Sparse.get 0 w.colEnd c.column)
    let clashes := claimsFail live claims
    let s := s.modRow r fun w => { w with
      clauses := w.clauses.map fun k => if k.id = id then { k with fb := some fb, clash := early || clashes } else k
      colEnd := if c.columned then Sparse.set 0 w.colEnd c.column (max (Sparse.get 0 w.colEnd c.column) (g + (wordOffsets ws 0).2)) else w.colEnd
      claims := if clashes then live else live ++ claims }
    if c.cls = 7 then s
    else s.add { gang := true, due := max g now, rank := 4, slot := slot, row := r, core := 0,
                 part := if c.handler then .free else if c.cls = 0 then .seq else .core, work := .ev (.clauseStart id) }

/-- The dispatcher finds the clause at `a` (R52, R77). -/
def State.findClause (slot : Slot) (r : Fin 8) (a : Nat) (s : State) : State :=
  let w := s.rows[r]
  let h := clauseHdrOf (w.at a)
  let id := s.next
  let c : Clause :=
    { id := id, addr := a, cls := h.cls.toNat, cnt := h.cnt.toNat + 1, start := h.start.toNat, fb := none, wait := h.wait.toNat,
      fault := w.clauseFault (s.taskAt slot) a, handler := w.handler }
  let s := (s.modRow r fun w => { w with clauses := w.clauses ++ [c] }).fresh
  if w.frameOpen then s else s.placeClause slot r id w.fb

/-- Find the clauses of the straight run from `a`, up to the one that changes the frame or the end of the stream (R78). The
run's starts are known as soon as its frame base is, whether or not its words have been read. -/
def State.findRun (slot : Slot) (r : Fin 8) : Nat → Nat → State → State
  | 0, _, s => s
  | n + 1, a, s =>
    let w := s.rows[r]
    if w.slen ≤ a then s
    else
      let s := s.findClause slot r a
      if w.framed a then s else s.findRun slot r n (a + 2 + (clauseHdrOf (w.at a)).cnt.toNat)

/-- The dispatcher begins to read at a word address in this cycle (R77, R163). -/
def State.beginFetch (slot : Slot) (r : Fin 8) (a : Nat) (s : State) : State :=
  let s := { s with agenda := s.agenda.filter fun e => !(e.gang && e.slot == slot && e.row == r && e.part == (if s.rows[r].handler then Part.free else .seq)
      && e.work == Work.ev .dispatcherRead) }
  let s := s.modRow r fun w => { w with rpos := some a }
  let s := s.findRun slot r s.rows[r].slen a
  s.add { gang := true, due := (s.taskAt slot).gcc, rank := 33, slot := slot, row := r,
          part := if s.rows[r].handler then .free else .seq, work := .ev .dispatcherRead }

/-- The first clause of a launch or a handler, found from clause number `n` on, must start at row cycle 32 or later (R45,
R186). In a handler it raises the same late-clause trap, 0x03: log entry 163. -/
def State.checkFirst (r : Fin 8) (n : Nat) (s : State) : State :=
  match (s.rows[r].clauses.filter fun c => decide (n ≤ c.id) && c.columned).head? with
  | some c => if c.start < 32 then s.modRow r fun w =>
      { w with clauses := w.clauses.map fun k => if k.id = c.id then { k with early := true } else k } else s
  | none => s

/-- Clauses that hold an entry of a column queue (R79). -/
def Row.queued (r : Row) (column : Nat) : Nat := (r.clauses.filter fun c => c.column == column && c.read && !c.left).length

/-- The oldest clause not yet fully read that holds word address `a`. -/
def Row.reading (r : Row) (a : Nat) : Option Clause :=
  r.clauses.find? fun c => c.handler == r.handler && c.delivered.isNone && !c.dropped && decide (c.addr ≤ a) && decide (a ≤ c.addr + c.cnt)

/-- Replace a clause of a row. -/
def Row.modClause (r : Row) (id : Nat) (f : Clause → Clause) : Row :=
  { r with clauses := r.clauses.map fun c => if c.id = id then f c else c }

/-- Read one word (R77 to R82): none when the dispatcher reads no more in this cycle. A read that fails is recorded with the address that
could not be read: log entry 16. -/
def State.readWord (s : State) : State × Bool :=
  let w := s.row
  match w.rpos with
  | none => (s, false)
  | some a =>
    let bad := fun (d a : Nat) (s : State) => (s.hereRow fun w => { w with rpos := none }).addSeq 4 4 0 (.cont (.badRead d a))
    if w.slen ≤ a then (bad 8 a s, false)
    else match w.reading a with
      | none => (bad 8 a s, false)
      | some c =>
        if a = c.addr && !c.read && c.columned && decide (32 ≤ w.queued c.column) then (s, false)
        else
          let s := if a = c.addr then s.hereRow fun w => w.modClause c.id fun c => { c with read := true } else s
          if a = c.addr + c.cnt then
            let s := s.hereRow fun w => w.modClause c.id fun k => { k with delivered := some (s.gcc + 4) }
            match (if w.handler then [] else w.refeed) with
            | b :: bs => (s.hereRow fun w => { w with rpos := some b, refeed := bs }, true)
            | [] =>
              if c.cls = 7 then
                match c.fault with
                | some d => (bad d c.addr s, false)
                | none => (s.hereRow fun w => { w with rpos := some (a + 1), clauses := w.clauses.filter fun k => k.id != c.id }, true)
              else if c.fault.isSome || w.framed c.addr then (s.hereRow fun w => { w with rpos := none }, false)
              else (s.hereRow fun w => { w with rpos := some (a + 1) }, true)
          else (s.hereRow fun w => { w with rpos := some (a + 1) }, true)

/-- Read up to `n` words of this cycle. -/
def State.readWords : Nat → State → State
  | 0, s => s
  | n + 1, s => let (s, more) := s.readWord; if more then s.readWords n else s

/-- DISPATCHER_READ (R77 to R82). -/
def execDispatcherRead (s : State) : Out :=
  let s := s.readWords 4
  .next (if s.row.rpos.isSome then s.addSeq 1 33 0 (.ev .dispatcherRead) else s)

/-- The dispatch trap of a clause at its start: TRAPC and detail (R81, R82). A late clause that was the primary trap is late again after
a resume (R178): log entry 166. -/
def Clause.dispatchFault (c : Clause) (now : Nat) : Option (Nat × Nat) :=
  if c.early || !(c.delivered.any fun d => decide (d ≤ now)) then some (3, 0)
  else match c.fault with
    | some d => some (1, d)
    | none => if c.clash then some (2, 0) else none

/-- The place of a dispatch trap among those of one row cycle (R82). -/
def dispatchPlace (code : Nat) : Nat := if code = 3 then 0 else if code = 1 then 1 else if code = 2 then 2 else 3

/-- Another dispatch trap of this row and cycle ranks before one with the given place (R82). -/
def State.outranked (s : State) (place : Nat) : Bool :=
  s.agenda.any fun e => e.gang && e.slot == s.cur.slot && e.row == s.cur.row && e.core == 0 && e.due == s.cur.due && !s.blocked e &&
    match e.work with
    | .ev (.clauseStart id) => match (s.row.clauses.find? fun c => c.id == id && !c.dropped).bind (·.dispatchFault s.gcc) with
      | some (code, _) => decide (dispatchPlace code < place)
      | none => false
    | .cont (.badRead _ _) => decide (1 < place)
    | _ => false

/-- A trap of the dispatcher recorded at the sequencer (R81, R194). -/
def State.trapDispatch (s : State) (code detail addr : Nat) : State :=
  if s.outranked (dispatchPlace code) then s.add s.cur else (s.add s.cur).takeTrap 0 true s.gcc { code := code, detail := detail, addr := addr }

/-! ## Clause start -/

/-- An unsatisfied barrier's detail (R305, R306). -/
def Barrier.fault (b : Barrier) : Option Nat := if b.lost then some 2 else if b.ovr then some 1 else if b.pend ≠ 0 then some 0 else none

/-- The lowest-numbered barrier of a mask that is not satisfied (R306). -/
def Core.waitFault (c : Core) (mask : Nat) : Option (Nat × Nat) :=
  (List.range 16).findSome? fun i => if bitOf mask i then (c.rw i).fault.map fun d => (i, d) else none

/-- Put the words of a clause on the agenda of this place: in one cycle the lower row and column comes first (R355). -/
def State.startWords (s : State) (c : Clause) : State :=
  let os := (wordOffsets (s.row.clauseWords c.addr c.cnt) 0).1
  forEach ((List.range os.length).zip os) (fun (i, o) s =>
    if c.cls = 0 then s.addSeq o 10 i (.word c.id i) else s.addCore o (10 + c.cls) (8 * s.cur.row.1 + s.cur.core.1) (.word c.id i)) s

/-- CLAUSE_START (R22, R56, R58, R80 to R82, R187): the dispatch checks at the sequencer or logical column 0, the WAIT check in
every core, then the words at their offsets and the same clause two cycles later in the next core. -/
def execClauseStart (id : Nat) (s : State) : Out :=
  .next (match s.row.clauses.find? fun c => c.id == id with
    | none => s
    | some c =>
      if c.dropped then s
      else
        match if s.cur.core = 0 then c.dispatchFault s.gcc else none with
        | some (code, d) =>
          if c.cls = 0 then s.trapDispatch code d c.addr
          else if s.outranked (dispatchPlace code) then s.add s.cur else s.trapWord code d
        | none =>
          if c.handler && c.cls != 0 then
            s.terminate s.cur.slot (trapReport (Config.handlerClauseFault % 256) (Config.handlerClauseFault / 256 % 16) s.row.rowid 0xFF s.task.rank)
          else match if c.cls = 0 then none else s.core.waitFault c.wait with
          | some (i, d) => if s.cur.core = 0 && s.outranked 3 then s.add s.cur else s.trapWord 4 d i
          | none =>
            let s := s.startWords c
            if c.cls ≠ 0 ∧ s.cur.core.1 < 7 then
              s.add { s.cur with due := s.gcc + 2, core := s.cur.core + 1, urgent := false, args := [] }
            else s)

/-! ## Issue of a word -/

/-- The word is of the RRR format, so it may name a uniform register (R62, R73). -/
def isRRR (c : Col) (op : Nat) : Bool :=
  match c with
  | .s => false
  | .a => decide (0x20 ≤ op) && decide (op ≤ 0x42) && !([0x22, 0x3A, 0x3B].contains op)
  | .v => decide (op < 0x50) && !([0x3F, 0x40, 0x41].contains op) || op == 0x52 || op == 0x53
  | .m => op != 2 && op != 3
  | .f => op != 6 && op != 7 && op != 0xD
  | .x => op != 8

/-- The word being carried out, with its column: none when the row holds it no longer. -/
def State.word? (s : State) : Option (Clause × Nat × Col × Word) :=
  match s.cur.work with
  | .word id i =>
    match s.row.clauses.find? fun c => c.id == id with
    | none => none
    | some c => (Col.ofCls (BitVec.ofNat 3 c.cls)).map fun k => (c, i, k, s.row.at (c.addr + 1 + i))
  | _ => none

/-- Before a word issues (R23, R189, R194): logical column 0 captures the uniform value for every core, the word is counted,
and a single-stepped row takes its trap in the next cycle. -/
def State.beforeWord (s : State) (c : Clause) (i : Nat) (k : Col) (w : Word) : State :=
  let f := rrrOf w
  let s :=
    if k ≠ .s ∧ s.cur.core = 0 ∧ isRRR k (opcOf w).toNat ∧ f.ub = 1 then
      let r := s.row
      let xs := (List.range 8).map fun j => r.rk r.handler (f.uniNum + j)
      s.hereRow fun w => w.modClause c.id fun c => { c with uni := Sparse.set [] c.uni i xs }
    else s
  let s := if k = .s then s else s.here fun c => { c with nIssued := c.nIssued + 1 }
  let r := s.row
  if r.sstep.getLsbD 0 && r.tvec.getLsbD 63 && !r.handler && s.cur.core == 0 then
    let e : Entry := { s.cur with gang := true, due := s.gcc + 1, rank := 6, ord := 1, part := .seq, urgent := false, args := [], work := .ev .singleStepTrap }
    if s.agenda.contains e then s else s.add e
  else s

/-- After a word has issued (R79, R159): its clause leaves the queue with its last word at logical column 0, and the retained
list with its last word at logical column 7. A word that its own trap holds has not issued. -/
def State.afterWord (s : State) (c : Clause) (i : Nat) (k : Col) (cur : Entry) : State :=
  if s.agenda.contains cur then (if k = .s then s else s.modCore cur.row cur.core fun c => { c with nIssued := c.nIssued - 1 })
  else if i + 1 < c.cnt then s
  else if k = .s || cur.core.1 == 7 then s.modRow cur.row fun r => { r with clauses := r.clauses.filter fun x => x.id != c.id }
  else if cur.core.1 = 0 then s.modRow cur.row fun r => r.modClause c.id fun x => { x with left := true }
  else s

/-- The dispatcher resumes at a word address after a frame-changing word (R78, R162, R163). -/
def State.fetchFrom (s : State) (a : Nat) : State := s.beginFetch s.cur.slot s.cur.row a

end Sys2Proof.Machine
end

