-- ==== Sys2Proof/Machine/Holds.lean ====
section
/-! DEFINITION. Gang time: lateness and arrival bounds (R31, R32, R445), gang holds (R33 to R38), slack points (R39 to R42)
and the stops that the hold master announces (R446). -/

namespace Sys2Proof.Machine

open Sys2Proof

/-- A debugger hold has no end of its own: longer than any run. -/
def endless : Nat := 2 ^ 40

/-- The length of a hold in quanta (R34, R37). -/
def HoldRec.length (r : HoldRec) : Nat := if r.debug then endless + r.n else r.n

/-! ## Reaching a cycle -/

/-- Domain cycles that the hold or slack hold in force has still to run. -/
def Task.holdRest (t : Task) (dcc : Nat) : Nat :=
  (match t.holding with
  | some (h, d) => d + 256 * h.length - dcc
  | none => 0) + if t.slackHold then t.slackEnd - dcc else 0

/-- Domain cycles of announced holds with an effective GCC accepted by `p`. -/
def Task.holdSum (t : Task) (p : Nat → Bool) : Nat :=
  ((t.announced.filter fun h => p h.h).map fun h => 256 * h.length).foldl (· + ·) 0

/-- The DCC in which the gang first reads GCC `g`, counting the holds announced and the hold or slack hold in force (R32, R34). -/
def State.dccReach (s : State) (slot : Slot) (g : Nat) : Nat :=
  let t := (s.taskAt slot)
  if t.gcc < g then s.dcc + (g - t.gcc) + t.holdRest s.dcc + t.holdSum fun h => decide (t.gcc ≤ h) && decide (h < g)
  else match t.holding with
    | some (_, d) => if t.gcc = g then d else s.dcc
    | none => s.dcc

/-- DCC(g): the last DCC in which the gang's GCC reads `g`, counting the holds announced (R150). -/
def State.dccWork (s : State) (slot : Slot) (g : Nat) : Nat :=
  let t := (s.taskAt slot)
  s.dcc + (g - t.gcc) + t.holdRest s.dcc + t.holdSum fun h => decide (t.gcc ≤ h) && decide (h ≤ g)

/-- The GCC reached `k` running or held domain cycles on, with the announced holds in ascending order. -/
def gccWalk : List HoldRec → Nat → Nat → Nat
  | [], g, k => g + k
  | r :: rs, g, k =>
    if g + k ≤ r.h then g + k
    else if k - (r.h - g) ≤ 256 * r.length then r.h
    else gccWalk rs r.h (k - (r.h - g) - 256 * r.length)

/-- The GCC that the gang reaches `k` domain cycles from now (R34). -/
def State.gccAt (s : State) (slot : Slot) (k : Nat) : Nat :=
  let t := (s.taskAt slot)
  gccWalk (t.announced.filter fun h => decide (t.gcc ≤ h.h)) t.gcc (k - t.holdRest s.dcc)

/-- The DCC in which the gang first read GCC `g`, which it has reached (R446). -/
def State.dccFirst (s : State) (slot : Slot) (g : Nat) : Nat :=
  let t := (s.taskAt slot)
  let past := ((t.pastHolds.filter fun h => decide (g ≤ h.1)).map (·.2)).foldl (· + ·) 0
  let here := match t.holding with
    | some (_, d) => s.dcc - d
    | none => 0
  s.dcc + (if t.slackHold then t.slackEnd - s.dcc else 0) - (t.gcc - g) - past - here

/-- The GCC at which a stop whose time has come takes effect: the GCC that the gang has reached, and the next one in a slack hold,
whose GCC's words have issued (R165, R446). -/
def State.reached (s : State) (slot : Slot) : Nat :=
  let t := (s.taskAt slot)
  if t.slackHold then t.gcc + 1 else t.gcc

/-- The effective GCC of a hold that is asked for now (R34): the GCC that the gang reaches L_lead domain cycles on, and where that is the
GCC of the slack hold in force, whose words have issued, the next one. -/
def State.holdPoint (s : State) (slot : Slot) : Nat := max (s.gccAt slot (s.taskAt slot).llead) (s.reached slot)

/-! ## Stops announced by the hold master -/

/-- Put a hold among those announced, in ascending order, in the place of one for its GCC. -/
def announceHold (x : HoldRec) : List HoldRec → List HoldRec
  | [] => [x]
  | r :: rs => if r.h = x.h then x :: rs else if x.h < r.h then x :: r :: rs else r :: announceHold x rs

/-- The hold master announces a gang stop (R446): it takes effect at the GCC that the gang has reached L_lead domain cycles
later. -/
def State.announceStop (slot : Slot) (code : Nat) (s : State) : State :=
  s.add { gang := false, due := s.dcc + (s.taskAt slot).llead, rank := 0, slot := slot, work := .cont (.stopReached code) }

/-- The L_lead domain cycles of an announced stop have passed (R446). -/
def State.stopReached (s : State) (code : Nat) : State :=
  let slot := s.cur.slot
  s.add { gang := true, due := s.reached slot, rank := 0, slot := slot, work := .ev (.gangStop code ⟨true, none⟩) }

/-- A debugger hold begins at GCC `x` (R37, R189): it has no length until it is ended. A hold already announced for `x` becomes one
hold with it and keeps its own length (R34). Log entry 108: a gang of one member takes it as a larger one does. -/
def State.beginDebug (slot : Slot) (x : Nat) (s : State) : State :=
  let t := (s.taskAt slot)
  match t.holding with
  | some (r, d) =>
    if r.h = x then s.modTask slot fun t => { t with holding := some ({ r with debug := true }, d) }
    else s
  | none =>
    let r := (t.announced.find? fun a => a.h == x).getD ⟨x, 0, false, 0⟩
    let s' := s.modTask slot fun t => { t with announced := announceHold { r with debug := true } t.announced }
    if t.announced.any fun a => a.h == x then s'
    else s'.add { gang := true, due := x, rank := 0, slot := slot, work := .ev (.gangHold x) }

/-- The row asks for a debugger hold around each stop (R189, R195). -/
def Row.wantsDebug (r : Row) : Bool := r.tvec.getLsbD 63 && r.sstep.getLsbD 2

/-- The gang's modules and exchange dies stand still from GCC `x` = S (R181, R182), and a debugger hold follows the stop from there
where any row of the package asks for it (R189; log entry 36). -/
def State.reachS (slot : Slot) (x : Nat) (s : State) : State :=
  let t := (s.taskAt slot)
  let first := t.stop.any fun st => st.s.isNone && !st.fatal
  let s := s.modTask slot fun t => { t with
    schedFreeze := lower t.schedFreeze x, stop := t.stop.map fun st => { st with s := st.s.or (some x) } }
  if first && (s.rowsOf slot).any fun r => s.rows[r].wantsDebug then s.beginDebug slot x else s

/-- A trap on another package of the gang is known (R180, R181): it is the primary trap unless one with a smaller key is. -/
def State.peerTrap (slot : Slot) (p : PeerTrap) (s : State) : State :=
  let key : Primary := ⟨p.x, p.rank, p.row, p.place⟩
  let new : Stop := { primary := key, code := p.code, detail := p.detail, col := if p.place = 0 then 0xFF else p.place - 1, restart := p.restart }
  match (s.taskAt slot).stop with
  | none => s.modTask slot fun t => { t with stop := some new }
  | some st =>
    if key.before st.primary then
      (forEach (s.rowsOf slot) (fun r s => s.modRow r fun w => { w with trapc := unprim w.trapc })
        (s.modTask slot fun t => { t with stop := some { new with s := st.s, fatal := st.fatal, restart := st.restart || p.restart, source := st.source } })).markSecondary slot st
    else s

/-- A gang stop that the hold master announced, or a peer's stop, takes effect at this GCC (R181, R446): code 0x10 is a
peer's trap; 0x0B and 0x11 end the task. -/
def State.stopAt (slot : Slot) (code : Nat) (peer : Option PeerTrap) (s : State) : State :=
  let s := match peer with
    | some p => s.peerTrap slot p
    | none => s
  let x := (s.taskAt slot).gcc
  let fatal := code != 0x10
  let s := s.modTask slot fun t => { t with
    stop := some (match t.stop with
      | some st => { st with fatal := st.fatal || fatal }
      | none => { primary := ⟨x, 2 ^ 13, 0xFF, 0xFF⟩, code := code, fatal := fatal }) }
  let s := s.reachS slot x
  let s := forEach (s.rowsOf slot) (fun r s => s.modRow r fun w =>
    if w.front.isSome then w
    else { w with trapc := trapcWord w.trapc code (if fatal then 0xFE else 0xFF) false, front := some (x, 0x100) }) s
  s.frontAll slot x

/-- The report of a task that ends on lateness while a module of its transfers serves no more names that module and the first
address missing there (R342, R375, R383). -/
def State.lateReport (s : State) (slot : Slot) (rep : EndReport) : EndReport :=
  match (s.taskAt slot).stalls.find? fun st => s.pkg.offline.contains st.md with
  | some st => { rep with code := 0x05, module := st.md, addr := (st.missing.head?.map (·.addr)).getD 0 }
  | none => rep

/-- GANG_STOP (R37, R180, R181, R446): announced by the hold master, or by the trap of a peer, then taken at its stop GCC. -/
def execGangStop (code : Nat) (news : StopNews) (s : State) : Out :=
  let slot := s.cur.slot
  .next (if !news.announced then
      (match news.peer with
      | some p => s.peerTrap slot p
      | none => s).announceStop slot code
    else match s.task.ending with
      | none => s.stopAt slot code news.peer
      | some rep =>
        if code = 0x11 then
          let rep' := trapReport 0x11 0 0xFF 0xFF s.task.rank
          s.modTask slot fun t => { t with ending := some (if rep.code = 0 then s.lateReport slot rep' else rep) }
        else s)

/-! ## Holds -/

/-- The hold announced for GCC `h`, or in force there (R34). -/
def Task.holdRec (t : Task) (h : Nat) : Option HoldRec :=
  match t.holding with
  | some (r, _) => if r.h = h then some r else t.announced.find? fun a => a.h == h
  | none => t.announced.find? fun a => a.h == h

/-- The quanta of a hold at GCC `h`, none where there is none (R34): a debugger's are among them once it has ended its hold (R37). -/
def Task.holdAt (t : Task) (h : Nat) : Option Nat := (t.holdRec h).map HoldRec.n

/-- The quanta that a debugger has put to a hold in force by DCC `now`: those for which nothing else has asked (R37). -/
def HoldRec.debugQuanta (r : HoldRec) (d now : Nat) : Nat := r.free + if r.debug then (now - d) / 256 - r.n else 0

/-- The quanta of the hold at GCC `h` that are a debugger's and count against no limit (R37). -/
def Task.freeAt (t : Task) (dcc h : Nat) : Nat :=
  match t.holding with
  | some (r, d) => if r.h = h then r.debugQuanta d dcc else ((t.holdRec h).map HoldRec.free).getD 0
  | none => ((t.holdRec h).map HoldRec.free).getD 0

/-- A hold is announced, or one that is announced or in force takes another length. -/
def Task.putHold (t : Task) (x : HoldRec) : Task :=
  match t.holding with
  | some (r, d) => if r.h = x.h then { t with holding := some (x, d) } else { t with announced := announceHold x t.announced }
  | none => { t with announced := announceHold x t.announced }

/-- The hold master receives a request (R34, R37, R445): it announces or lengthens a hold, lets a request that asks for no
more change nothing, or announces a stop with TRAPC 0x11 where the limit, against which a debugger's quanta do not count, or the notice
does not allow it. A request for a hold that a debugger has not yet ended moves no end (log entry 36). -/
def State.requestHold (slot : Slot) (h n : Nat) (late : Bool) (s : State) : State :=
  let t := s.taskAt slot
  let old := t.holdAt h
  let free := t.freeAt s.dcc h
  let debug := (t.holdRec h).any HoldRec.debug
  let moved := s.dccReach slot h + 256 * old.getD 0
  if n ≤ old.getD 0 then s
  else if late && decide (t.holdLim + free < n) then
    s.add { gang := true, due := h, rank := 0, ord := 1, slot := slot, work := .ev (.gangStop 0x11 ⟨true, none⟩) }
  else if !debug && decide (moved < s.dcc + t.llead) then s.announceStop slot 0x11
  else
    let s := s.modTask slot fun t => t.putHold ⟨h, n, debug, free⟩
    if old.isSome then s
    else s.add { gang := true, due := h, rank := 0, slot := slot, work := .ev (.gangHold h) }

/-- HOLD_REQUEST (R34, R37). -/
def execHoldRequest (h n : Nat) (late : Bool) (s : State) : Out := .next (s.requestHold s.cur.slot h n late)

/-- GANG_HOLD (R35): the gang stands still from this domain cycle, which begins the first quantum. -/
def execGangHold (h : Nat) (s : State) : Out :=
  .next (match s.task.announced.find? fun r => r.h == h with
    | none => s
    | some r =>
      let s := s.hereTask fun t => { t with announced := t.announced.filter fun a => a.h != h, holding := some (r, s.dcc) }
      s.addDomain s.dcc 0 (.ev (.holdQuantum 0)))

/-- The hold in force has run its quanta: GCC advances again (R35). -/
def Task.endHold (t : Task) : Task :=
  match t.holding with
  | some (r, _) => { t with holding := none, pastHolds := t.pastHolds ++ [(r.h, 256 * r.length)] }
  | none => t

/-- HOLD_QUANTUM (R25, R36): quantum `k` of the hold begins, unless the hold has ended with the one before. -/
def execHoldQuantum (k : Nat) (s : State) : Out :=
  .next (match s.task.holding with
    | none => s
    | some (r, _) =>
      if r.length ≤ k then s.hereTask Task.endHold
      else (s.hereTask fun t => { t with holds := t.holds + 256 }).addDomain (s.dcc + 256) 0 (.ev .holdEnd))

/-! ## Lateness -/

/-- The last call of a delivery at GCC `g` (R32). -/
def State.lastCallOf (s : State) (slot : Slot) (g : Nat) : Nat := s.dccWork slot g - (s.taskAt slot).llead

/-- The length a late transfer asks for (R34). -/
def State.lateLength (s : State) (slot : Slot) (l : LateMark) : Nat :=
  match l.bound with
  | some e => max 1 (ceilDiv (e - s.dccReach slot l.due) 256)
  | none => (((s.taskAt slot).holdAt l.due).getD 0) + 1

/-- The transfers that a restart keeps: writes and module commands (R152, R173). -/
def Xfer.writes (x : Xfer) : Bool :=
  match x.kind with
  | .fetch => false
  | .gath => false
  | .mired => false
  | _ => true

/-- A mark that says what is missing at a module (R319, R335): it is never late at the package. -/
def Task.atModule (t : Task) (l : LateMark) : Bool :=
  t.xfers.any fun x => x.id == l.id && (x.writes || decide (l.due + ceilDiv x.n x.s < x.wcc))

/-- The stop front holds a delivery of a transfer (R182): it waits for the resume, and its cycle moves with it. -/
def State.markHeld (s : State) (slot : Slot) (l : LateMark) : Bool :=
  match (s.taskAt slot).xfers.find? fun x => x.id == l.id || snapMark x.id == l.id with
  | some x => atOrAfter (s.coreAt x.row x.core).sigma l.due
  | none => s.agenda.any fun e => s.frontHolds slot e && match e.work with
    | .ev (.putPieceDelivery p) => p.id == l.id
    | .ev (.beatLanding m) => m.id == l.id
    | _ => false

/-- A last call of a transfer is put on the agenda. -/
def State.callAt (slot : Slot) (id y : Nat) (s : State) : State :=
  let e : Entry := { gang := false, due := y, rank := 0, slot := slot, work := .ev (.lastCall id) }
  if s.agenda.contains e then s else s.add e

/-- The next last call of a hold at GCC `h`, where it is still to come (R34). -/
def State.callAgain (slot : Slot) (id h : Nat) (s : State) : State :=
  let y := s.lastCallOf slot h
  if s.dcc < y then s.callAt slot id y else s

/-- A late transfer requests a hold at its delivery cycle (R32, R34). -/
def State.askHold (slot : Slot) (l : LateMark) (s : State) : State :=
  ((s.modTask slot fun t => { t with asked := (l.id, l.due) :: t.asked.filter (· != (l.id, l.due)) }).requestHold slot l.due (s.lateLength slot l) true).callAgain
    slot l.id l.due

/-- A transfer has no call at the package: it is missing at a module, its cycle is past, or the stop front holds it. -/
def State.uncalled (s : State) (slot : Slot) (l : LateMark) : Bool :=
  (s.taskAt slot).atModule l || decide (l.due < (s.taskAt slot).gcc) || s.markHeld slot l

/-- A transfer still absent at its last call requests a hold and is judged again at its new last call; one whose last
call has moved on waits for it (R32, R34). -/
def State.judgeLate (slot : Slot) (l : LateMark) (s : State) : State :=
  if s.uncalled slot l then s
  else if s.dcc < s.lastCallOf slot l.due then s.callAgain slot l.id l.due
  else s.askHold slot l

/-- The hold request for something that a stalled schedule lacks (R335): at the stall one quantum where no bound is reported, later
one more than the hold's length. -/
def State.stallRequest (slot : Slot) (k : Missing) (again : Bool) (s : State) : State :=
  let n := match k.mark.bound with
    | some e => max 1 (ceilDiv (e - k.since) 256)
    | none => if again then (((s.taskAt slot).holdAt k.hold).getD 0) + 1 else 1
  s.requestHold slot k.hold n true

/-- A stalled schedule that still lacks something is judged L_lead domain cycles before the end of the hold it asked for (R335). -/
def State.judgeStall (slot : Slot) (k : Missing) (s : State) : State :=
  (if s.dcc < s.lastCallOf slot k.hold then s else s.stallRequest slot k true).callAgain slot k.mark.id k.hold

/-- The last calls of a gang are fixed anew, since a debugger hold has ended or cycles have moved (R32, R34, R184). -/
def State.recall (slot : Slot) (s : State) : State :=
  let t := (s.taskAt slot)
  let calls := t.lates.map (fun l => (l.id, l.due)) ++ t.stalls.flatMap fun st => st.missing.map fun k => (k.mark.id, k.hold)
  let s := { s with agenda := s.agenda.filter fun e => !(e.slot == slot && calls.any fun c => e.work == Work.ev (.lastCall c.1)) }
  forEach calls (fun c s => s.callAt slot c.1 (max s.dcc (s.lastCallOf slot c.2))) s

/-- LAST_CALL (R32, R319, R335): marks of transfers that are still absent are judged; a schedule that still lacks something
requests again. -/
def execLastCall (id : Nat) (s : State) : Out :=
  let slot := s.cur.slot
  let s := forEach (s.task.lates.filter fun l => l.id == id) (fun l s => s.judgeLate slot l) s
  .next (forEach ((s.task.stalls.flatMap (·.missing)).filter fun k => k.mark.id == id) (fun k s => s.judgeStall slot k) s)

/-- A path reports the bound of a transfer it has still to bring (R445); a report after the transfer has requested a hold, or for a
stalled schedule, is a further request at once. -/
def State.boundReport (l : LateMark) (s : State) : State :=
  let slot := s.cur.slot
  if (s.task.stalls.flatMap (·.missing)).all fun k => k.mark.id != l.id then
    let s := s.hereTask fun t => { t with lates := (t.lates.filter fun k => !(k.id == l.id && k.due == l.due)) ++ [l] }
    if s.task.asked.contains (l.id, l.due) && !s.uncalled slot l then s.askHold slot l else s.judgeLate slot l
  else
    let s := s.hereTask fun t => { t with
      stalls := t.stalls.map fun st => { st with missing := st.missing.map fun k => if k.mark.id = l.id then { k with mark := { k.mark with bound := l.bound } } else k } }
    forEach ((s.task.stalls.flatMap (·.missing)).filter fun k => k.mark.id == l.id) (fun k s => s.stallRequest slot k true) s

/-- A debugger hold is over after `q` quanta (R37): what it lasts longer than the quanta asked for is the debugger's. -/
def HoldRec.ended (r : HoldRec) (q : Nat) : HoldRec :=
  { r with debug := false, n := max (max 1 r.n) q, free := r.free + (max (max 1 r.n) q - r.n) }

/-- A debugger hold ends with the quantum in which it is ended (R37), and no sooner than what else is announced for its cycle; last
calls that its length had put off come now. -/
def State.endDebug (slot : Slot) (s : State) : State :=
  if ((s.taskAt slot).holding.any fun x => x.1.debug) then
    (s.modTask slot fun t => { t with
      holding := t.holding.map fun (r, d) =>
        (r.ended (match s.agenda.find? fun e => e.slot == slot && e.work == .ev .holdEnd with
          | some e => (e.due - d) / 256
          | none => (s.dcc - d) / 256), d) }).recall slot
  else s

/-- HOLD_END (R34, R35, R37): GCC advances again once the quanta have run, and the next quantum begins where the hold is longer;
its entry may say that the debug monitor ends a debugger hold. -/
def execHoldEnd (s : State) : Out :=
  .next (if s.arg 0 0 ≠ 0 then s.endDebug s.cur.slot
    else match s.task.holding with
      | none => s
      | some (r, d) =>
        if s.dcc < d + 256 * r.length then s.addDomain s.dcc 0 (.ev (.holdQuantum ((s.dcc - d) / 256)))
        else s.hereTask Task.endHold)

/-- ARRIVAL_BOUND_REPORT (R445). -/
def execArrivalBoundReport (l : LateMark) (s : State) : Out := .next (s.boundReport l)

/-- A transfer is in its deliver-at buffer (R31, R335): a schedule that lacks nothing else at the GCC it has come to begins to
drain. -/
def State.arrived (id : Nat) (s : State) : State :=
  let s := s.hereTask fun t => { t with
    lates := t.lates.filter fun l => l.id != id
    asked := t.asked.filter fun x => x.1 != id
    stalls := t.stalls.map fun st => { st with missing := st.missing.filter fun k => k.mark.id != id } }
  s.startDrains s.cur.slot

/-- DELIVER_AT_ARRIVAL (R31, R335). -/
def execDeliverAtArrival (id : Nat) (s : State) : Out := .next (s.arrived id)

/-- ELASTIC_BUFFER_MARGIN (R42): a one-quantum hold, during which the buffer is re-centred. -/
def execElasticBufferMargin (s : State) : Out := .next (s.requestHold s.cur.slot (s.holdPoint s.cur.slot) 1 false)

/-! ## Slack -/

/-- SLACK_ARM (R39): the amount is valid from a GCC that the gang reaches no earlier than L_lead domain cycles after the
announcement; log entry 109: it takes the place of what is left of an earlier amount. -/
def execSlackArm (amount since : Nat) (s : State) : Out :=
  .next (s.hereTask fun t => { t with armed := amount, armedFrom := max since (s.gccAt s.cur.slot t.llead) })

/-- The slack hold of a SLACK begins after the words of its cycle (R39, R165). -/
def State.slackBegin (s : State) (budget : Nat) : State :=
  let t := s.task
  let n := if t.armedFrom ≤ t.gcc then min t.armed budget else 0
  if n = 0 || t.slackHold then s
  else (s.hereTask fun t => { t with
    armed := t.armed - n, slackHold := true, slackEnd := s.dcc + n, pastHolds := t.pastHolds ++ [(t.gcc, n)] }).addDomain (s.dcc + n) 0 (.ev .slackHoldEnd)

/-- SLACK_HOLD_END (R39). -/
def execSlackHoldEnd (s : State) : Out := .next (s.hereTask fun t => { t with slackHold := false })

/-- The starvation count of a row restarts (R41, R165). -/
def State.restartSlack (slot : Slot) (r : Fin 8) (s : State) : State :=
  let s := { s with agenda := s.agenda.filter fun e => !(e.gang && e.slot == slot && e.row == r && e.work == Work.ev .slackStarvation) }
  (s.modRow r fun w => { w with slackAt := (s.taskAt slot).gcc }).add
    { gang := true, due := (s.taskAt slot).gcc + 4194304, rank := 4, slot := slot, row := r, part := .seq, work := .ev .slackStarvation }

/-- SLACK_STARVATION (R41, R178): the trap is detected at the sequencer. -/
def execSlackStarvation (s : State) : Out :=
  .next (if s.row.running && s.row.halted.isNone then
    s.takeTrap 0 true s.gcc { code := 0x0B, addr := s.nextSeqAddr } else s)

/-! ## Reports to the hold master (R446) -/

/-- Two reports of one comparison differ (R40, R164, R446): GALIGN words differ in scope, the others in GCC or
budget. -/
def pointDiffers (a b : Point) : Bool := a.arg != b.arg || (a.kind != .galign && a.gcc != b.gcc)

/-- The rows of the gang, or of its member `only`, for which a comparison waits, once those that have halted are left out (R40, R164). -/
def Task.awaited (t : Task) (kind : PointKind) (k : Nat) (only : Option Nat) : Bool :=
  ((List.range t.members).filter fun m => only.all (· == m)).any fun m => (List.range t.nrows).any fun r =>
    !t.points.any fun p => p.rank == m && p.row == r && (p.kind == .halt || (p.kind == kind && p.k == k))

/-- The alignment of the k-th GALIGN can be computed (R164). -/
def Task.alignable (t : Task) (k : Nat) : Bool :=
  match t.points.find? fun p => p.kind == .galign && p.k == k with
  | some p => !t.awaited .galign k (if p.arg = 0 then some t.rank else none)
  | none => false

/-- Put the alignment of every GALIGN that a row waits for and that has become computable on the agenda (R164). -/
def State.alignReady (slot : Slot) (s : State) : State :=
  let t := (s.taskAt slot)
  let ks := ((s.rowsOf slot).flatMap fun r => ((s.rows[r].galign.toList ++ s.rows[r].galignTask.toList).map Prod.fst)).eraseDups
  forEach (ks.filter t.alignable) (fun k s =>
    let arg := ((t.points.find? fun p => p.kind == .galign && p.k == k).map (·.arg)).getD 0
    let e : Entry := { gang := true, due := t.gcc, rank := 7, slot := slot, work := .ev (.galignAlignment k arg) }
    if s.agenda.contains e then s else s.add e) s

/-- REPORT_TIMEOUT (R446): a row that has not halted has not reported in time; the entry says 1 more than the rank of the member whose
rows alone take part in a GALIGN of scope 0 (R164). While the gang is stopped no row can report, so the time runs anew. -/
def execReportTimeout (kind : PointKind) (k : Nat) (s : State) : Out :=
  let t := s.task
  .next (if t.ending.isSome then s
    else if t.stop.isSome then s.add { s.cur with gang := false, due := s.dcc + t.llead, work := .ev (.reportTimeout kind k) }
    else if t.awaited kind k (if s.arg 0 0 = 0 then none else some (s.arg 0 0 - 1)) then s.announceStop s.cur.slot 0x0B else s)

/-- A row takes the frame of its `k`-th GALIGN (R164): FB := G, and k[D] := G − g usable from G. A row in handler mode keeps its
task's frame and open GALIGN aside (R186). -/
def State.takeFrame (slot : Slot) (r : Fin 8) (k g : Nat) (s : State) : State :=
  let w := s.rows[r]
  let aside := w.handler && (w.galign.map Prod.fst) != some k
  let h := w.handler && !aside
  match if aside then w.galignTask else w.galign with
  | none => s
  | some (_, t, d) =>
    let now := (s.taskAt slot).gcc
    let fb := g % 2 ^ 64
    let open? := fun (c : Clause) => c.fb.isNone && c.handler == h
    let s := s.modRow r fun w =>
      let w := { w with clauses := w.clauses.map fun c => if open? c then { c with delivered := c.delivered.map (max · now) } else c }
      if aside then { w with fbTask := fb, frameOpenTask := false, galignTask := none }
      else { w with fb := fb, frameOpen := false, galign := none }
    let s := (s.add { gang := true, due := g, rank := 3, ord := s.next, slot := slot, row := r, part := if h then .free else .seq,
                      work := .ev (.registerWriteBack { wid := s.next, writes := [.k h d (BitVec.ofNat 64 (g - t))] }) }).fresh
    forEach ((s.rows[r].clauses.filter open?).map (·.id)) (fun id s => s.placeClause slot r id fb) s

/-- A row waits in its `k`-th GALIGN, or has kept it aside in handler mode (R164, R186). -/
def Row.waitsAt (r : Row) (k : Nat) : Bool := (r.galign.map Prod.fst) == some k || (r.galignTask.map Prod.fst) == some k

/-- GALIGN_ALIGNMENT (R164): the participants are the rows of this package in scope 0, those of every member in scope 1. -/
def execGalignAlignment (k : Nat) (scope : Nat) (s : State) : Out :=
  let slot := s.cur.slot
  let t := s.task
  let gs := t.points.filter fun p => p.kind == .galign && p.k == k && (scope != 0 || p.rank == t.rank)
  let g := gs.foldl (fun m p => max m (p.gcc + t.shiftc)) 0 + (if scope = 0 then 64 else 2 * t.llead)
  .next (forEach ((s.rowsOf slot).filter fun r => s.rows[r].waitsAt k) (fun r s => s.takeFrame slot r k g) s)

/-- EVENT_COUNTER_WINDOW (R192): COUNT := 0 before the counts of this cycle are added. -/
def execEventCounterWindow (n : Nat) (s : State) : Out :=
  .next (match evWindow (Sparse.get 0 s.core.evcfg n) with
    | none => s
    | some w => (s.here fun c => { c with evcnt := Sparse.set 0 c.evcnt n 0 }).addCore w 1 0 (.ev (.eventCounterWindow n)))

end Sys2Proof.Machine
end

