-- ==== Sys2Proof/Machine/Gang.lean ====
section
/-! DEFINITION. Stops and what follows them: freezing at the stop front (R182), handler mode (R186 to R189), resume (R183 to
R185) and the restart of idempotent regions (R173, R321). -/

namespace Sys2Proof.Machine

open Sys2Proof

/-! ## A row that has stopped -/

/-- Every core of a row and its sequencer have frozen. -/
def State.rowFrozen (s : State) (r : Fin 8) : Bool := s.rows[r].frozen && all8.all fun c => (s.coreAt r c).frozen

/-- The row holds the gang's primary trap (R180). -/
def State.holdsPrimary (s : State) (slot : Slot) (r : Fin 8) : Bool :=
  let t := (s.taskAt slot)
  match t.stop with
  | some st => st.primary.rank == t.rank && st.primary.row == s.rows[r].rowid
  | none => false

/-- The report of a task that its primary trap ends (R375). -/
def State.stopReport (s : State) (slot : Slot) : EndReport :=
  let t := (s.taskAt slot)
  match t.stop with
  | some st =>
    if st.primary.row = 0xFF then trapReport st.code 0 0xFF 0xFF t.rank
    else trapReport st.code st.detail st.primary.row st.col st.primary.rank
  | none => trapReport 0 0 0xFF 0xFF t.rank

/-- The report of a task that its stop ends (R342, R375, R383). -/
def State.endReport (s : State) (slot : Slot) : EndReport :=
  let rep := s.stopReport slot
  if rep.trapc = 0x11 then s.lateReport slot rep else rep

/-- The gang restarts its regions (R321): consumed transit poison asked for it while every row had an open region. A region that
closed before its row stopped ends the task at the restart (R173). -/
def State.restartApplies (s : State) (slot : Slot) : Bool :=
  match (s.taskAt slot).stop with
  | some st => st.restart && !st.fatal
  | none => false

/-- The least stop GCC of the gang's cores and sequencers here (R184). -/
def State.sigmaMin (s : State) (slot : Slot) : Nat :=
  let xs := (s.rowsOf slot).flatMap fun r => s.rows[r].sigma.toList ++ all8.flatMap fun c => (s.coreAt r c).sigma.toList
  xs.foldl min (s.taskAt slot).gcc

/-- The gang resumes when every stopped row has asked for it and the modules have reached S (R183, R184): a gang of several
members waits for the hold master's word. -/
def State.checkResume (slot : Slot) (s : State) : State :=
  let t := (s.taskAt slot)
  match t.stop with
  | none => s
  | some st =>
    if t.ending.isSome || st.s.isNone || !((s.rowsOf slot).all fun r => s.rows[r].wantsResume) then s
    else if t.members ≤ 1 then
      s.add { gang := false, due := s.dcc, rank := 0, ord := 2, slot := slot, work := .ev .gangResume }
    else s.send (.note 0x10 [t.taskid, t.rank, t.gcc, s.sigmaMin slot])

/-- The earliest entry GCC of the open regions here (R173). -/
def State.firstEntry (s : State) (slot : Slot) : Nat := ((s.rowsOf slot).filterMap fun r => s.rows[r].region.map (·.entry)).foldl min (s.taskAt slot).gcc

/-- Every row here has frozen and consumed transit poison asks for a region restart (R321): a task of one member restarts, and in a
larger gang the hold master hears of it and answers with the cycle and the earliest entry of the gang (R173), or that some row of
the gang does not allow it. -/
def State.askRestart (slot : Slot) (s : State) : State :=
  let t := (s.taskAt slot)
  if t.members ≤ 1 then
    s.add { gang := true, due := t.gcc, rank := 0, ord := 1, slot := slot, work := .ev .regionRestart }
  else s.send (.note 0x11 [t.taskid, t.rank, t.gcc, s.firstEntry slot, if s.mayRestart slot then 1 else 0])

/-- What follows once a whole row has frozen (R183, R186, R321, R368). -/
def State.rowStopped (slot : Slot) (r : Fin 8) (s : State) : State :=
  let t := (s.taskAt slot)
  let w := s.rows[r]
  match t.stop with
  | none => s
  | some st =>
    if w.prept.isSome || t.ending.isSome then s
    else match st.source with
      | some (m, a) => s.terminate slot { s.stopReport slot with code := 0x02, module := m, addr := a, rank := some t.rank }
      | none =>
        if s.restartApplies slot then
          if (s.rowsOf slot).all s.rowFrozen then s.askRestart slot else s
        else if !w.running then (s.modRow r fun w => { w with wantsResume := true }).checkResume slot
        else if w.tvec.getLsbD 63 then
          s.add { gang := true, due := t.gcc, rank := 0, ord := 1, slot := slot, row := r, work := .ev .handlerEntry }
        else if s.holdsPrimary slot r && decide (1 < t.members) && st.s.isNone then s
        else if s.holdsPrimary slot r || st.fatal then s.terminate slot (s.endReport slot)
        else (s.modRow r fun w => { w with wantsResume := true }).checkResume slot

/-- CORE_STOP (R182, R194): the core or sequencer freezes; STOPG and, without a trap of its own, TRAPF say where. A row whose
stop came only from the gang reports TRAPC 0x10, and a sequencer without a trap of its own has CAUSE 0 in TRAPFS. -/
def execCoreStop (s : State) : Out :=
  let slot := s.cur.slot
  let r := s.cur.row
  let x := s.cur.due
  .next (if s.cur.part = .core then
      let c := s.core
      if c.sigma ≠ some x || c.frozen then s
      else
        let f := if c.trapped || s.row.prept.isSome then c.trapf else TrapInfo.word { code := 0, addr := s.nextWordAddr r s.cur.core } false
        let s := s.here fun c => { c with frozen := true, trapf := f, stopg := if s.row.prept.isSome then c.stopg else BitVec.ofNat 64 x }
        if s.rowFrozen r then s.rowStopped slot r else s
    else if s.row.sigma ≠ some x || s.row.frozen then s
    else
      let f := if s.row.trapped || s.row.prept.isSome then s.row.trapfs else TrapInfo.word { code := 0, addr := s.nextSeqAddr } false
      let s := s.hereRow fun w => { w with
        frozen := true
        trapfs := f
        trapc := if w.front.isSome || w.prept.isSome then w.trapc else trapcWord w.trapc 0x10 0xFF false }
      if s.rowFrozen r then s.rowStopped slot r else s)

/-- The modules and exchange dies stand still from the GCC reached L_lead domain cycles after the primary trap (R182). Only now does a
gang of several members know its primary trap, and a row without a handler that holds it ends the task (R183). -/
def State.freezeSched (s : State) : State :=
  let slot := s.cur.slot
  let t := s.task
  if t.stop.isNone || t.ending.isSome then s
  else
    let s := s.reachS slot (s.reached slot)
    let rs := (s.rowsOf slot).filter fun r => s.rowFrozen r && s.holdsPrimary slot r && !s.rows[r].tvec.getLsbD 63 && decide (1 < t.members)
    (forEach rs (fun r s => s.rowStopped slot r) s).checkResume slot

/-! ## Handler mode -/

/-- HANDLER_ENTRY (R186, R187, R194). -/
def execHandlerEntry (s : State) : Out :=
  let slot := s.cur.slot
  let r := s.cur.row
  let h := s.gcc
  let n := s.next
  let s := s.hereRow fun w => { w with
    fbTask := w.fb, fb := h, handler := true, rposTask := w.rpos, frameOpenTask := w.frameOpen, frameOpen := false
    galignTask := w.galign, galign := none
    trapc := w.trapc &&& ~~~(0x80000000 : Word)
    colEnd := Sparse.set 0 (Sparse.set 0 w.colEnd 8 0) 15 0 }
  .next ((s.beginFetch slot r (bitsOf s.row.tvec.toNat 0 18)).checkFirst r n)

/-- A handler's HALT (R188): the row asks to resume when RES = 1, otherwise the task ends; the task's frame, return stack and
position come back into force. -/
def State.endHandler (s : State) : State :=
  let slot := s.cur.slot
  let r := s.cur.row
  let fatal := (s.task.stop.map (·.fatal)).getD false
  let res := s.row.trapc.getLsbD 31
  let s := { s with agenda := s.agenda.filter fun e =>
    !(e.gang && e.slot == slot && e.row == r && e.part == Part.free && e.work.issues) }
  let s := s.hereRow fun w => { w with
    handler := false, fb := w.fbTask, rpos := w.rposTask, frameOpen := w.frameOpenTask, galign := w.galignTask, galignTask := none, clauses := w.clauses.filter fun c => !c.handler }
  if res && !fatal then (s.hereRow fun w => { w with wantsResume := true }).checkResume slot else s.terminate slot (s.endReport slot)

/-- SINGLE_STEP_TRAP (R178, R189). -/
def execSingleStepTrap (s : State) : Out :=
  .next (if s.row.handler || !s.row.running then s
    else ({ s with cur := { s.cur with core := 0 } } : State).takeTrap 1 false s.gcc { code := 0x0E, addr := s.nextWordAddr s.cur.row 0 })

/-! ## Discards (R394) -/

/-- Every row that has not halted has an open region. -/
def State.regionsOpen (s : State) (slot : Slot) : Bool :=
  (s.rowsOf slot).all fun r => s.rows[r].halted.isSome || s.rows[r].region.isSome

/-- Every row of the other members that has not halted has an open region, as they have reported (R394). -/
def Task.peersOpen (t : Task) : Bool :=
  (List.range t.members).all fun m => m == t.rank || (List.range t.nrows).all fun r =>
    (t.points.any fun p => p.kind == .halt && p.rank == m && p.row == r) || t.peerRegions.any fun x => x.1 == m && x.2.1 == r

/-- A discard is announced for GCC `d` (R394). -/
def State.announceDiscard (slot : Slot) (d : Nat) (s : State) : State :=
  (s.modTask slot fun t => { t with preempt := t.preempt.map fun p => { p with discardAt := some d, lapsed := false } }).add
    { gang := true, due := d, rank := 44, slot := slot, work := .ev .discard }

/-- The hold master, which is with rank 0, announces a discard once every row of the gang that has not halted has an open region
(R394). -/
def State.checkDiscard (slot : Slot) (s : State) : State :=
  let t := (s.taskAt slot)
  match t.preempt with
  | none => s
  | some p =>
    if p.pkt.disc && p.pending && p.discardAt.isNone && p.taken.isNone && t.stop.isNone && t.ending.isNone && t.rank = 0
        && s.regionsOpen slot && t.peersOpen then
      let d := s.gccAt slot t.llead
      let s := s.announceDiscard slot d
      if 1 < t.members then s.send (.note 0x31 [t.taskid, d]) else s
    else s

/-- A region has closed: a discard that has been announced lapses (R394). -/
def State.lapseDiscard (slot : Slot) (s : State) : State :=
  s.modTask slot fun t => { t with preempt := t.preempt.map fun p => { p with lapsed := p.lapsed || p.discardAt.isSome } }

/-- A row of another member has opened or closed its region (R394): `arg` is the entry GCC. -/
def State.regionReport (r : Point) (s : State) : State :=
  let slot := s.cur.slot
  let gone := fun (t : Task) => t.peerRegions.filter fun x => !(x.1 == r.rank && x.2.1 == r.row)
  if r.kind = .idemb then (s.modTask slot fun t => { t with peerRegions := gone t ++ [(r.rank, r.row, r.arg)] }).checkDiscard slot
  else (s.modTask slot fun t => { t with peerRegions := gone t }).lapseDiscard slot

/-- A comparison of the hold master takes a report (R40, R446): one that differs announces a stop, and the first starts the time within
which the others must come, in a GALIGN of scope 0 those of the same package (R164; log entry 40). -/
def State.comparePoint (r : Point) (s : State) : State :=
  let slot := s.cur.slot
  let t := s.task
  let same := t.points.filter fun p => p.kind == r.kind && p.k == r.k && r.kind != .halt
  let alone := r.kind == .galign && r.arg == 0
  let s := s.hereTask fun t => { t with points := t.points ++ [r] }
  if same.any (pointDiffers r) then s.announceStop slot 0x0B
  else if r.kind != .halt && same.all fun p => alone && p.rank != r.rank then
    s.add { gang := false, due := s.dccFirst slot (r.gcc + t.shiftc) + t.llead, slot := slot, args := if alone then [1 + r.rank] else [],
            work := .ev (.reportTimeout r.kind r.k) }
  else s

/-- A report goes to the hold master of a gang of several members (R446). -/
def State.tellMaster (r : Point) (s : State) : State :=
  let t := s.task
  let kind := match r.kind with
    | .slack => 0
    | .prept => 1
    | .galign => 2
    | .halt => 3
    | .idemb => 4
    | .ideme => 5
  if r.rank = t.rank && decide (1 < t.members) then s.send (.note 0x33 [t.taskid, t.rank, r.row, kind, r.k, r.gcc, r.arg]) else s

/-- POINT_REPORT (R40, R164, R168, R394, R446): a GALIGN or HALT may complete an alignment; a HALT or an opened region may let a discard
be announced. Cycles are kept less SHIFTC, so that a resume between two reports makes no difference. -/
def execPointReport (r : Point) (s : State) : Out :=
  let slot := s.cur.slot
  let s := s.tellMaster r
  .next (if r.kind = .idemb || r.kind = .ideme then (if r.rank = s.task.rank then s else s.regionReport r)
    else
      let s := s.comparePoint { r with gcc := r.gcc - s.task.shiftc }
      let s := if r.kind == .galign || r.kind == .halt then s.alignReady slot else s
      if r.kind == .halt then s.checkDiscard slot else s)

/-! ## Resume -/

/-- A GCC value at or after a stop moves by the shift. -/
def shiftFrom (σ d x : Nat) : Nat := if σ ≤ x then x + d else x

/-- The part of a span of cycles at or after a stop moves by the shift (R318). -/
def splitSpan (σ d first len : Nat) : List (Nat × Nat × Nat) :=
  if σ ≤ first then [(first + d, 0, len)]
  else if first + len ≤ σ then [(first, 0, len)]
  else [(first, 0, σ - first), (σ + d, σ - first, first + len - σ)]

/-- Engine-port accesses after a resume (R318). -/
def EngClaim.shift (σ d : Nat) (k : EngClaim) : List EngClaim :=
  (splitSpan σ d k.start (ceilDiv k.n k.per)).map fun (f, skip, len) =>
    { k with start := f, la := k.la + skip * k.per, n := min (k.n - skip * k.per) (len * k.per) }

/-- A core after a resume (R184, R297). -/
def Core.resume (d : Nat) (c : Core) : Core :=
  match c.sigma with
  | none => c
  | some σ => { c with
      sigma := none, frozen := false, trapped := false
      lfree := shiftFrom σ d c.lfree, sfree := shiftFrom σ d c.sfree
      lwcc := if c.lwcc = 0 then 0 else shiftFrom σ d c.lwcc, last := if c.last = 0 then 0 else shiftFrom σ d c.last
      port := c.port.map fun p => { p with cycle := shiftFrom σ d p.cycle }
      eng := c.eng.flatMap (EngClaim.shift σ d)
      rx := c.rx.map fun (k, b) => (k, { b with announced := b.announced.map (shiftFrom σ d) })
      strAt := shiftFrom σ d c.strAt }

/-- A clause after a resume (R184): one found late at its start, the primary trap, stays late (R178): log entry 166. -/
def Clause.resume (σ d : Nat) (c : Clause) : Clause :=
  { c with fb := c.fb.map fun x => (x + d) % 2 ^ 64, delivered := c.delivered.map (shiftFrom σ d) }

/-- The clause at `a` and those before it in the stream have been delivered when the gang goes on: the dispatcher reads on behind them. -/
def Row.deliverTo (a : Nat) (w : Row) : Row :=
  let waits := fun (c : Clause) => !c.handler && !c.dropped && c.delivered.isNone && !(c.cls == 7 && c.fault.isSome)
  match w.clauses.find? fun c => c.addr == a && !c.handler && !c.dropped && (c.early || c.delivered.isNone) with
  | none => w
  | some x =>
    let new := ((w.clauses.takeWhile fun c => c.id != x.id) ++ [x]).filter waits
    let left := w.refeed.filter fun b => !new.any fun c => c.addr == b
    let next := match left with
      | b :: _ => some b
      | [] => if x.fault.isSome || w.framed x.addr then none else some (x.addr + 1 + x.cnt)
    { w with
      clauses := (w.clauses.filter fun c => !(c.cls == 7 && c.id != x.id && new.any fun n => n.id == c.id)).map fun c =>
        if c.id = x.id then { c with early := false, read := true, delivered := some 0 }
        else if new.any fun n => n.id == c.id then { c with read := true, delivered := some 0 } else c
      rpos := if new.isEmpty then w.rpos else w.rpos.bind fun _ => next
      refeed := if new.isEmpty || w.rpos.isNone then w.refeed else left.drop 1 }

/-- The header addresses of the clauses whose secondary dispatch trap 0x03 a row holds (R178, R180, R194). -/
def State.lateClauses (s : State) (r : Fin 8) : List Nat :=
  let at' := fun (w : Word) => if w.toNat / 2 ^ 56 = 3 && w.getLsbD 51 then some (bitsOf w.toNat 30 18) else none
  let c := s.coreAt r 0
  (if c.trapped then ((at' c.trapf).map (· - 1)).toList else []) ++ if s.rows[r].trapped then (at' s.rows[r].trapfs).toList else []

/-- A dispatch trap 0x03 that was secondary succeeds when the gang goes on (R178): its clause has been delivered. -/
def State.redispatch (r : Fin 8) (s : State) : State := s.modRow r fun w => (s.lateClauses r).foldl (fun w a => w.deliverTo a) w

/-- A row's sequencer after a resume (R184): its frame bases move, and what it counts in GCC with them. -/
def Row.resume (d : Nat) (r : Row) : Row :=
  let σ := r.sigma.getD 0
  { r with
    sigma := none, frozen := false, trapped := false, front := none, wantsResume := false
    fb := (r.fb + d) % 2 ^ 64
    clauses := r.clauses.map (Clause.resume σ d)
    colEnd := r.colEnd.map fun (k, x) => (k, x + d)
    claims := r.claims.flatMap fun k => (splitSpan σ d k.first k.len).map fun (f, _, n) => { k with first := f, len := n }
    slackAt := r.slackAt + d
    halted := r.halted.map (shiftFrom σ d)
    galign := r.galign.map fun (k, g, n) => (k, g + d, n)
    region := r.region.map fun g => { g with fb := (g.fb + d) % 2 ^ 64, entry := g.entry + d } }

/-- A run after a resume (R365): its launch keeps its place to the entry of an open region (R366). -/
def Run.resume (d : Nat) (u : Run) : Run :=
  { u with g := u.g + d, p0 := u.p0 + d, before := { u.before with p0 := u.before.p0 + d, c := u.before.c + d } }

/-- The agenda after a resume (R182, R184): what the stop front held takes place its shift later. -/
def State.resumeEntry (s : State) (slot : Slot) (d : Nat) (e : Entry) : Entry :=
  if s.frontHolds slot e then { e with due := e.due + d } else e

/-- The completion of a transfer after a resume (R184): a read completes at its core, a write at the modules. -/
def State.resumeXfer (s : State) (d : Nat) (t : Task) (x : Xfer) : Xfer :=
  let moves := if x.writes then atOrAfter t.schedFreeze x.wcc else atOrAfter (s.coreAt x.row x.core).sigma (x.wcc - 1)
  if moves then { x with wcc := x.wcc + d } else x

/-- A request that a transfer has made is for a delivery that one of the marks still names (R34). -/
def asks (ls : List LateMark) (x : Nat × Nat) : Bool := ls.any fun l => (l.id, l.due) == x

/-- The whole gang of a slot resumes with a shift (R184, R185). -/
def State.resumeAll (slot : Slot) (d : Nat) (s : State) : State :=
  let t := (s.taskAt slot)
  let effects := t.effects.map fun (k, g, x) => (k, g, max (s.effectMove slot (fun _ => d) d k x) (x + t.awayMove d d k x))
  let lates := t.lates.map fun l =>
    match t.xfers.find? fun x => x.id == l.id || snapMark x.id == l.id with
    | some x => { l with due := l.due + ((s.resumeXfer d t x).wcc - x.wcc) }
    | none => { l with due := shiftFrom (t.schedFreeze.getD t.gcc) d l.due }
  let xfers := t.xfers.map (s.resumeXfer d t)
  let s := { s with agenda := s.agenda.map (s.resumeEntry slot d) }
  let s := s.moveEgress t d fun _ => d
  let s := forEach (s.rowsOf slot) State.redispatch s
  let s := forEach (s.rowsOf slot) (fun r s => forEach all8 (fun c s => s.modCore r c (Core.resume d)) (s.modRow r (Row.resume d))) s
  ((s.modTask slot fun t => { t with
    shiftc := t.shiftc + d, stop := none, schedFreeze := none
    xfers := xfers, lates := lates, effects := effects, aways := t.moveAways d fun _ => d, asked := t.asked.filter (asks lates)
    stalls := t.stalls.map (Stall.resume t.schedFreeze d)
    records := t.records.map fun (k, r) => (k, { r with p0 := r.p0 + d, c := r.c + d })
    peerP0 := t.peerP0.map fun (n, k, r, p) => (n, k, r, p + d)
    peerRegions := t.peerRegions.map fun (m, r, x) => (m, r, x + d)
    runs := t.runs.map (Run.resume d), doneRuns := t.doneRuns.map (Run.resume d) }).startDrains slot).recall slot

/-- The shift of a resume or restart (R173, R184): 256 ⌈(g + 2 L_lead + 64 − x) / 256⌉. -/
def shiftOf (g llead x : Nat) : Nat := 256 * ceilDiv (g + 2 * llead + 64 - x) 256

/-- GANG_RESUME (R184, R189): its entry says the GCC at which the last request reached the hold master and the least stop GCC that the
other members reported; where it says neither they are this package's own. A debugger hold ends first, at a whole quantum. -/
def execGangResume (s : State) : Out :=
  let slot := s.cur.slot
  let t := s.task
  .next (if t.stop.isNone || t.ending.isSome then s
    else if t.held then (s.endDebug slot).add { s.cur with gang := true, due := t.gcc, rank := 0, ord := 2, part := .free }
    else (s.resumeAll slot (shiftOf (s.arg 0 t.gcc) t.llead (min (s.arg 1 (s.sigmaMin slot)) (s.sigmaMin slot)))).checkDiscard slot)

/-! ## Idempotent regions -/

/-- The plan whose run a piece of work belongs to (R358). -/
def Work.plan? : Work → Option Nat
  | .ev (.planRecv p _) => some p
  | .ev (.planSend p _ _) => some p
  | .ev (.planReduce p _ _) => some p
  | .ev (.planForward p _ _) => some p
  | .ev (.planDeliver p _ _) => some p
  | .ev (.beatLanding m) => some m.plan
  | .ev (.runCompletion p) => some p
  | .cont (.chunkWrite p _ _) => some p
  | .cont (.deliverBeat _ _ _ p _) => some p
  | .cont (.countByte p _) => some p
  | .cont (.pairing p) => some p
  | .cont (.planFault p _ _) => some p
  | _ => none

/-- Work of a row in its handler (R186, R187), which the stop front does not hold. -/
def Work.handles : Work → Bool
  | .ev (.registerWriteBack _) => true
  | .ev .handlerEntry => true
  | .cont (.voteSample _ _ _ _ _ _) => true
  | .cont (.crdSample _ _ _ _) => true
  | .cont (.cwrCore _ _) => true
  | .cont (.trapAfter _ _) => true
  | w => w.issues

/-- Work that a restart throws away (R173): everything of the rows and cores, their handlers' too, but counter windows and what belongs
to writes still on their way (their source reads, the release of their bytes), and the snapshots and returns of what the regions
fetched; of a plan's run what is still to come, where the run is `gone` (R366). -/
def discarded (gone : Nat → Bool) (e : Entry) : Bool :=
  match e.work.plan? with
  | some n => gone n
  | none => match e.part, e.work with
    | .free, w => w.handles
    | _, .ev (.eventCounterWindow _) => false
    | _, .cont (.release _) => false
    | _, .cont (.sourceRead _ _) => false
    | _, .ev .ingressBufferDrain => false
    | _, .ev (.mcmdCompletion _) => false
    | .sched, .ev (.fetchSnapshot _) => true
    | .sched, .ev (.mcmdBlockEffect _ _ _) => false
    | .sched, _ => false
    | _, _ => true

/-- The completion of a module command that a restart keeps releases its charge; its barrier's byte belongs to what is thrown
away (R173). -/
def Entry.kept (e : Entry) : Entry :=
  match e.work with
  | .ev (.mcmdCompletion _) => { e with work := .cont (.release 64) }
  | _ => e

/-- Bytes that the allowance of a core has still to release (R303). -/
def State.toRelease (s : State) (slot : Slot) (r c : Fin 8) : Nat :=
  (s.agenda.map fun e => match e.work with
    | .cont (.release n) => if e.gang && e.slot == slot && e.row == r && e.core == c then n else 0
    | _ => 0).foldl (· + ·) 0

/-- The engine-port accesses of the source reads that a core has still to make (R135, R173). -/
def State.readClaims (s : State) (slot : Slot) (r c : Fin 8) : List EngClaim :=
  s.agenda.filterMap fun e => match e.work with
    | .cont (.sourceRead id k) =>
      if e.gang && e.slot == slot && e.row == r && e.core == c then
        ((s.taskAt slot).xfers.find? fun x => x.id == id).map fun x => ⟨e.due, x.la + k * x.s, x.n - k * x.s, x.s, x.sw⟩
      else none
    | _ => none

/-- The engine-port accesses of a core that the runs of a slot have still to make after a restart with shift `d` (R135, R365, R366). -/
def State.runReadClaims (s : State) (slot : Slot) (d : Nat) (r c : Fin 8) : List EngClaim :=
  let t := (s.taskAt slot)
  t.runs.flatMap fun u => match t.plan? u.plan with
    | none => []
    | some p => (u.lsReads (p.mine t.rank)).flatMap fun (row, col, first, n, la, w) =>
      if row == s.rows[r].rowid && col == c.1 then EngClaim.shift (t.schedFreeze.getD t.gcc) d ⟨first, la, n * w, w, 0⟩ else []

/-- A core at a restart (R173, R297, R320): σ is its stop GCC. -/
def Core.restart (now d infl : Nat) (eng : List EngClaim) (c : Core) : Core :=
  let σ := c.sigma.getD now
  { c with
    sigma := none, frozen := false, trapped := false
    pcnt := 0, psrc := false, pmod := 0, paddr := 0
    lfree := shiftFrom σ d c.lfree, sfree := shiftFrom σ d c.sfree
    lwcc := if c.lwcc = 0 then 0 else shiftFrom σ d c.lwcc, last := if c.last = 0 then 0 else shiftFrom σ d c.last
    infl := infl, rx := [], port := [], eng := eng, stream := none }

/-- A row at a restart (R171, R173): its snapshot, with the frame base moved; its count of cycles without a SLACK goes on, moved as well
(log entry 153). -/
def Row.restart (d : Nat) (poison : Bool) (g : Region) (r : Row) : Row :=
  { r with
    k := g.k, q := g.q, rstack := g.rstack, fb := (g.fb + d) % 2 ^ 64
    clauses := [], colEnd := [], claims := [], frameOpen := false, galign := none, galignTask := none, rpos := none, refeed := []
    sigma := none, frozen := false, trapped := false, front := none, wantsResume := false, handler := false
    running := true, halted := none
    nSlack := g.counts.1, nPrept := g.counts.2.1, nGalign := g.counts.2.2, slackAt := r.slackAt + d
    region := some { g with fb := (g.fb + d) % 2 ^ 64, entry := g.entry + d, restarted := g.restarted || poison, redo := true } }

/-- A put that waits for a port, or a beat of one of the runs that are gone, is thrown away with the region (R173, R366). -/
def Sent.undone (t : Task) (gone : List Run) : Sent → Bool
  | .put p _ _ due => decide (t.gcc ≤ due) && t.aways.any fun a => a.2.1 == p.order
  | .beat m _ _ => m.rank == t.rank && gone.any fun u => u.plan == m.plan
  | _ => false

/-- A point report that a restart undoes. -/
def undone (r : Row) (g : Region) (p : Point) : Bool :=
  p.row == r.rowid && match p.kind with
    | .slack => decide (g.counts.1 < p.k)
    | .prept => decide (g.counts.2.1 < p.k)
    | .galign => decide (g.counts.2.2 < p.k)
    | _ => true

/-- A run was launched at or after the entry of the region that its row has open (R366). -/
def State.inRegion (s : State) (u : Run) : Bool :=
  match s.rows[u.row].region with
  | some g => decide (g.entry ≤ u.g)
  | none => false

/-- Throw away what the open regions have done so far (R173, R366): pending work, fetches, puts on their way, runs launched at or after
their row's entry, whose plans' records stand again as they did before the first of them, and the bytes charged for what is gone. -/
def State.discardRegions (slot : Slot) (s : State) : State :=
  let t := (s.taskAt slot)
  let mine := fun (e : Entry) => e.gang && e.slot == slot
  let gone := fun (u : Run) => match s.rows[u.row].region with
    | some g => decide (g.entry ≤ u.g)
    | none => true
  let past := t.doneRuns.filter s.inRegion ++ t.runs.filter gone
  let left := fun (n : Nat) => Sparse.get 0 t.runCount n - (past.filter fun u => u.plan == n).length
  let lost := discarded fun n => t.runs.any fun u => u.plan == n && gone u
  let s := { s with agenda := (s.agenda.filter fun e => !(mine e && lost e)).map fun (e : Entry) => if mine e then e.kept else e }
  let s := s.modTask slot fun t => { t with
    xfers := t.xfers.filter Xfer.writes
    lates := t.lates.filter fun l => t.xfers.any fun x => x.id == l.id && x.writes
    effects := t.effects.filter fun (k, _, v) => decide (v < t.gcc) || t.xfers.any fun x => x.writes && x.wcc == v && 8 * x.row.1 + x.core.1 == k
    aways := t.aways.filter fun (_, _, x) => decide (x < t.gcc)
    runs := t.runs.filter fun u => !gone u
    doneRuns := t.doneRuns.filter fun u => !s.inRegion u
    records := past.foldr (fun (u : Run) m => Sparse.set {} m u.plan u.before) t.records
    runCount := past.foldl (fun m (u : Run) => Sparse.set 0 m u.plan (left u.plan)) t.runCount
    peerP0 := t.peerP0.filter fun (n, k, _, _) => !(past.any fun u => u.plan == n && decide (left n < k)) }
  let s := s.modPkg fun p => { p with su := Sparse.mapVals {} (fun q => { q with egress := q.egress.filter fun x => !x.undone t past }) p.su }
  let s' := forEach ((t.xfers.filter fun x => !x.writes).map (·.id)) (fun id s => s.arrived id) { s with cur := { s.cur with slot := slot } }
  { s' with cur := s.cur }

/-- The time limit of a comparison whose reports a restart has all undone (R446). -/
def Entry.unasked (pts : List Point) (e : Entry) : Bool :=
  match e.work with
  | .ev (.reportTimeout kind k) => !pts.any fun p => p.kind == kind && p.k == k && (e.args.head?.all fun x => x == 1 + p.rank)
  | _ => false

/-- The gang's regions restart with a shift (R173): what the modules and cores hold of issued writes resumes with it (R324), and so do
the runs launched before their regions' entries (R365, R366). -/
def State.restartAll (slot : Slot) (d : Nat) (poison : Bool) (s : State) : State :=
  let now := (s.taskAt slot).gcc
  let rs := s.rowsOf slot
  let pts := (s.taskAt slot).points.filter fun p => !rs.any fun r => match s.rows[r].region with
    | some g => undone s.rows[r] g p
    | none => false
  let s := { s with agenda := s.agenda.filter fun e => !(e.slot == slot && e.unasked pts) }
  let s := s.discardRegions slot
  let t := (s.taskAt slot)
  let effects := t.effects.map fun (k, g, x) => (k, g, s.effectMove slot (fun _ => d) d k x)
  let lates := t.lates.map fun l => { l with due := if atOrAfter t.schedFreeze l.due then l.due + d else l.due }
  let xfers := t.xfers.map (s.resumeXfer d t)
  let s := { s with agenda := s.agenda.map (s.resumeEntry slot d) }
  let s := forEach rs (fun r s =>
    let s := forEach all8 (fun c s => s.modCore r c (Core.restart now d (s.toRelease slot r c) (s.readClaims slot r c ++ s.runReadClaims slot d r c))) s
    match s.rows[r].region with
    | some g => (s.modRow r (Row.restart d poison g)).beginFetch slot r g.addr
    | none => s) s
  let s := forEach rs (fun r s => s.add
    { gang := true, due := s.rows[r].slackAt + 4194304, rank := 4, slot := slot, row := r, part := .seq, work := .ev .slackStarvation }) s
  ((s.modTask slot fun t => { t with
    shiftc := t.shiftc + d, stop := none, schedFreeze := none
    points := pts, xfers := xfers, lates := lates, effects := effects, asked := t.asked.filter (asks lates)
    records := t.records.map fun (k, r) => (k, if t.runs.any fun u => u.plan == k then { r with p0 := r.p0 + d, c := r.c + d } else r)
    peerP0 := t.peerP0.map fun (n, k, r, p) => (n, k, r, p + d)
    peerRegions := t.peerRegions.map fun (m, r, x) => (m, r, x + d)
    stalls := t.stalls.map (Stall.resume t.schedFreeze d)
    runs := t.runs.map (Run.resume d), doneRuns := t.doneRuns.map (Run.resume d) }).startDrains slot).recall slot

/-- REGION_RESTART (R173, R321): its entry says the restart GCC D, the earliest entry GCC among the rows of the other members, whether
the poison-restart flags are set and whether every row of the gang allows it; where it does not, the trap is handled like any other. A gang
of one member decides by itself. -/
def execRegionRestart (s : State) : Out :=
  let slot := s.cur.slot
  let t := s.task
  let rs := s.rowsOf slot
  .next (if t.ending.isSome then s
    else if s.arg 3 1 = 0 then
      forEach (rs.filter s.rowFrozen) (fun r s => s.rowStopped slot r) (s.hereTask fun t => { t with stop := t.stop.map fun st => { st with restart := false } })
    else if rs.any fun r => s.rows[r].region.isNone then s.terminate slot (s.endReport slot)
    else s.restartAll slot (shiftOf (s.arg 0 t.gcc) t.llead (min (s.arg 1 (s.firstEntry slot)) (s.firstEntry slot))) (s.arg 2 1 != 0))

end Sys2Proof.Machine
end

