-- ==== Sys2Proof/Machine/Window.lean ====
section
/-! DEFINITION. Column F without the module words (10_window.md): shapes, fetches, gathers, stores and scatters, arrival
barriers, the allowance and fences, and the landings at the core. -/

namespace Sys2Proof.Machine

open Sys2Proof

/-! ## Shapes (R298, R299) -/

/-- SIZE of dimension `d`. -/
def shpSize (g : BitVec 256) (d : Nat) : Nat := bitsOf g.toNat (64 * d + 40) 24

/-- STR of dimension `d`. -/
def shpStr (g : BitVec 256) (d : Nat) : Int := if d = 0 then signedOf (bitsOf g.toNat 8 32) 32 else signedOf (bitsOf g.toNat (64 * d) 40) 40

/-- TY of a shape. -/
def shpTy (g : BitVec 256) : Nat := bitsOf g.toNat 0 5

/-- Element size of a type code (R298). -/
def shpEsz (ty : Nat) : Nat :=
  if ty = 2 || ty = 3 || ty = 18 || ty = 19 then 2 else if ty = 1 || ty = 20 || ty = 21 then 4 else if ty = 22 then 8 else 1

/-- Bytes of a transfer through a shape (R299). -/
def shpBytes (g : BitVec 256) : Nat := shpEsz (shpTy g) * shpSize g 0 * shpSize g 1 * shpSize g 2 * shpSize g 3

/-- Replace bits [lo + w − 1 : lo] of a shape. -/
def setField (g : BitVec 256) (lo w : Nat) (x : Int) : BitVec 256 :=
  BitVec.ofNat 256 (g.toNat - bitsOf g.toNat lo w * 2 ^ lo + wrapTo w x * 2 ^ lo)

/-- The row (index of dimension 3) of byte `j` in landing order. -/
def shpRow (g : BitVec 256) (j : Nat) : Nat := j / (shpEsz (shpTy g) * shpSize g 0 * shpSize g 1 * shpSize g 2)

/-- x(j) of R299; a gather or scatter takes its rows from the index list. -/
def Xfer.tensor (x : Xfer) (j : Nat) : Nat :=
  let g := x.shape
  let esz := shpEsz (shpTy g)
  let e := j / esz
  let i0 := e % shpSize g 0
  let i1 := e / shpSize g 0 % shpSize g 1
  let i2 := e / (shpSize g 0 * shpSize g 1) % shpSize g 2
  let i3 := shpRow g j
  let r : Int := if x.idx.isEmpty then i3 else x.idx.getD i3 0
  wrapTo 64 ((x.base.toNat : Int) + i0 * shpStr g 0 + i1 * shpStr g 1 + i2 * shpStr g 2 + r * shpStr g 3 + (j % esz : Nat))

/-- Byte `j` of the transfer belongs to a row with a poisoned index. -/
def Xfer.badRow (x : Xfer) (j : Nat) : Bool := x.bad.getD (shpRow x.shape j) false

/-! ## Extents (R144 to R147) -/

/-- The module and module address of a tensor address that an extent with the needed permissions holds. -/
def extentOf (es : List Extent) (x : Nat) (r w a : Bool) : Option (Nat × Nat) :=
  (es.find? fun e => decide (e.taddr ≤ x) && decide (x < e.taddr + e.size) && decide (x < 2 ^ 48)
    && (!r || e.r) && (!w || e.w) && (!a || e.a)).map fun e => (e.md, e.maddr + (x - e.taddr))

/-- What the extents of a core hold. -/
def Core.extent (c : Core) (x : Nat) (r w a : Bool) : Option (Nat × Nat) := extentOf c.extents x r w a

/-- Module and module address of a tensor address, whatever the permission. -/
def State.locate (s : State) (x : Xfer) (t : Nat) : Option (Nat × Nat) :=
  extentOf (if x.ext.isEmpty then (s.coreAt x.row x.core).extents else x.ext) t false false false

/-- Module and module address of byte `j` of a transfer. -/
def State.located (s : State) (x : Xfer) (j : Nat) : Option (Nat × Nat) := if x.badRow j then none else s.locate x (x.tensor j)

/-- The modules that serve a transfer. -/
def State.modulesOf (s : State) (x : Xfer) : List Nat :=
  ((List.range x.n).filterMap fun j => (s.located x j).map Prod.fst).eraseDups

/-! ## Places in time -/

/-- CH of R323. -/
def chIndex (rank rowid col : Nat) : Nat := 64 * rank + 8 * rowid + col

/-- The place of a channel's effects among those of one cycle at the modules (R323): by pod slot of the gang's rank-0 package,
then by channel; snapshots of the cycle come before all of them. Log entry 119: two gangs with one rank-0 slot and one channel come in the
order in which the work was put on the agenda. -/
def schedRank (pod0 ch : Nat) : Nat := 100 + pod0 * 2 ^ 19 + ch

/-- Put an operation of the present core's transfer on its channel (R323, R324). Log entry 118: two effects of one channel in one cycle
come in the order of their issue. -/
def State.addSched (s : State) (due rank : Nat) (w : Work) : State :=
  s.add { s.cur with gang := true, due := due, rank := rank, ord := s.next, part := .sched, urgent := false, args := [], work := w }

/-- The channel index of the present core. -/
def State.channel (s : State) : Nat := chIndex s.task.rank s.row.rowid s.cur.core.1

/-- The place of the present core's channel. -/
def State.chRank (s : State) : Nat := schedRank s.task.pod0 s.channel

/-- Replace a transfer of the present task. -/
def State.modXfer (s : State) (id : Nat) (f : Xfer → Xfer) : State :=
  s.hereTask fun t => { t with xfers := t.xfers.map fun x => if x.id = id then f x else x }

/-- A transfer of the present task. -/
def State.xfer? (s : State) (id : Nat) : Option Xfer := s.task.xfers.find? fun x => x.id == id

/-! ## Shapes in registers -/

/-- SHP load (R310). -/
def execShpLoad (h : Hdr) (f : RRR) (s : State) : Out :=
  .next (coreWord h (fun s => s.writeBack 1 [.g f.d.toNat (s.task.shapes.getD (f.aux.toNat % 256) 0)]) s)

/-- The values an SHP edit accepts (R310). -/
def editOk (dim : Nat) (stride : Bool) (v : Int) : Bool :=
  if !stride then decide (0 ≤ v) && decide (v ≤ 16777215)
  else if dim = 0 then decide (-(2 ^ 31) ≤ v) && decide (v < 2 ^ 31)
  else decide (-(2 ^ 39) ≤ v) && decide (v < 2 ^ 39)

/-- A shape with SIZE or STR of a dimension replaced (R298, R310). -/
def shpEdited (g : BitVec 256) (dim : Nat) (stride : Bool) (v : Int) : BitVec 256 :=
  if !stride then setField g (64 * dim + 40) 24 v else if dim = 0 then setField g 8 32 v else setField g (64 * dim) 40 v

/-- SHP edit (R310). -/
def execShpEdit (h : Hdr) (f : RRR) (s : State) : Out :=
  .next (coreWord h (fun s =>
    let v := (s.opB f).toInt
    let dim := f.aux.toNat % 4
    let stride := f.aux.getLsbD 2
    if editOk dim stride v then s.writeBack 1 [.g f.d.toNat (shpEdited (Sparse.get 0 s.core.g f.a.toNat) dim stride v)]
    else s.trapWord 7 5) s)

/-! ## Issue of a transfer (R311 to R313) -/

/-- What a transfer word asks of its core: the index list's address and length, the lanes and the permissions. -/
structure XferAsk where
  x : Xfer
  list : Option Nat := none
  m : Nat := 0
  landing : Bool
  source : Bool
  charge : Nat
  r : Bool := false
  w : Bool := false
  deriving DecidableEq, Repr

/-- The engine-port accesses a transfer schedules (R135, R302): its landing or source run, and its index list. -/
def XferAsk.claims (a : XferAsk) (t u : Nat) : List EngClaim :=
  let x := a.x
  (if a.landing then [⟨t + 8192, x.la, x.n, x.s, x.sw⟩] else [⟨t + u, x.la, x.n, x.s, x.sw⟩])
    ++ match a.list with
      | some l => [⟨t, l, 4 * a.m, 512, 0⟩]
      | none => []

/-- The checks of R311 in order, then the bank check of R135: TRAPC and detail. -/
def State.xferFault (s : State) (a : XferAsk) (u : Nat) : Option (Nat × Nat) :=
  let c := s.core
  let x := a.x
  let l := a.list.getD 0
  if !lsIn x.la x.n || (a.list.isSome && !lsIn l (4 * a.m)) then some (0x0F, 0)
  else if x.la % (if x.sw = 0 then 64 else 512) ≠ 0 || l % 64 ≠ 0 then some (0x0F, 1)
  else if a.list.isSome && decide (128 < a.m) then some (7, 5)
  else if a.list.isSome && !a.landing && c.anyBad (addrs l (4 * a.m)) then some (6, 5)
  else if x.s = 0 then some (7, 3)
  else if a.landing && decide (s.gcc + 8192 < c.lfree) then some (7, 1)
  else if a.source && decide (s.gcc < c.sfree) then some (7, 2)
  else if c.limit < c.infl + a.charge then some (7, 0)
  else if (List.range x.n).any fun j => !x.badRow j && (c.extent (x.tensor j) a.r a.w false).isNone then some (6, 0)
  else if (a.claims s.gcc u).any c.engFails then some (0x0F, 4)
  else none

/-- The index list of a gather or scatter (R312): signed words. -/
def Core.indexList (c : Core) (l m : Nat) : List Int := (List.range m).map fun r => signedOf (Memory.nat c.ls (l + 4 * r) 4) 32

/-- The index words of a list that are poisoned or uncorrectable (R312). -/
def Core.indexBad (c : Core) (l m : Nat) : List Bool := (List.range m).map fun r => (c.cls (l + 4 * r)).bad

/-- The lanes, the charge and the accesses of a transfer that passes (R302, R303). -/
def Core.takeLanes (c : Core) (now : Nat) (ks : List EngClaim) (charge : Nat) (lfree sfree : Option Nat) : Core :=
  let c := ks.foldl (fun c k => c.engAdd now k) c
  { c with infl := c.infl + charge, lfree := lfree.getD c.lfree, sfree := sfree.getD c.sfree }

/-- The index list of a gather or scatter is read (R312, R141). -/
def State.readList (s : State) (a : XferAsk) : State :=
  match a.list with
  | some l => s.engineRead (addrs l (4 * a.m))
  | none => s

/-- A fetch or gather goes out (R312). -/
def State.startFetch (s : State) (a : XferAsk) : State :=
  let t := s.gcc
  let x := a.x
  let x := { x with waits := s.modulesOf x, wcc := t + 8192 + ceilDiv x.n x.s }
  let s := (s.readList a).here fun c => c.takeLanes t (a.claims t 0) a.charge (some (t + 8192 + ceilDiv x.n x.s)) (if a.source then some (t + 2) else none)
  let s := s.hereTask fun t => { t with xfers := t.xfers ++ [x] }
  let s := s.addSched (t + 2048) 90 (.ev (.fetchSnapshot x.id))
  (s.addCore 8192 23 x.id (.ev (.fetchLanding x.id 0))).fresh

/-- A store or scatter goes out (R313); `u` is 1 for a scatter. -/
def State.startStore (s : State) (a : XferAsk) (u : Nat) : State :=
  let t := s.gcc
  let wcc := t + 4096 + u + ceilDiv a.x.n a.x.s
  let x := { a.x with waits := s.modulesOf a.x, wcc := wcc }
  let s := (s.readList a).here fun c =>
    let c := c.takeLanes t (a.claims t u) a.charge none (some (t + u + ceilDiv x.n x.s + 1))
    { c with lwcc := max c.lwcc wcc, last := wcc }
  let s := (s.hereTask fun t => { t with xfers := t.xfers ++ [x] }).noteEffect wcc
  let s := s.add { s.cur with gang := true, due := t + u, rank := 20, ord := 0, part := .core, urgent := u == 0, work := .cont (.sourceRead x.id 0) }
  let s := s.addSched wcc s.chRank (.ev (.storeWriteCompletion x.id))
  (s.addCore (wcc - t) 40 0 (.cont (.release a.charge))).fresh

/-- A word that fails with this trap has passed the checks that come before the reading of its index list (R311, R327). -/
def listRead (code d : Nat) : Bool := !(code == 0x0F && decide (d < 2)) && code != 0x13 && !(code == 7 && d == 5)

/-- A transfer word: a transfer of no bytes does nothing (R299); otherwise the checks of R311, then the transfer. A word that traps
after it has read its index list has had the classes of those words act (R141). -/
def transferWord (h : Hdr) (ask : State → XferAsk) (u : Nat) (go : State → XferAsk → State) : State → State :=
  coreWord h fun s =>
    let a := ask s
    if a.x.n = 0 then s
    else match s.xferFault a u with
      | some (code, d) => (if listRead code d then s.readList a else s).trapWord code d
      | none => go s a

/-- The common part of a transfer word's request. -/
def State.xferOf (s : State) (f : RRR) (kind : XKind) : Xfer :=
  let g := Sparse.get 0 s.core.g f.c.toNat
  { id := s.next, kind := kind, row := s.cur.row, core := s.cur.core, g := s.gcc, ch := s.channel, la := (s.core.ra f.a.toNat).toNat,
    n := shpBytes g, s := s.core.share, sw := f.aux.toNat % 8, shape := g, base := s.opB f }

/-- The address of the index list a word names. -/
def State.listAddr (s : State) (f : RRR) : Nat := (s.core.ra (f.aux.toNat / 8)).toNat

/-- TFETCH (R311, R312). -/
def execTfetch (h : Hdr) (f : RRR) (s : State) : Out :=
  .next (transferWord h (fun s =>
    let x := s.xferOf f .fetch
    { x := { x with bar := if f.aux.getLsbD 3 then some f.d.toNat else none }, landing := true, source := false, charge := x.n, r := true })
    0 (fun s a => s.startFetch a) s)

/-- TSTORE (R311, R313). -/
def execTstore (h : Hdr) (f : RRR) (s : State) : Out :=
  .next (transferWord h (fun s =>
    let x := s.xferOf f .store
    { x := x, landing := false, source := true, charge := x.n, w := true }) 0 (fun s a => s.startStore a 0) s)

/-- TGATH (R311, R312). -/
def execTgath (h : Hdr) (f : RRR) (s : State) : Out :=
  .next (transferWord h (fun s =>
    let x := s.xferOf f .gath
    let l := s.listAddr f
    let m := shpSize x.shape 3
    { x := { x with bar := some f.d.toNat, idx := s.core.indexList l (min m 128), bad := s.core.indexBad l (min m 128) }, list := some l, m := m,
      landing := true, source := true, charge := x.n, r := true }) 0 (fun s a => s.startFetch a) s)

/-- TSCAT (R311, R313). -/
def execTscat (h : Hdr) (f : RRR) (s : State) : Out :=
  .next (transferWord h (fun s =>
    let x := s.xferOf f .scat
    let l := s.listAddr f
    let m := shpSize x.shape 3
    { x := { x with idx := s.core.indexList l (min m 128) }, list := some l, m := m,
      landing := false, source := true, charge := x.n, w := true }) 1 (fun s a => s.startStore a 1) s)

/-! ## At the core: source reads and landings -/

/-- Source-lane read of chunk `k` (R313, R332, R138 rule 1): the bytes, and those that leave poisoned (R143). A schedule that stalled for
want of them has them with the last chunk (R335). -/
def State.sourceRead (s : State) (id k : Nat) : State :=
  match s.xfer? id with
  | none => s
  | some x =>
    let js := addrs (k * x.s) (min x.s (x.n - k * x.s))
    let c := s.core
    let s := s.engineRead (js.map fun j => swizzle x.sw (x.la + j))
    let s := s.modXfer id fun x => { x with
      data := Sparse.setMany 0 x.data (js.map fun j => (j, Memory.byte c.ls (swizzle x.sw (x.la + j))))
      srcPsn := x.srcPsn ++ js.filter fun j => (c.cls (swizzle x.sw (x.la + j))).bad }
    if (k + 1) * x.s < x.n then s.addCore 1 20 0 (.cont (.sourceRead id (k + 1)))
    else if s.task.stalls.any fun st => st.missing.any fun y => y.mark.id == id then s.arrived id else s

/-- Bytes charged to the allowance are released (R303). -/
def State.release (s : State) (n : Nat) : State := s.here fun c => { c with infl := c.infl - n }

/-- Chunk `k` of a fetch, gather or MIRED lands (R142, R303, R305, R312, R320, R331, R445): the bytes of its cycle are written,
released and counted; a transfer absent at its cycle, or whose module has not served it, lands transit poison. -/
def State.land (s : State) (id k : Nat) (again : Work) : State :=
  match s.xfer? id with
  | none => s
  | some x =>
    let js := addrs (k * x.s) (min x.s (x.n - k * x.s))
    let at' := fun (j : Nat) => swizzle x.sw (x.la + j)
    let late := s.task.absent id
    let unserved := fun (j : Nat) => match s.located x j with
      | some (m, _) => x.waits.contains m
      | none => false
    let src := fun (j : Nat) => !late && x.srcPsn.contains j
    let tra := fun (j : Nat) => late || (x.kind != .mired && x.badRow j) || x.traPsn.contains j || (x.kind != .mired && unserved j) || (x.kind == .mired && !x.waits.isEmpty)
    let psn := js.filter fun j => src j || tra j
    let words := ((psn.map fun j => at' j / 8).eraseDups).length
    let first := (js.find? src).bind fun j =>
      if x.kind = .mired then (x.bags.find? fun (q, _, _) => q == j / (4 * shpSize x.shape 0)).map fun (_, m, a) => (m, a) else s.located x j
    let s := s.here fun c =>
      let c := c.store (js.map fun j => (at' j, Sparse.get 0 x.data j)) (psn.map at')
      let c := { c with infl := c.infl - js.length }
      let c := c.landPoison words first
      match x.bar with
      | some w => c.countBar w js.length (!psn.isEmpty) (js.any src) false
      | none => c
    if (k + 1) * x.s < x.n then s.addCore 1 23 id again
    else s.hereTask fun t => { t with xfers := t.xfers.filter fun y => y.id != id, lates := t.lates.filter fun l => l.id != id && l.id != snapMark id, landed := max t.landed x.wcc }

/-- FETCH_LANDING (R312). -/
def execFetchLanding (id k : Nat) (s : State) : Out := .next (s.land id k (.ev (.fetchLanding id (k + 1))))

/-! ## Barriers, registers and fences (R314 to R317) -/

/-- WARM (R305, R314). -/
def execWarm (h : Hdr) (f : RRI) (s : State) : Out :=
  .next (coreWord h (fun s =>
    let v := (s.core.ra f.a.toNat).toNat + f.imm.toNat
    let w := f.d.toNat
    let b := s.core.rw w
    if f.md.getLsbD 0 then
      if 2 ^ 32 ≤ b.pend + v then s.trapWord 7 4
      else s.here fun c => { c with w := Sparse.set {} c.w w { b with pend := b.pend + v } }
    else if 2 ^ 32 ≤ v then s.trapWord 7 4
    else s.here fun c => { c with w := Sparse.set {} c.w w { arm := true, pend := v } }) s)

/-- WCHK (R306, R315). -/
def execWchk (h : Hdr) (f : RRI) (s : State) : Out :=
  .next (coreWord h (fun s =>
    let bad := s.core.waitFault (f.imm.toNat % 65536)
    if f.md.getLsbD 0 then s.writeBack 1 [.p f.d.toNat bad.isNone]
    else match bad with
      | some (i, d) => s.trapWord 4 d i
      | none => s) s)

/-- WALW (R303, R316). -/
def execWalw (h : Hdr) (f : RRR) (s : State) : Out := .next (coreWord h (fun s => s.writeBack 1 [.limit (limitOf (s.opB f).toNat)]) s)

/-- The state word of a barrier (R304). -/
def Barrier.word (b : Barrier) : Word :=
  BitVec.ofNat 64 ((if b.arm then 2 ^ 63 else 0) + (if b.psn then 2 ^ 62 else 0) + (if b.lost then 2 ^ 61 else 0)
    + (if b.ovr then 2 ^ 60 else 0) + (if b.src then 2 ^ 59 else 0) + b.pend)

/-- WRD (R304, R316). -/
def execWrd (h : Hdr) (f : RRR) (s : State) : Out :=
  .next (coreWord h (fun s => s.writeBack 1 [.a f.d.toNat (s.core.rw f.a.toNat).word]) s)

/-- WCCRD (R316). -/
def execWccrd (h : Hdr) (f : RRR) (s : State) : Out :=
  .next (coreWord h (fun s => s.writeBack 1 [.a f.d.toNat (BitVec.ofNat 64 (if f.aux.getLsbD 0 then s.core.last else s.core.lwcc))]) s)

/-- L_s of R153. -/
def fenceDelay (scope llead : Nat) : Nat :=
  if scope = 0 then 0 else if scope = 1 then 16 else if scope = 2 then 64 else if scope = 3 then llead else llead + 1024

/-- The last effect or completion among the operations a fence covers, `f` where it covers none (R153, R154). -/
def Task.covered (t : Task) (scope key f : Nat) : Nat :=
  let mine := (t.effects.filter fun (k, g, _) => decide (g < f) && (decide (2 ≤ scope) || (scope == 1 && k / 8 == key / 8) || k == key)).map fun (_, _, x) => x
  let all := if 3 ≤ scope && 1 < t.members then Config.peerEffect t.taskid f :: mine else mine
  match all with
  | [] => f
  | x :: xs => xs.foldl max x

/-- The completion cycle of a fence (R154). -/
def Task.fenceEnd (t : Task) (scope key f : Nat) : Nat := max (f + fenceDelay scope t.llead) (t.covered scope key f + 1)

/-- MFENCE (R153, R154, R317). -/
def execMfence (h : Hdr) (f : RRI) (s : State) : Out :=
  .next (coreWord h (fun s =>
    let w := f.d.toNat
    let c := s.task.fenceEnd (f.md.toNat % 8) (coreKey s.cur.row s.cur.core) s.gcc
    let s := s.here fun k => { k with w := Sparse.set {} k.w w { arm := true, pend := 1 } }
    s.addCore (c - 1 - s.gcc) 23 s.next (.ev (.mfenceCompletion w))) s)

/-- MFENCE_COMPLETION (R317): one byte counts at the fence's barrier. -/
def execMfenceCompletion (w : Nat) (s : State) : Out := .next (s.here fun c => c.countBar w 1 false false false)

end Sys2Proof.Machine
end

