-- ==== Sys2Proof/Machine/Module.lean ====
section
/-! DEFINITION. The Sortar module engines (11_module.md): the module commands of column F, the channel schedules with
their stalls and drains, what a module does for each entry, sectors and row sparing. -/

namespace Sys2Proof.Machine

open Sys2Proof

/-! ## What a module does for an entry -/

/-- Carry out work of another task slot. -/
def inSlot (slot : Slot) (f : State → State) (s : State) : State :=
  let old := s.cur
  let t := f { s with cur := { s.cur with slot := slot } }
  { t with cur := old }

/-- A module reads the sectors of some places of its memory for the present gang (R337). -/
def State.readSectors (s : State) (key m ch : Nat) (as : List Nat) : State := s.touchSectors m ch s.task.taskid key (as.map (· / 64))

/-- The number in bytes of module memory, as a place in time finds them. -/
def State.modNat (s : State) (key : Nat) (as : List Nat) : Nat :=
  let m := (s.modAt key).1
  leNat (as.map (Memory.byte m))

/-- A transfer is done with a module. -/
def State.served (s : State) (id m : Nat) : State := s.modXfer id fun x => { x with waits := x.waits.erase m }

/-- A transfer that no module has still to serve is forgotten. -/
def State.retire (s : State) (id : Nat) : State :=
  s.hereTask fun t => { t with xfers := t.xfers.filter fun x => !(x.id == id && x.waits.isEmpty) }

/-- The index of a skipped row (R326). -/
def skipRow : Int := -(2 ^ 31)

/-- The tensor addresses of row `r` of a table (R326). -/
def Xfer.rowBytes (x : Xfer) (r : Nat) : List Nat :=
  (List.range (shpEsz (shpTy x.shape) * shpSize x.shape 0)).map fun (b : Nat) =>
    wrapTo 64 ((x.base.toNat : Int) + x.idx.getD r 0 * shpStr x.shape 3 + (b : Int))

/-- The rows of a table that a word uses: no skip, and for a MIRED no poisoned index (R327). -/
def Xfer.rows (x : Xfer) : List Nat :=
  (List.range x.idx.length).filter fun r => x.idx.getD r 0 != skipRow && !x.bad.getD r false

/-- Places of a row in module memory. -/
def State.rowPlaces (s : State) (x : Xfer) (r : Nat) : List Nat :=
  (x.rowBytes r).filterMap fun t => (s.locate x t).map fun (m, a) => modAddr m a

/-- Consecutive pieces of a list. -/
def chunks {α : Type} (w : Nat) (xs : List α) : List (List α) := (List.range (xs.length / w)).map fun i => (xs.drop (w * i)).take w

/-- The snapshot of a fetch or gather at one module (R148, R312, R320). -/
def State.snapBytes (s : State) (key m : Nat) (x : Xfer) : State :=
  let js := (List.range x.n).filterMap fun j => match s.located x j with
    | some (k, a) => if k = m then some (j, modAddr m a) else none
    | none => none
  let s := s.readSectors key m x.ch (js.map Prod.snd)
  let mem := (s.modAt key).1
  s.modXfer x.id fun x => { x with
    data := Sparse.setMany 0 x.data (js.map fun (j, a) => (j, Memory.byte mem a))
    srcPsn := x.srcPsn ++ (js.filter fun (_, a) => (s.sectorAt key a).bad).map Prod.fst }

/-- An element of a table widened for pooling (R125, R331). -/
def poolElem (ty x : Nat) : Nat := if ty = 2 then widen32 .bf16 x else x

/-- The snapshot of a MIRED: its bags are pooled (R331). -/
def State.snapBags (s : State) (key m : Nat) (x : Xfer) : State :=
  let ty := shpTy x.shape
  let esz := shpEsz ty
  let e := shpSize x.shape 0
  let s := s.readSectors key m x.ch (x.rows.flatMap (s.rowPlaces x))
  let bag := fun (q : Nat) => x.rows.filter fun r => r / x.h == q
  let out := (List.range (x.idx.length / x.h)).flatMap fun q =>
    let rows := (bag q).map fun r => (chunks esz (s.rowPlaces x r)).map (s.modNat key)
    (List.range e).flatMap fun k => leBytes 4 (poolSum (ty == 20) (rows.map fun r => poolElem ty (r.getD k 0)))
  let bags := (List.range (x.idx.length / x.h)).filterMap fun q =>
    ((bag q).flatMap (s.rowPlaces x)).find? (fun a => (s.sectorAt key a).bad) |>.map fun a => (q, m, a - m * modSpan)
  let psn := fun (q : Nat) => addrs (4 * e * q) (4 * e)
  let badBags := (List.range (x.idx.length / x.h)).filter fun q => (List.range x.idx.length).any fun r => r / x.h == q && x.bad.getD r false
  s.modXfer x.id fun x => { x with
    data := Sparse.setMany 0 x.data ((List.range out.length).zip out)
    bags := bags, srcPsn := bags.flatMap fun (q, _, _) => psn q
    traPsn := (badBags.filter fun q => !bags.any fun b => b.1 == q).flatMap psn }

/-- The write of a store or scatter at one module (R149, R313, R337). -/
def State.storeAt (s : State) (key m : Nat) (x : Xfer) : State :=
  let js := (List.range x.n).filterMap fun j => match s.located x j with
    | some (k, a) => if k = m then some (j, modAddr m a) else none
    | none => none
  s.modPut { key := key, bytes := js.map fun (j, a) => (a, Sparse.get 0 x.data j),
             psn := (js.filter fun (j, _) => x.srcPsn.contains j || x.traPsn.contains j).map Prod.snd }

/-- One element of a table takes one contribution (R332, R334, R337, R338). -/
def State.addElem (key ty : Nat) (op : NodeOp) (as : List Nat) (y : Nat) (psn : Bool) (s : State) : State :=
  if as.any fun a => (s.sectorAt key a).bad then s
  else
    let t := (Ty.ofCode (BitVec.ofNat 5 ty)).getD .none
    let v := node t op (s.modNat key as) y
    s.modPut { key := key, bytes := as.zip (leBytes as.length v), psn := if psn then as else [] }

/-- MAADD's effect (R332, R338): source bytes that arrive poisoned, from the local store or from a flit, poison what they update. -/
def State.maaddAt (s : State) (key m : Nat) (x : Xfer) : State :=
  let ty := shpTy x.shape
  let esz := shpEsz ty
  let e := shpSize x.shape 0
  let s := s.readSectors key m x.ch (x.rows.flatMap (s.rowPlaces x))
  forEach x.rows (fun r s =>
    forEach ((List.range e).zip (chunks esz (s.rowPlaces x r))) (fun (k, as) s =>
      let js := addrs (esz * (e * r + k)) esz
      s.addElem key ty .add as (leNat (js.map fun j => Sparse.get 0 x.data j)) (js.any fun j => x.srcPsn.contains j || x.traPsn.contains j)) s) s

/-- Offsets of block `b` of a module command (R330). -/
def Xfer.block (x : Xfer) (b : Nat) : List Nat := addrs (16384 * b) (min 16384 (x.len - 16384 * b))

/-- Places of a run of tensor addresses. -/
def State.runPlaces (s : State) (x : Xfer) (base : Nat) (ks : List Nat) : List (Nat × Nat) :=
  ks.filterMap fun k => (s.locate x (base + k)).map fun (m, a) => (k, modAddr m a)

/-- The read of a block of a copy or reduce (R330): its bytes are kept until the block's effect. -/
def State.blockRead (s : State) (key m b : Nat) (x : Xfer) : State :=
  if x.kind = .fill then s
  else
    let ks := s.runPlaces x x.src (x.block b)
    let s := s.readSectors key m x.ch (ks.map Prod.snd)
    let mem := (s.modAt key).1
    s.modXfer x.id fun x => { x with
      data := Sparse.setMany 0 x.data (ks.map fun (k, a) => (k, Memory.byte mem a))
      srcPsn := x.srcPsn ++ (ks.filter fun (_, a) => (s.sectorAt key a).bad).map Prod.fst }

/-- What was read for the blocks up to `b` is used. -/
def Xfer.blockDone (b : Nat) (x : Xfer) : Xfer :=
  { x with data := x.data.filter fun e => decide (16384 * (b + 1) ≤ e.1), srcPsn := x.srcPsn.filter fun k => decide (16384 * (b + 1) ≤ k) }

/-- The effect of a block (R330, R338). -/
def State.blockEffect (s : State) (key m b : Nat) (x : Xfer) : State :=
  let ks := s.runPlaces x x.dst (x.block b)
  match x.kind with
  | .reduce =>
    let s := s.readSectors key m x.ch (ks.map Prod.snd)
    let esz := shpEsz x.ty
    let op : NodeOp := if x.rop = 1 then .min else if x.rop = 2 then .max else .add
    forEach (chunks esz ks) (fun es s =>
      s.addElem key x.ty op (es.map Prod.snd) (leNat (es.map fun (k, _) => Sparse.get 0 x.data k)) (es.any fun (k, _) => x.srcPsn.contains k)) s
  | .fill => s.modPut { key := key, bytes := ks.map fun (k, a) => (a, BitVec.ofNat 8 (x.value.toNat / 256 ^ (k % 8))) }
  | _ => s.modPut { key := key, bytes := ks.map fun (k, a) => (a, Sparse.get 0 x.data k), psn := (ks.filter fun (k, _) => x.srcPsn.contains k).map Prod.snd }

/-- The transfer an entry belongs to. -/
def opId : ModOp → Nat
  | .snapshot id => id
  | .store id => id
  | .maadd id => id
  | .blockRead id _ => id
  | .blockEffect id _ => id

/-- A module carries out an entry of the present gang's schedule, at its place in time (R324, R336). -/
def State.serve (s : State) (key m : Nat) (op : ModOp) : State :=
  match s.xfer? (opId op) with
  | none => s
  | some x =>
    match op with
    | .snapshot id => (if x.kind = .mired then s.snapBags key m x else s.snapBytes key m x).served id m
    | .store id => (((s.storeAt key m x).served id m).retire id).hereTask fun t => { t with lastFx := s.dcc }
    | .maadd id => (((s.maaddAt key m x).served id m).retire id).hereTask fun t => { t with lastFx := s.dcc }
    | .blockRead _ b => s.blockRead key m b x
    | .blockEffect id b =>
      let s := ((s.blockEffect key m b x).modXfer id (Xfer.blockDone b)).hereTask fun t => { t with lastFx := s.dcc }
      if x.len ≤ 16384 * (b + 1) then (s.served id m).retire id else s

/-! ## Stalls and drains (R335, R336, R342) -/

/-- The schedule of the present gang at a module is stalled. -/
def Task.stallAt (t : Task) (m : Nat) : Option Stall := t.stalls.find? fun st => st.md == m

/-- Change the stall of the present gang at a module. -/
def State.modStall (s : State) (m : Nat) (f : Stall → Stall) : State :=
  s.hereTask fun t => { t with stalls := t.stalls.map fun st => if st.md = m then f st else st }

/-- The first address at a module that a transfer of the present gang concerns, 0 where there is none (R375). -/
def State.firstAt (s : State) (id m : Nat) : Nat :=
  match s.xfer? id with
  | none => 0
  | some x =>
    if x.len ≠ 0 then ((s.locate x x.dst).map Prod.snd).getD 0
    else ((List.range x.n).findSome? fun j => match s.located x j with
      | some (k, a) => if k = m then some a else none
      | none => none).getD 0

/-- Something is missing for the present gang's schedule at a module (R335): the schedule is stalled from this cycle, for each missing
thing it asks for a hold of the GCC reached L_lead domain cycles on, and judges it again before that hold's end; the stall itself is
recorded once. What is missing concerns the transfer of its mark, or the transfer `about`. -/
def State.beginStall (s : State) (m : Nat) (ls : List LateMark) (about : Option Nat) : State :=
  let slot := s.cur.slot
  let t := s.task
  let old := (t.stallAt m).map (·.missing) |>.getD []
  let new := ls.filter fun l => !old.any fun k => k.mark.id == l.id
  let ks := new.map fun l => (⟨l, s.dcc, s.holdPoint slot, s.firstAt (about.getD l.id) m⟩ : Missing)
  let s := if (t.stallAt m).isSome then s
    else (({ s with modBase := s.modBase.or (some (s.modMem, s.modCls)) } : State).hereTask fun t => { t with
      stalls := t.stalls ++ [{ md := m, w := t.gcc, pos := t.gcc }] }).modEvent 6 m 0xFF 0 0xFFFFFFFF t.taskid
  let s := s.modStall m fun st => { st with missing := st.missing ++ ks }
  forEach ks (fun k s => (s.stallRequest slot k false).addDomain (s.lastCallOf slot k.hold) 0 (.ev (.lastCall k.mark.id))) s

/-- The places an entry writes at the modules. -/
def State.opWrites (s : State) (op : ModOp) : List Nat :=
  match s.xfer? (opId op) with
  | none => []
  | some x =>
    match op with
    | .snapshot _ => []
    | .blockRead _ _ => []
    | .store _ => (List.range x.n).filterMap fun j => (s.located x j).map fun (m, a) => modAddr m a
    | .maadd _ => x.rows.flatMap (s.rowPlaces x)
    | .blockEffect _ b => (s.runPlaces x x.dst (x.block b)).map Prod.snd

/-- The places whose present value an entry reads. -/
def State.opReads (s : State) (op : ModOp) : List Nat :=
  match s.xfer? (opId op) with
  | none => []
  | some x =>
    match op with
    | .snapshot _ => if x.kind = .mired then x.rows.flatMap (s.rowPlaces x) else (List.range x.n).filterMap fun j => (s.located x j).map fun (m, a) => modAddr m a
    | .store _ => []
    | .blockRead _ b => if x.kind = .fill then [] else (s.runPlaces x x.src (x.block b)).map Prod.snd
    | .maadd _ => x.rows.flatMap (s.rowPlaces x)
    | .blockEffect _ b => if x.kind = .reduce then (s.runPlaces x x.dst (x.block b)).map Prod.snd else []

/-- An entry of a slot writes bytes that another entry reads. -/
def State.feeds (s : State) (slot : Slot) (q : ModOp) (as : List Nat) : Bool :=
  (({ s with cur := { s.cur with slot := slot } } : State).opWrites q).any as.contains

/-- A slot whose stalled schedule at a module an entry has to wait for (R336): the schedule holds an earlier write of bytes that the
entry reads, or something waits for it that writes such bytes or belongs to the same transfer. -/
def State.waitsFor (s : State) (key m : Nat) (op : ModOp) : Option Slot :=
  let as := s.opReads op
  s.slots.find? fun t => match (s.taskAt t).stallAt m with
    | none => false
    | some st =>
      (t != s.cur.slot && st.queue.any fun q => decide (q.key < key) && s.feeds t q.op as)
        || st.waiters.any fun (w, q) => decide (q.key < key) && ((w == s.cur.slot && opId q.op == opId op) || s.feeds w q.op as)

/-- The landing of a snapshot that comes back late is judged like any other (R319, R336). -/
def State.markSnapshot (s : State) (op : ModOp) : State :=
  match op, s.xfer? (opId op) with
  | .snapshot id, some x =>
    let l : LateMark := ⟨snapMark id, x.wcc - ceilDiv x.n x.s, none⟩
    if s.task.lates.contains l then s
    else (s.hereTask fun t => { t with lates := t.lates ++ [l] }).addDomain (max s.dcc (s.lastCallOf s.cur.slot l.due)) 0 (.ev (.lastCall l.id))
  | _, _ => s

/-- A snapshot has been served at every module after all: it is no longer awaited. -/
def State.unmark (s : State) (op : ModOp) : State :=
  match op with
  | .snapshot id =>
    if s.task.xfers.any fun x => x.id == id && !x.waits.isEmpty then s
    else s.hereTask fun t => { t with lates := t.lates.filter fun l => l.id != snapMark id }
  | _ => s

/-- An entry of the present gang's schedule is carried out, or waits for a stalled schedule of another gang (R336). -/
def State.attempt (m : Nat) (q : SchedEntry) (s : State) : State :=
  match s.waitsFor q.key m q.op with
  | some slot => (inSlot slot (fun u => u.modStall m fun st => { st with waiters := st.waiters ++ [(s.cur.slot, q)] }) s).markSnapshot q.op
  | none => (s.serve q.key m q.op).unmark q.op

/-- The transfer of an agenda entry that is due at the modules now (R335). -/
def Entry.dueAt (e : Entry) (slot : Slot) (g : Nat) : Option Nat :=
  if !(e.gang && e.slot == slot && decide (e.due ≤ g)) then none
  else match e.work with
    | .ev (.fetchSnapshot id) => some id
    | .ev (.storeWriteCompletion id) => some id
    | .ev (.maaddEffect id) => some id
    | .ev (.mcmdBlockEffect id _ _) => some id
    | .ev (.moduleScheduleEntry _ op) => some (opId op)
    | _ => none

/-- The source reads of a transfer of the present gang have not all been made: its data have not left the package (R335). -/
def State.unread (s : State) (id : Nat) : Bool :=
  s.agenda.any fun e => e.gang && e.slot == s.cur.slot && match e.work with
    | .cont (.sourceRead i _) => i == id
    | _ => false

/-- The transfers of the present gang that are due at a module in this cycle (R335). -/
def State.dueHere (s : State) (m : Nat) : List Nat :=
  (s.agenda.filterMap fun e => e.dueAt s.cur.slot s.gcc).filter fun id => s.task.xfers.any fun x => x.id == id && x.waits.contains m

/-- What the present gang's schedule at a module lacks in this cycle (R335): requests and data that are reported missing, and data whose
source reads are still to be made. -/
def State.lackingAt (s : State) (m : Nat) (op : ModOp) : List LateMark :=
  let t := s.task
  let ids := (opId op :: s.agenda.filterMap fun e => e.dueAt s.cur.slot t.gcc).eraseDups.filter fun id => t.xfers.any fun x => x.id == id && x.waits.contains m
  ids.filterMap fun id =>
    match t.lates.find? fun l => l.id == id && decide (l.due ≤ t.gcc) with
    | some l => some l
    | none => if s.unread id && (t.xfers.any fun x => x.id == id && decide (x.wcc ≤ t.gcc)) then some ⟨id, t.gcc, none⟩ else none

/-- MODULE_SCHEDULE_ENTRY (R323, R324, R335, R336, R342): the entry is carried out in DCC(g); it waits while the gang's schedule
at the module is stalled, while it reads bytes of a write that another gang's stalled schedule holds, while no port carries traffic
toward the module (R407), and for ever at a module that serves no more. -/
def execModuleScheduleEntry (m : Nat) (op : ModOp) (s : State) : Out :=
  let t := s.task
  let q : SchedEntry := ⟨t.gcc, s.nowKey, op⟩
  let marks := s.lackingAt m op
  let s := if s.pkg.offline.contains m && (t.stallAt m).isNone then (s.beginStall m [⟨s.next, t.gcc, none⟩] (some (opId op))).fresh
    else if s.portless m && (t.stallAt m).isNone then s.beginStall m [⟨portMark m, t.gcc, none⟩] (some (opId op))
    else if !marks.isEmpty then s.beginStall m marks none else s
  .next (if (s.task.stallAt m).isSome then (s.modStall m fun st => { st with queue := st.queue ++ [q] }).markSnapshot op
    else s.attempt m q)

/-- MODULE_SCHEDULE_STALL (R335): something the present gang's schedule needs has not come. -/
def execModuleScheduleStall (m : Nat) (bound : Option Nat) (s : State) : Out :=
  .next ((s.beginStall m [⟨s.next, s.gcc, bound⟩] (s.dueHere m).head?).fresh)

/-- Insert an entry behind those of smaller or equal key. -/
def schedInsert (x : SchedEntry) : List SchedEntry → List SchedEntry
  | [] => [x]
  | y :: ys => if x.key < y.key then x :: y :: ys else y :: schedInsert x ys

/-- The schedule of the present gang at a module is realigned (R335, R336): what waited for it goes on, and once no schedule is stalled
the order of past writes is no longer kept. -/
def State.realign (s : State) (m : Nat) (st : Stall) : State :=
  let s := s.hereTask fun t => { t with stalls := t.stalls.filter fun x => x.md != m }
  let s := forEach (st.queue.foldl (fun out x => schedInsert x out) []) (fun q s => s.attempt m q) s
  let s := forEach st.waiters (fun (slot, q) s => inSlot slot (fun u => u.attempt m q) s) s
  if s.taskList.all fun t => t.stalls.isEmpty then { s with modBase := none, modLog := [] } else s

/-- MODULE_SCHEDULE_DRAIN (R335, R336, R342): the entries of one GCC in each domain cycle, in their order, until the drain has come
to the gang's present GCC, where the schedule is realigned. It stops at a GCC at which something is still missing, and at a module that
serves no more, for which it asks for a hold anew; it stands still while the modules do (R182, R445). -/
def execModuleScheduleDrain (m : Nat) (s : State) : Out :=
  .next (match s.task.stallAt m with
    | none => s
    | some st =>
      let s' := s.modStall m fun st => { st with draining := false }
      let first := (st.queue.foldl (fun out x => schedInsert x out) []).head?.map fun q => opId q.op
      if s.task.frozen then s'
      else if s.pkg.offline.contains m then (s'.beginStall m [⟨s.next, st.pos, none⟩] first).fresh
      else if s.portless m && !st.lacks then s'.beginStall m [⟨portMark m, st.pos, none⟩] first
      else if st.lacks then s'
      else
        let g := st.pos
        let now := s.gcc
        if decide (now ≤ g) || (s.task.ending.isSome && st.queue.isEmpty) then s.realign m st
        else
          let here := (st.queue.filter fun q => q.g ≤ g).foldl (fun out x => schedInsert x out) []
          let s := s.modStall m fun st => { st with pos := st.nextPos, queue := st.queue.filter fun q => g < q.g }
          let s := forEach here (fun q s => s.attempt m q) s
          s.addDomain (if st.nextPos < now then s.dcc + 1 else s.dcc) 80 (.ev (.moduleScheduleDrain m)))

/-! ## Events of transfers at the modules -/

/-- Put an entry of a transfer before its modules, at its own place in this cycle. -/
def State.toModules (s : State) (ms : List Nat) (op : ModOp) : State :=
  forEach ms (fun m s => s.add { s.cur with work := .ev (.moduleScheduleEntry m op) }) s

/-- FETCH_SNAPSHOT (R148, R312, R331). -/
def execFetchSnapshot (id : Nat) (s : State) : Out :=
  .next (match s.xfer? id with
    | some x => s.toModules x.waits (.snapshot id)
    | none => s)

/-- STORE_WRITE_COMPLETION (R148, R313). -/
def execStoreWriteCompletion (id : Nat) (s : State) : Out :=
  .next (match s.xfer? id with
    | some x => s.toModules x.waits (.store id)
    | none => s)

/-- MAADD_EFFECT (R332). -/
def execMaaddEffect (id : Nat) (s : State) : Out :=
  .next (match s.xfer? id with
    | some x => if x.waits.isEmpty then s.retire id else s.toModules x.waits (.maadd id)
    | none => s)

/-- MCMD_BLOCK_EFFECT (R330): the read of block `b`, then, 64 cycles later, its effect. -/
def execMcmdBlockEffect (id b : Nat) (effect : Bool) (s : State) : Out :=
  .next (match s.xfer? id with
    | none => s
    | some x =>
      if effect then s.toModules x.waits (.blockEffect id b)
      else
        let s := s.toModules x.waits (.blockRead id b)
        let s := s.add { s.cur with due := s.cur.due + 64, rank := schedRank s.task.pod0 x.ch, work := .ev (.mcmdBlockEffect id b true) }
        if 16384 * (b + 1) < x.len then s.add { s.cur with due := s.cur.due + 64, work := .ev (.mcmdBlockEffect id (b + 1) false) } else s)

/-- MCMD_COMPLETION (R328, R330): the charge is released, and with a barrier one byte counts. -/
def execMcmdCompletion (x : Nat × Option Nat) (s : State) : Out :=
  .next (s.here fun c =>
    let c := { c with infl := c.infl - 64 }
    match x.2 with
    | some w => c.countBar w 1 false false false
    | none => c)

/-- MIRED_LANDING (R331). -/
def execMiredLanding (id k : Nat) (s : State) : Out := .next (s.land id k (.ev (.miredLanding id (k + 1))))

/-- ROW_SPARING (R339, R340): a row has been copied into a spare and takes its place. -/
def execRowSparing (m sector drow cause : Nat) (s : State) : Out := .next (s.rowSwitch m sector drow cause)

/-- MODULE_OFFLINE (R342). -/
def execModuleOffline (m : Nat) (reports : Bool) (s : State) : Out :=
  let s := s.modPkg fun p => { p with offline := if p.offline.contains m then p.offline else p.offline ++ [m] }
  .next (if reports then s.modEvent 7 m 0xFF 0 0xFFFFFFFF 0 else s)

/-! ## The module words (R325 to R332) -/

/-- A field of a command block (R329). -/
def blockField (bs : List Byte) (o n : Nat) : Nat := leNat ((bs.drop o).take n)

/-- Two runs of `n` bytes intersect. -/
def runsMeet (a b n : Nat) : Bool := decide (a < b + n) && decide (b < a + n)

/-- The refusal of a command block (R329, R341). -/
def blockFault (bs : List Byte) : Option Nat :=
  let op := blockField bs 0 1
  let ty := blockField bs 1 1
  let rop := blockField bs 2 1
  let len := blockField bs 4 4
  let dst := blockField bs 8 8
  let src := blockField bs 16 8
  let value := blockField bs 24 8
  if !(op == 1 || op == 2 || op == 3) then some 0
  else if blockField bs 3 1 ≠ 0 || blockField bs 32 32 ≠ 0 || (op ≠ 3 && (ty ≠ 0 || rop ≠ 0)) || (op == 2 && src ≠ 0) || (op ≠ 2 && value ≠ 0) then some 1
  else if len = 0 || len % 64 ≠ 0 || dst % 64 ≠ 0 || (op ≠ 2 && src % 64 ≠ 0) then some 2
  else if op == 3 && (!(ty == 1 || ty == 2 || ty == 20) || decide (2 < rop)) then some 4
  else if op ≠ 2 && runsMeet dst src len then some 3
  else none

/-- The kind of a command by its OP byte. -/
def blockKind (op : Nat) : XKind := if op = 1 then .copy else if op = 2 then .fill else .reduce

/-- Every address of a list lies in an extent with the permissions, and all in one module: TRAPC 0x06's detail otherwise. -/
def Core.oneModule (c : Core) (asks : List (Nat × Bool × Bool)) : Option Nat :=
  let ps := asks.map fun (x, r, w) => c.extent x r w true
  if ps.any Option.isNone then some 0
  else match (ps.filterMap fun p => p.map Prod.fst).eraseDups with
    | _ :: _ :: _ => some 4
    | _ => none

/-- The command a block describes. -/
def State.blockXfer (s : State) (f : RRR) (bs : List Byte) : Xfer :=
  { id := s.next, kind := blockKind (blockField bs 0 1), row := s.cur.row, core := s.cur.core, g := s.gcc, ch := s.channel, n := 0, s := s.core.share,
    bar := if f.aux.getLsbD 3 then some f.d.toNat else none
    ty := blockField bs 1 1 % 32, rop := blockField bs 2 1, len := blockField bs 4 4, dst := blockField bs 8 8, src := blockField bs 16 8,
    value := BitVec.ofNat 64 (blockField bs 24 8) }

/-- What a command reads and writes at the module (R329). -/
def Xfer.cmdAsks (x : Xfer) : List (Nat × Bool × Bool) :=
  ((List.range x.len).map fun k => (x.dst + k, x.kind == .reduce, true))
    ++ if x.kind = .fill then [] else (List.range x.len).map fun k => (x.src + k, true, false)

/-- MCMD (R327 to R330). -/
def mcmdWord (h : Hdr) (f : RRR) : State → State :=
  coreWord h fun s =>
    let c := s.core
    let t := s.gcc
    let a := (c.ra f.a.toNat).toNat
    let bs := Memory.bytes c.ls a 64
    let x := s.blockXfer f bs
    let k : EngClaim := ⟨t, a, 64, 512, 0⟩
    if !lsIn a 64 then s.trapWord 0x0F 0
    else if a % 64 ≠ 0 then s.trapWord 0x0F 1
    else if c.anyBad (addrs a 64) then (s.engineRead (addrs a 64)).trapWord 0x13 5
    else
    let s := s.engineRead (addrs a 64)
    match blockFault bs with
      | some d => s.trapWord 0x13 d
      | none =>
        if c.share = 0 then s.trapWord 7 3
        else if t < c.sfree then s.trapWord 7 2
        else if c.limit < c.infl + 64 then s.trapWord 7 0
        else match c.oneModule x.cmdAsks with
          | some d => s.trapWord 6 d
          | none =>
            if c.engFails k then s.trapWord 0x0F 4
            else
              let done := t + 4096 + 64 * ceilDiv x.len 16384
              let x := { x with waits := ((s.locate x x.dst).map Prod.fst).toList, wcc := done }
              let s := s.here fun c => { c.takeLanes t [k] 64 none (some (t + 2)) with lwcc := max c.lwcc done, last := done }
              let s := (s.hereTask fun t => { t with xfers := t.xfers ++ [x] }).noteEffect done
              let s := s.addSched (t + 4096) 90 (.ev (.mcmdBlockEffect x.id 0 false))
              (s.addCore (done - t) 23 x.id (.ev (.mcmdCompletion ⟨x.id, x.bar⟩))).fresh

/-- MCMD copy (R330). -/
def execMcmdCopy (h : Hdr) (f : RRR) (s : State) : Out := .next (mcmdWord h f s)

/-- MCMD fill (R330). -/
def execMcmdFill (h : Hdr) (f : RRR) (s : State) : Out := .next (mcmdWord h f s)

/-- MCMD reduce (R330). -/
def execMcmdReduce (h : Hdr) (f : RRR) (s : State) : Out := .next (mcmdWord h f s)

/-- The shape of a table word: 4 for its type, 6 for its form (R326, R341). -/
def rowForm (g : BitVec 256) (base : Word) : Option Nat :=
  let ty := shpTy g
  let esz := shpEsz ty
  if !(ty == 1 || ty == 2 || ty == 20) then some 4
  else if shpSize g 1 ≠ 1 || shpSize g 2 ≠ 1 || shpStr g 0 ≠ (esz : Int) || shpStr g 3 % (esz : Int) ≠ 0 || base.toNat % esz ≠ 0 then some 6
  else none

/-- The transfer of a table word (R331, R332). -/
def State.tableXfer (s : State) (f : RRR) (kind : XKind) : Xfer :=
  let x := s.xferOf f kind
  let l := s.listAddr f
  let m := min (shpSize x.shape 3) 128
  let h := 2 ^ (f.aux.toNat % 8)
  let idx := s.core.indexList l m
  if kind = .mired then
    { x with sw := 0, bar := some f.d.toNat, idx := idx, bad := s.core.indexBad l m, h := h, n := shpSize x.shape 3 / h * shpSize x.shape 0 * 4 }
  else { x with idx := idx, n := shpSize x.shape 3 * shpSize x.shape 0 * shpEsz (shpTy x.shape) }

/-- The checks of R327 for MIRED and MAADD, then the bank check of R135: TRAPC and detail. -/
def State.tableFault (s : State) (x : Xfer) (l m : Nat) (landing : Bool) : Option (Nat × Nat) :=
  let c := s.core
  let rows := (x.rows.flatMap x.rowBytes).map fun b => (b, true, !landing)
  let a : XferAsk := { x := x, list := some l, m := m, landing := landing, source := true, charge := x.n }
  if !lsIn x.la x.n || !lsIn l (4 * m) then some (0x0F, 0)
  else if x.la % (if x.sw = 0 then 64 else 512) ≠ 0 || l % 64 ≠ 0 then some (0x0F, 1)
  else match rowForm x.shape x.base with
    | some d => some (0x13, d)
    | none =>
      if 128 < m || (landing && m % x.h ≠ 0) then some (7, 5)
      else if !landing && c.anyBad (addrs l (4 * m)) then some (6, 5)
      else if x.s = 0 then some (7, 3)
      else if landing && decide (s.gcc + 8192 < c.lfree) then some (7, 1)
      else if s.gcc < c.sfree then some (7, 2)
      else if c.limit < c.infl + x.n then some (7, 0)
      else match c.oneModule rows with
        | some d => some (6, d)
        | none => if (a.claims s.gcc 1).any c.engFails then some (0x0F, 4) else none

/-- The module a table word uses: that of its first used row. -/
def State.tableModule (s : State) (x : Xfer) : List Nat :=
  ((x.rows.head?.bind fun r => (x.rowBytes r).head?).bind (s.locate x)).toList.map Prod.fst

/-- MIRED (R326 to R328, R331). -/
def execMired (h : Hdr) (f : RRR) (s : State) : Out :=
  .next (coreWord h (fun s =>
    let x := s.tableXfer f .mired
    let m := shpSize x.shape 3
    let l := s.listAddr f
    if shpSize x.shape 0 = 0 || m = 0 then s
    else match s.tableFault x l m true with
      | some (code, d) => (if listRead code d then s.engineRead (addrs l (4 * m)) else s).trapWord code d
      | none =>
        let t := s.gcc
        let x := { x with waits := s.tableModule x, wcc := t + 8192 + ceilDiv x.n x.s }
        let a : XferAsk := { x := x, list := some l, m := m, landing := true, source := true, charge := x.n }
        let s := (s.readList a).here fun c => c.takeLanes t (a.claims t 0) x.n (some (t + 8192 + ceilDiv x.n x.s)) (some (t + 2))
        let bad := fun (q : Nat) => (List.range x.idx.length).any fun r => r / x.h == q && x.bad.getD r false
        let w := 4 * shpSize x.shape 0
        let psn := ((List.range (x.idx.length / x.h)).filter bad).flatMap fun q => addrs (w * q) w
        let x := if x.waits.isEmpty then { x with traPsn := psn } else x
        let s := (s.hereTask fun t => { t with xfers := t.xfers ++ [x] }).noteEffect x.wcc
        let s := s.addSched (t + 2048) 90 (.ev (.fetchSnapshot x.id))
        (s.addCore 8192 23 x.id (.ev (.miredLanding x.id 0))).fresh) s)

/-- MAADD (R326 to R328, R332). -/
def execMaadd (h : Hdr) (f : RRR) (s : State) : Out :=
  .next (coreWord h (fun s =>
    let x := s.tableXfer f .maadd
    let m := shpSize x.shape 3
    let l := s.listAddr f
    if shpSize x.shape 0 = 0 || m = 0 then s
    else match s.tableFault x l m false with
      | some (code, d) => (if listRead code d then s.engineRead (addrs l (4 * m)) else s).trapWord code d
      | none =>
        let t := s.gcc
        let wcc := t + 4097 + ceilDiv x.n x.s
        let x := { x with waits := s.tableModule x, wcc := wcc }
        let a : XferAsk := { x := x, list := some l, m := m, landing := false, source := true, charge := x.n }
        let s := (s.readList a).here fun c => { c.takeLanes t (a.claims t 1) x.n none (some (t + ceilDiv x.n x.s + 2)) with lwcc := max c.lwcc wcc, last := wcc }
        let s := (s.hereTask fun t => { t with xfers := t.xfers ++ [x] }).noteEffect wcc
        let s := s.addCore 1 20 0 (.cont (.sourceRead x.id 0))
        let s := s.addSched wcc s.chRank (.ev (.maaddEffect x.id))
        (s.addCore (wcc - t) 40 0 (.cont (.release x.n))).fresh) s)

end Sys2Proof.Machine
end

