-- ==== Sys2Proof/Machine/Exchange.lean ====
section
/-! DEFINITION. The exchange die collective engine (12_exchange.md): the words CBASE, CRUN and CSTAT, the chunk operations
of a run at their cycles, counters and tags, and plan faults; and forwarding for other packages (R265). -/

namespace Sys2Proof.Machine

open Sys2Proof

/-! ## Plans and runs -/

/-- λ of an entry: LFIX of its route (R264). -/
def Task.lambda (t : Task) (e : PlanEntry) : Nat := routeLfix (Sparse.get 0 t.routes (e.rte % 4096))

/-- Cycles between the exchange dies and the column of an LS reference, less 32: 2 (7 − c) (R358). -/
def colDist (ls : Nat) : Nat := 2 * (7 - (lsRef ls).2.1)

/-- From the read of a beat of a SEND to the cycle from which it is usable at its destination (R358). -/
def sendDelay (lambda : Nat) (e : PlanEntry) : Nat :=
  if planLsa e then (if planLocal e then 64 + colDist e.a else lambda - 32 + colDist e.a)
  else if planLocal e then 32 else lambda - 64

/-- The offset from P0 of an entry's last cycle on its own package (R364). -/
def entryEnd (e : PlanEntry) : Nat :=
  let last := e.off + e.nb
  if e.kind = 1 then e.off
  else if e.kind = 2 then (if planLocal e then last + sendDelay 0 e - 1 else last)
  else if e.kind = 3 then last + 7
  else if e.kind = 5 then last + 64 + colDist e.d
  else last

/-- E of a run (R364). -/
def runEnd (es : List (Nat × PlanEntry)) : Nat := es.foldl (fun m (_, e) => max m (entryEnd e)) 0

/-- A resource a run uses: which, from which cycle, for how many, and how much it takes (R350): 1000 + 8 row + column a core's
local-store reads, 2000 + 8 row + column its deliveries, 3000 + port a scale-up port. -/
structure RunUse where
  key : Nat
  first : Nat
  len : Nat
  deriving DecidableEq, Repr

/-- What a resource takes in one cycle (R350). -/
def useCap (key : Nat) : Nat := if key < 2000 then 2 else if key < 3000 then 3 else 1

/-- From the read of a beat to its departure at the scale-up port (R29, R350, R358): a beat of the local store comes to the exchange dies
32 + 2 (7 − c) cycles after its read, a reduced one leaves 8 cycles after the reads. -/
def departs (e : PlanEntry) : Nat := if e.kind = 2 && planLsa e then 32 + colDist e.a else if e.kind = 4 && planRed e then 8 else 0

/-- The scale-up port that the beats of an entry leave on (R350): none for a route without a link. -/
def departPort (routes : Sparse (BitVec 128)) (e : PlanEntry) : Option Nat :=
  let r := Sparse.get 0 routes (e.rte % 4096)
  if ((e.kind = 2 && !planLocal e) || e.kind = 4) && routeHops r ≠ 0 then some (routePort r 0) else none

/-- The resources of a run that starts at `p0` (R350, R362). -/
def runUses (routes : Sparse (BitVec 128)) (p0 : Nat) (es : List (Nat × PlanEntry)) : List RunUse :=
  es.flatMap fun (_, e) =>
    (if e.kind = 2 && planLsa e then let (r, c, _, _) := lsRef e.a; [⟨1000 + 8 * r + c, p0 + e.off, e.nb + 1⟩] else [])
      ++ (if e.kind = 5 then let (r, c, _, _) := lsRef e.d; [⟨2000 + 8 * r + c, p0 + e.off + 64 + 2 * (7 - c), e.nb + 1⟩] else [])
      ++ (departPort routes e).toList.map fun port => ⟨3000 + port, p0 + e.off + departs e, e.nb + 1⟩

/-- Some resource is used beyond its limit in some cycle: the most is reached where some use begins. -/
def usesFail (us : List RunUse) : Bool :=
  us.any fun u => decide (useCap u.key < (us.filter fun v => v.key == u.key && decide (v.first ≤ u.first) && decide (u.first < v.first + v.len)).length)

/-- The resources of the active runs of a task. -/
def Task.activeUses (t : Task) : List RunUse :=
  t.runs.flatMap fun u => match t.plan? u.plan with
    | some p => runUses t.routes u.p0 (p.mine t.rank)
    | none => []

/-- The scale-up ports that the runs of other tasks use, in cycles of the present task (R350, R355): what is over is left out. -/
def State.otherUses (s : State) : List RunUse :=
  (s.slots.filter fun o => o != s.cur.slot && (s.taskAt o).live).flatMap fun o =>
    let t := (s.taskAt o)
    (t.activeUses.filter fun u => decide (3000 ≤ u.key) && decide (t.gcc < u.first + u.len)).map fun u =>
      { u with first := s.gcc + (u.first - t.gcc), len := u.first + u.len - max u.first t.gcc }

/-- The active run of a plan. -/
def Task.run? (t : Task) (plan : Nat) : Option Run := t.runs.find? fun u => u.plan == plan

/-- The entry of a plan. -/
def Task.entry? (t : Task) (plan n : Nat) : Option PlanEntry := (t.plan? plan).bind fun p => p.entries[n]?

/-- Change the active run of a plan of the present task. -/
def State.modRun (s : State) (plan : Nat) (f : Run → Run) : State :=
  s.hereTask fun t => { t with runs := t.runs.map fun u => if u.plan = plan then f u else u }

/-- Put work of the present gang's plans on the agenda. -/
def State.addExch (s : State) (due rank ord : Nat) (w : Work) : State := s.addGang due rank ord .exch w

/-! ## Faults (R368) -/

/-- The launching core that a plan fault is taken at (R368). -/
def Task.faultCore (t : Task) (plan : Nat) : Option (Fin 8 × Fin 8) :=
  match t.run? plan with
  | some u => some (u.row, u.core)
  | none => if t.lastRun.any fun (k, _) => k == plan then
      let k := Sparse.get 0 t.lastRun plan
      some (Fin.ofNat 8 (k / 8), Fin.ofNat 8 (k % 8)) else none

/-- A terminating plan fault is put on the agenda for its cycle (R368). -/
def State.planFaultAt (s : State) (due plan detail entry : Nat) : State :=
  let (r, c) := (s.task.faultCore plan).getD (((s.rowsOf s.cur.slot).head?.getD 0), 0)
  s.add { s.cur with gang := true, due := due, rank := 4, ord := 0, row := r, core := c, part := .free, urgent := false, args := [],
                     work := .cont (.planFault plan detail entry) }

/-- The task has not ended after all, since a core of one of its rows traps (R166): its end fence is given up, and the row goes on until
its task ends anew. -/
def State.notEnded (s : State) : State :=
  let slot := s.cur.slot
  let s := { s with agenda := s.agenda.filter fun e => !(e.slot == slot && (e.work == Work.cont .endFence || e.work == Work.ev .taskEnd)) }
  (s.hereTask fun t => { t with ending := none }).hereRow fun w => { w with running := true }

/-- A terminating plan fault is taken (R166, R178, R368): by a row that has halted too, since its run belongs to the task (log entry 149). -/
def State.planFault (s : State) (detail entry : Nat) : State :=
  if s.task.ending.any fun rep => rep.code ≠ 0 then s
  else
    let s := s.notEnded
    let s := s.takeTrap (1 + s.cur.core.1) false s.gcc
      { code := 0x12, detail := detail, info := entry, addr := s.nextWordAddr s.cur.row s.cur.core }
    s.hereTask fun t => { t with stop := t.stop.map fun st => { st with fatal := true } }

/-! ## The words (R353 to R357) -/

/-- CBASE (R354). -/
def execCbase (h : Hdr) (f : RRR) (s : State) : Out := .next (coreWord h (fun s => s.writeBack 1 [.bt (f.aux.toNat % 16) (s.opB f)]) s)

/-- The base registers that a plan's entries name, as they stand (R355). -/
def State.captureBases (s : State) (slot : Slot) (es : List (Nat × PlanEntry)) : List (Nat × Nat × Nat × Word) :=
  (es.filterMap fun (_, e) => (planLs e).map fun (x, _) => let (r, c, b, _) := lsRef x; (r, c, b)).eraseDups.filterMap fun (r, c, b) =>
    (s.rowOfId slot r).map fun row => (r, c, b, Sparse.get 0 (s.coreAt row (Fin.ofNat 8 c)).bt b)

/-- Every LS reference is aligned and inside the local store (R355 step 4). -/
def basesOk (u : Run) (es : List (Nat × PlanEntry)) : Bool :=
  es.all fun (_, e) => match planLs e with
    | none => true
    | some (x, w) => let (r, c, b, o) := lsRef x
      let base := (u.base r c b).toNat
      base % 64 == 0 && lsIn (base + o) (w * (e.nb + 1))

/-- The engine-port accesses of a run's local-store reads: row, column, access (R135, R355). -/
def runClaims (u : Run) (es : List (Nat × PlanEntry)) : List (Nat × Nat × EngClaim) :=
  (u.lsReads es).map fun (r, c, first, n, la, w) => (r, c, ⟨first, la, n * w, w, 0⟩)

/-- Schedule a run's reads at the cores they read: none where one clashes (R355 step 5). -/
def State.claimRun (s : State) (slot : Slot) : List (Nat × Nat × EngClaim) → Option State
  | [] => some s
  | (r, c, k) :: ks =>
    match s.rowOfId slot r with
    | none => s.claimRun slot ks
    | some row =>
      if (s.coreAt row (Fin.ofNat 8 c)).engFails k then none
      else (s.modCore row (Fin.ofNat 8 c) fun x => x.engAdd s.gcc k).claimRun slot ks

/-- The xf claims of FPUT words already issued at a core that a run reads meet its reads (R355, R363). -/
def State.putMeets (s : State) (slot : Slot) (u : Run) (es : List (Nat × PlanEntry)) : Bool :=
  (u.lsReads es).any fun (r, c, first, n, _, _) =>
    match s.rowOfId slot r with
    | none => false
    | some row => s.rows[row].claims.any fun k =>
        k.kind == 4 && decide (k.first + 2 * c ≤ s.gcc) && decide (first < k.first + 2 * c + k.len) && decide (k.first + 2 * c < first + n)

/-- The first work of every entry of a run (R358). -/
def State.startEntries (s : State) (u : Run) (es : List (Nat × PlanEntry)) : State :=
  forEach es (fun (n, e) s =>
    let at' := u.p0 + e.off
    if e.kind = 1 then s.addExch at' 7 n (.ev (.planRecv u.plan n))
    else if e.kind = 2 then s.addExch at' 8 n (.ev (.planSend u.plan n 0))
    else if e.kind = 3 then s.addExch at' 8 n (.ev (.planReduce u.plan n 0))
    else if e.kind = 4 then s.addExch at' 8 n (.ev (.planForward u.plan n 0))
    else s.addExch at' 8 n (.ev (.planDeliver u.plan n 0))) s

/-- The run record of a plan. -/
def Task.record (t : Task) (plan : Nat) : RunRec := Sparse.get {} t.records plan

/-- Change the run record of a plan of the present task. -/
def State.modRecord (s : State) (plan : Nat) (f : RunRec → RunRec) : State :=
  s.hereTask fun t => { t with records := Sparse.set {} t.records plan (f (t.record plan)) }

/-- A run starts (R355, R356, R364). -/
def State.startRun (s : State) (u : Run) (es : List (Nat × PlanEntry)) : State :=
  let n := Sparse.get 0 s.task.runCount u.plan + 1
  let u := { u with before := s.task.record u.plan }
  let c := u.p0 + u.e + 1
  let s := s.hereTask fun t => { t with
    runs := t.runs ++ [u], runCount := Sparse.set 0 t.runCount u.plan n
    lastRun := Sparse.set 64 t.lastRun u.plan (coreKey s.cur.row s.cur.core) }
  let s := s.modRecord u.plan fun r => { r with run := true, p0 := u.p0, e := u.e, c := c }
  let s := s.startEntries u es
  let s := match u.bar with
    | some w => s.addCore (c - 1 - s.gcc) 29 0 (.cont (.countByte u.plan w))
    | none => s
  let s := s.addExch c 2 0 (.ev (.runCompletion u.plan))
  if 1 < s.task.members then (s.send (.runStart u.plan n u.p0)).addExch (u.p0 - 64) 3 0 (.cont (.pairing u.plan)) else s

/-- CRUN (R355). -/
def execCrun (h : Hdr) (f : RRI) (s : State) : Out :=
  .next (coreWord h (fun s =>
    let slot := s.cur.slot
    let t := s.task
    let g := s.gcc
    let n := f.imm.toNat % 64
    let a := (s.core.ra f.a.toNat).toNat
    match t.plan? n with
    | none => s.trapWord 0x12 0
    | some p =>
      if (t.runs.any fun u => u.plan == n) && Sparse.get 0 t.crunAt n ≠ g + 1 then s.trapWord 0x12 1
      else if 2 ^ 24 ≤ a then s.trapWord 0x12 2
      else
        let es := p.mine t.rank
        let u : Run := { plan := n, row := s.cur.row, core := s.cur.core, g := g, p0 := g + t.llead + 64 + a, e := runEnd es,
                         bases := s.captureBases slot es, bar := if f.md.getLsbD 0 then some f.d.toNat else none }
        if !basesOk u es then s.trapWord 0x12 3
        else if Sparse.get 0 t.crunAt n = g + 1 then s.trapWord 0x12 1
        else
          let s := s.hereTask fun t => { t with crunAt := Sparse.set 0 t.crunAt n (g + 1) }
          if usesFail (t.activeUses ++ s.otherUses ++ runUses t.routes u.p0 es) || s.putMeets slot u es then s.trapWord 0x12 8
          else match s.claimRun slot (runClaims u es) with
            | none => s.trapWord 0x12 8
            | some s => s.startRun u es) s)

/-- CSTAT (R357). -/
def execCstat (h : Hdr) (f : RRR) (s : State) : Out :=
  .next (coreWord h (fun s =>
    let n := f.aux.toNat % 64
    let r := s.task.record n
    let x := match f.aux.toNat / 64 % 4 with
      | 0 => (if r.run then 2 ^ 63 else 0) + 2 ^ 62 + r.runs % 2 ^ 24
      | 1 => r.c
      | 2 => r.p0
      | _ => r.e
    s.writeBack 4 [.a f.d.toNat (BitVec.ofNat 64 (if (s.task.plan? n).isSome then x else 0))]) s)

/-! ## The chunk buffer (R344, R345, R360, R367) -/

/-- Read a beat of the chunk-buffer space: an uncorrectable word is rewritten poisoned, a corrected one counted (R345). -/
def State.readChunk (s : State) (a : Nat) : State × Beat :=
  let t := s.task
  let ws := (List.range 8).filter fun j => (Sparse.get .clean t.cbufCls (a / 8 + j)).bad
  let fixed := ((List.range 8).filter fun j => Sparse.get .clean t.cbufCls (a / 8 + j) == .corrected).length
  let b : Beat := ⟨Memory.bytes t.cbuf a 64, ws⟩
  let s := s.hereTask fun t => { t with cbufCls := ws.foldl (fun m j => Sparse.set .clean m (a / 8 + j) .poisoned) t.cbufCls }
  (if fixed = 0 then s else s.countCorr (if a < 0x6000000 then 128 else 129) fixed 0, b)

/-- Write a beat of the chunk-buffer space. -/
def State.writeChunk (s : State) (a : Nat) (b : Beat) : State :=
  s.hereTask fun t => { t with
    cbuf := Memory.putBytes t.cbuf a b.bytes
    cbufCls := (List.range 8).foldl (fun m j => Sparse.set .clean m (a / 8 + j) (if b.poison.contains j then .poisoned else .clean)) t.cbufCls }

/-- Beat `k` of a SEND's source in the local store (R358, R367): WIDE widens 16 BF16 elements to FP32. -/
def State.readLsBeat (s : State) (u : Run) (e : PlanEntry) (k : Nat) : State × Beat :=
  let (r, c, b, o) := lsRef e.a
  match s.rowOfId s.cur.slot r with
  | none => (s, default)
  | some row =>
    let col := Fin.ofNat 8 c
    let core := s.coreAt row col
    let la := (u.base r c b).toNat + o + k * (if planWide e then 32 else 64)
    let n := if planWide e then 32 else 64
    let bs := Memory.bytes core.ls la n
    let ws := core.poisonedWords la n
    let s := s.engineReadAt row col (addrs la n)
    if planWide e then
      (s, ⟨(List.range 16).flatMap fun i => leBytes 4 (widen32 .bf16 (leNat ((bs.drop (2 * i)).take 2))), ws.flatMap fun j => [2 * j, 2 * j + 1]⟩)
    else (s, ⟨bs, ws⟩)

/-- One reduction step on two beats (R361, R367). -/
def reduceBeat (e : PlanEntry) (x y : Beat) : Beat :=
  let ty : Ty := if e.ty = 20 then .i32 else .f32
  let op : NodeOp := if e.rop = 1 then .min else if e.rop = 2 then .max else .add
  ⟨(List.range 16).flatMap fun i => leBytes 4 (node ty op (leNat ((x.bytes.drop (4 * i)).take 4)) (leNat ((y.bytes.drop (4 * i)).take 4))),
   (List.range 8).filter fun j => x.poison.contains j || y.poison.contains j⟩

/-- A counter has counted the beat that a check asks for (R359). -/
def Run.counted (u : Run) (c k : Nat) : Bool := decide (k + 1 ≤ (Sparse.get {} u.ctrs c).got)

/-! ## Chunk operations (R358 to R361) -/

/-- PLAN_RECV (R358, R359). -/
def execPlanRecv (plan entry : Nat) (s : State) : Out :=
  .next (match s.task.run? plan, s.task.entry? plan entry with
    | some u, some e =>
      if (Sparse.get {} u.ctrs e.cntA).pend ≠ 0 then s.planFaultAt s.gcc plan 6 entry
      else s.modRun plan fun u => { u with
        ctrs := Sparse.set {} u.ctrs e.cntA { pend := e.nb + 1, got := 0 }
        tags := (u.tags.filter fun x => x.1 != e.tag) ++ [(e.tag, e.d, e.cntA)] }
    | _, _ => s)

/-- The place of a landing among those of its cycle (R360): beats of other members by source rank and TAG, then LOCAL landings by entry;
REDUCE results come behind both. -/
def beatOrd (m : BeatMsg) : Nat := if m.loc then 2 ^ 48 + m.entry else (m.rank * 2 ^ 16 + m.tag) * 2 ^ 12 + m.entry

/-- Where a beat goes (R263, R358): into the own space in the cycle before it is usable, by a route to the own rank too, or out on the
first port of its route. -/
def State.sendBeat (s : State) (e : PlanEntry) (plan entry k usable : Nat) (b : Beat) : State :=
  let r := Sparse.get 0 s.task.routes (e.rte % 4096)
  let m : BeatMsg := { plan := plan, tag := e.tag, entry := entry, k := k, rank := s.task.rank, loc := planLocal e, beat := b, id := s.next }
  let s := s.fresh
  if planLocal e || routeRank r = s.task.rank then s.addExch (usable - 1) 31 (beatOrd m) (.ev (.beatLanding m))
  else s.emit (routePort r 0) (.beat m (routePort r 0) usable)

/-- The next beat of an entry follows in the next cycle. -/
def State.nextBeat (s : State) (e : PlanEntry) (k : Nat) (again : Instr) : State :=
  if k < e.nb then s.addExch (s.gcc + 1) 8 s.cur.ord (.ev again) else s

/-- PLAN_SEND (R358, R359). -/
def execPlanSend (plan entry k : Nat) (s : State) : Out :=
  .next (match s.task.run? plan, s.task.entry? plan entry with
    | some u, some e =>
      if planChkA e && !u.counted e.cntA k then s.planFaultAt s.gcc plan 5 entry
      else
        let (s, b) := if planLsa e then s.readLsBeat u e k else s.readChunk (e.a + 64 * k)
        (s.sendBeat e plan entry k (s.gcc + sendDelay (s.task.lambda e) e) b).nextBeat e k (.planSend plan entry (k + 1))
    | _, _ => s)

/-- PLAN_REDUCE (R358, R359, R361). -/
def execPlanReduce (plan entry k : Nat) (s : State) : Out :=
  .next (match s.task.run? plan, s.task.entry? plan entry with
    | some u, some e =>
      if (planChkA e && !u.counted e.cntA k) || (planChkB e && !u.counted e.cntB k) then s.planFaultAt s.gcc plan 5 entry
      else
        let (s, x) := s.readChunk (e.a + 64 * k)
        let (s, y) := s.readChunk (e.b + 64 * k)
        (s.addExch (s.gcc + 7) 31 (2 ^ 49 + entry) (.cont (.chunkWrite plan (e.d + 64 * k) (reduceBeat e x y)))).nextBeat e k (.planReduce plan entry (k + 1))
    | _, _ => s)

/-- PLAN_FORWARD (R358, R359, R361). -/
def execPlanForward (plan entry k : Nat) (s : State) : Out :=
  .next (match s.task.run? plan, s.task.entry? plan entry with
    | some u, some e =>
      if (planChkA e && !u.counted e.cntA k) || (planChkB e && !u.counted e.cntB k) then s.planFaultAt s.gcc plan 5 entry
      else
        let (s, x) := s.readChunk (e.a + 64 * k)
        let lam := s.task.lambda e
        let (s, b, d) := if planRed e then let (s, y) := s.readChunk (e.b + 64 * k); (s, reduceBeat e x y, lam - 56) else (s, x, lam - 64)
        (s.sendBeat e plan entry k (s.gcc + d) b).nextBeat e k (.planForward plan entry (k + 1))
    | _, _ => s)

/-- PLAN_DELIVER (R358, R359, R362): the beat reaches its core 64 + 2 (7 − c) cycles later. -/
def execPlanDeliver (plan entry k : Nat) (s : State) : Out :=
  .next (match s.task.run? plan, s.task.entry? plan entry with
    | some u, some e =>
      if planChkA e && !u.counted e.cntA k then s.planFaultAt s.gcc plan 5 entry
      else
        let (s, b) := s.readChunk (e.a + 64 * k)
        let (r, c, bn, o) := lsRef e.d
        let w := if planCvt e then 32 else 64
        let addr := (u.base r c bn).toNat + o + w * k
        let b : Beat := if planCvt e then
            ⟨(List.range 16).flatMap fun i => leBytes 2 (nodeToBf16 (leNat ((b.bytes.drop (4 * i)).take 4))), b.poison⟩ else b
        let s := match s.rowOfId s.cur.slot r with
          | some row => s.add { s.cur with gang := true, due := s.gcc + 64 + 2 * (7 - c), rank := 27, ord := 2 ^ 64 + entry, row := row,
                                           core := Fin.ofNat 8 c, part := .core, urgent := false, args := []
                                           work := .cont (.deliverBeat addr b (if planBen e then some (e.tag % 16) else none) plan entry) }
          | none => s
        s.nextBeat e k (.planDeliver plan entry (k + 1))
    | _, _ => s)

/-- A DELIVER beat reaches its core (R136, R358, R362, R367): it is ranked before every put piece of the cycle, and its bytes
stand over theirs (R138). -/
def State.deliverBeat (s : State) (addr : Nat) (b : Beat) (bar : Option Nat) (plan entry : Nat) : State :=
  let n := b.bytes.length
  let bs := (addrs addr n).zip b.bytes
  let w := if n = 32 then 4 else 8
  let psn := b.poison.flatMap fun j => addrs (addr + w * j) w
  let c := s.core
  let wait := (c.ingressWait s.gcc bs).length
  if 64 < c.ingress.length + wait then s.planFaultAt s.gcc plan 9 entry
  else
    let s := (s.ingressWrite bs psn true).here fun c =>
      let c := c.landPoison ((psn.map (· / 8)).eraseDups).length none
      match bar with
      | some w => c.countBar w n (!psn.isEmpty) false false
      | none => c
    s.add { s.cur with rank := 29, work := .cont (.collectiveWrite bs psn) }

/-- A beat as it has come (R320, R423, R445): absent, kept by a quarantined port, or with a tag that fails, it is poisoned. -/
def State.beatCome (s : State) (msg : BeatMsg) : Beat :=
  if s.task.absent msg.id || !s.opens msg.via || !(s.badFlits msg.via msg.seals msg.beat.bytes).isEmpty then { msg.beat with poison := List.range 8 }
  else msg.beat

/-- A beat is written at the address bound to its tag (R358, R359). -/
def State.landBeat (msg : BeatMsg) (s : State) : State :=
  match s.task.run? msg.plan with
  | none => s.planFaultAt (s.gcc + 1) msg.plan 6 msg.entry
  | some u =>
    match u.tags.find? fun x => x.1 == msg.tag with
    | none => s.planFaultAt (s.gcc + 1) msg.plan 6 msg.entry
    | some (_, d, c) =>
      let k := Sparse.get {} u.ctrs c
      if k.pend = 0 then s.planFaultAt (s.gcc + 1) msg.plan 6 msg.entry
      else
        let b := s.beatCome msg
        (s.modRun msg.plan fun u => { u with ctrs := Sparse.set {} u.ctrs c { pend := k.pend - 1, got := k.got + 1 } }).writeChunk (d + 64 * msg.k) b

/-- BEAT_LANDING (R31, R358 to R360, R364, R445): a beat comes over a port, or lands in the cycle before it is usable, at its place among
the landings of that cycle. -/
def execBeatLanding (msg : BeatMsg) (s : State) : Out :=
  .next (if s.cur.gang && s.cur.rank = 31 && s.cur.ord = beatOrd msg then ((s.countTags msg.via msg.seals msg.beat.bytes).keptLate msg.via msg.id).landBeat msg
    else s.intoBuffer 31 (beatOrd msg) .exch msg.via msg.id (.beatLanding msg))

/-- RUN_COMPLETION (R364): a restart of the region that holds the run's CRUN undoes it even so (R366). -/
def execRunCompletion (plan : Nat) (s : State) : Out :=
  .next (match s.task.run? plan with
    | none => s
    | some u => (s.hereTask fun t => { t with
        runs := t.runs.filter fun u => u.plan != plan, doneRuns := (t.doneRuns ++ [u]).filter s.inRegion }).modRecord plan fun r =>
        { r with run := false, runs := (r.runs + 1) % 2 ^ 24 })

/-- Work that a run of a plan has on the agenda. -/
def Entry.ofRun (e : Entry) (slot : Slot) (u : Run) : Bool :=
  e.gang && e.slot == slot && match e.work with
    | .cont (.countByte p _) => p == u.plan
    | .ev (.planRecv p _) => p == u.plan
    | .ev (.planSend p _ _) => p == u.plan
    | .ev (.planReduce p _ _) => p == u.plan
    | .ev (.planForward p _ _) => p == u.plan
    | .ev (.planDeliver p _ _) => p == u.plan
    | .ev (.runCompletion p) => p == u.plan
    | _ => false

/-- A run does not start after all (R356). -/
def State.dropRun (s : State) (u : Run) : State :=
  let slot := s.cur.slot
  let s := { s with agenda := s.agenda.filter fun e => !e.ofRun slot u }
  s.hereTask fun t => { t with runs := t.runs.filter fun v => v.plan != u.plan, records := Sparse.set {} t.records u.plan u.before }

/-- Every other member has announced the same start for the present run of a plan (R356). -/
def Task.paired (t : Task) (u : Run) : Bool :=
  (List.range t.members).all fun m => m == t.rank || t.peerP0.any fun (n, k, r, p) =>
    n == u.plan && k == Sparse.get 0 t.runCount u.plan && r == m && p == u.p0

/-- The pairing of a run is judged at P0 − 64 (R356, R368): where a member is silent or names another start, the run does not start. -/
def State.pairing (plan : Nat) (s : State) : State :=
  match s.task.run? plan with
  | none => s
  | some u => if s.task.paired u then s else (s.planFaultAt s.gcc plan 4 0).dropRun u

/-- RUN_PAIRING_CHECK (R356): another member announces the start of one of its runs (rank, ordinal, P0), or the pairing is judged. -/
def execRunPairingCheck (plan : Nat) (peer : Option (Nat × Nat × Nat)) (s : State) : Out :=
  .next (match peer with
    | some (r, k, p) => s.hereTask fun t => { t with peerP0 := t.peerP0 ++ [(plan, k, r, p)] }
    | none => s.pairing plan)

/-- EXCHANGE_DIE_FORWARDING (R265): a put or beat in transit leaves again one exchange-die step later, whatever runs here; nothing is
forwarded from a quarantined port (R421), a flit whose tag fails goes on poisoned (R423), and what meets a port that takes nothing
waits (R420). -/
def execExchangeDieForwarding (x : Transit) (s : State) : Out :=
  .next (match x with
    | .put piece port =>
      let p := { piece with via := none, seals := [], poison := (piece.poison ++ s.tagPoison piece.via piece.seals piece.bytes).eraseDups }
      if s.opens piece.via then (s.countTags piece.via piece.seals piece.bytes).emit port (.put p piece.drank port (s.dcc + 32)) else s
    | .beat msg port =>
      let b := { msg.beat with poison := (msg.beat.poison ++ s.tagPoison msg.via msg.seals msg.beat.bytes).eraseDups }
      if s.opens msg.via then (s.countTags msg.via msg.seals msg.beat.bytes).emit port (.beat { msg with via := none, seals := [], beat := b } port (s.dcc + 32))
      else s)

end Sys2Proof.Machine
end

