-- ==== Sys2Proof/Machine/Integer.lean ====
section
/-! DEFINITION. Column A (06_integer.md): the meaning of every word of the core integer unit. -/

namespace Sys2Proof.Machine

open Sys2Proof

/-- ADD (R203, R204). -/
def execAdd (h : Hdr) (f : RRR) (s : State) : Out := .next (aluWord h f 1 (alu f.ty.toNat (f.sat == 1) (· + ·)) s)

/-- SUB (R203, R204). -/
def execSub (h : Hdr) (f : RRR) (s : State) : Out := .next (aluWord h f 1 (alu f.ty.toNat (f.sat == 1) (· - ·)) s)

/-- MUL (R203, R204). -/
def execMul (h : Hdr) (f : RRR) (s : State) : Out := .next (aluWord h f 3 (alu f.ty.toNat (f.sat == 1) (· * ·)) s)

/-- MULH (R203). -/
def execMulh (h : Hdr) (f : RRR) (s : State) : Out := .next (aluWord h f 3 (mulhVal) s)

/-- MULHU (R203). -/
def execMulhu (h : Hdr) (f : RRR) (s : State) : Out := .next (aluWord h f 3 (mulhuVal) s)

/-- DIV (R205). -/
def execDiv (h : Hdr) (f : RRR) (s : State) : Out := .next (aluWord h f 18 (fun x y => fin f.ty.toNat (divS f.ty.toNat x y).1) s)

/-- DIVU (R205). -/
def execDivu (h : Hdr) (f : RRR) (s : State) : Out := .next (aluWord h f 18 (fun x y => fin f.ty.toNat (divU f.ty.toNat x y).1) s)

/-- REM (R205). -/
def execRem (h : Hdr) (f : RRR) (s : State) : Out := .next (aluWord h f 18 (fun x y => fin f.ty.toNat (divS f.ty.toNat x y).2) s)

/-- REMU (R205). -/
def execRemu (h : Hdr) (f : RRR) (s : State) : Out := .next (aluWord h f 18 (fun x y => fin f.ty.toNat (divU f.ty.toNat x y).2) s)

/-- AND (R203). -/
def execAnd (h : Hdr) (f : RRR) (s : State) : Out := .next (aluWord h f 1 (fun x y => x &&& y) s)

/-- OR (R203). -/
def execOr (h : Hdr) (f : RRR) (s : State) : Out := .next (aluWord h f 1 (fun x y => x ||| y) s)

/-- XOR (R203). -/
def execXor (h : Hdr) (f : RRR) (s : State) : Out := .next (aluWord h f 1 (fun x y => x ^^^ y) s)

/-- ANDN (R203). -/
def execAndn (h : Hdr) (f : RRR) (s : State) : Out := .next (aluWord h f 1 (fun x y => x &&& ~~~y) s)

/-- SHL (R203). -/
def execShl (h : Hdr) (f : RRR) (s : State) : Out := .next (aluWord h f 1 (shlVal f.ty.toNat) s)

/-- SHR (R203). -/
def execShr (h : Hdr) (f : RRR) (s : State) : Out := .next (aluWord h f 1 (shrVal f.ty.toNat) s)

/-- SRA (R203). -/
def execSra (h : Hdr) (f : RRR) (s : State) : Out := .next (aluWord h f 1 (sraVal f.ty.toNat) s)

/-- ROTL (R203). -/
def execRotl (h : Hdr) (f : RRR) (s : State) : Out := .next (aluWord h f 1 (rotlVal f.ty.toNat) s)

/-- MIN (R203). -/
def execMin (h : Hdr) (f : RRR) (s : State) : Out := .next (aluWord h f 1 (alu f.ty.toNat false min) s)

/-- MAX (R203). -/
def execMax (h : Hdr) (f : RRR) (s : State) : Out := .next (aluWord h f 1 (alu f.ty.toNat false max) s)

/-- MINU (R203). -/
def execMinu (h : Hdr) (f : RRR) (s : State) : Out := .next (aluWord h f 1 (aluU f.ty.toNat fun x y => (min x y : Nat)) s)

/-- MAXU (R203). -/
def execMaxu (h : Hdr) (f : RRR) (s : State) : Out := .next (aluWord h f 1 (aluU f.ty.toNat fun x y => (max x y : Nat)) s)

/-- ADDSH (R203). -/
def execAddsh (h : Hdr) (f : RRR) (s : State) : Out := .next (aluWord h f 1 (addshVal (f.aux.toNat % 64)) s)

/-- MOV (R206). -/
def execMov (h : Hdr) (f : RRR) (s : State) : Out := .next (aluWord1 h f (fun x => x) s)

/-- CLZ (R207). -/
def execClz (h : Hdr) (f : RRR) (s : State) : Out := .next (aluWord1 h f (fun x => BitVec.ofNat 64 (clzOf (tyWidth f.ty.toNat) x.toNat)) s)

/-- POPC (R207). -/
def execPopc (h : Hdr) (f : RRR) (s : State) : Out := .next (aluWord1 h f (fun x => BitVec.ofNat 64 (popOf (tyWidth f.ty.toNat) x.toNat)) s)

/-- BREV (R207). -/
def execBrev (h : Hdr) (f : RRR) (s : State) : Out := .next (aluWord1 h f (fun x => BitVec.ofNat 64 (revOf (tyWidth f.ty.toNat) x.toNat)) s)

/-- BFX (R208). -/
def execBfx (h : Hdr) (f : RRR) (s : State) : Out := .next (aluWord1 h f (bfxVal f.ty.toNat f.c.toNat (f.aux.toNat % 64 + 1)) s)

/-- BFI (R208). -/
def execBfi (h : Hdr) (f : RRR) (s : State) : Out := .next (aluWord h f 1 (bfiVal f.c.toNat (f.aux.toNat % 64 + 1)) s)

/-- ADDI (R204). -/
def execAddi (h : Hdr) (f : RRI) (s : State) : Out := .next (aluWordI h f (addiVal (f.md.getLsbD 0) f.imm) s)

/-- MOVI (R209). -/
def execMovi (h : Hdr) (f : RRI) (s : State) : Out := .next (aluWordI h f (fun _ => moviVal (f.md.getLsbD 0) f.imm) s)

/-- MOVHI (R209). -/
def execMovhi (h : Hdr) (f : RRI) (s : State) : Out := .next (aluWordI h f (movhiVal f.imm) s)

/-- CMP (R206). -/
def execCmp (h : Hdr) (f : RRR) (s : State) : Out :=
  .next (coreWord h (fun s => s.writeBack 1 [.p f.d.toNat (cmpVal f.ty.toNat f.cnd.toNat (s.core.ra f.a.toNat) (s.opB f))]) s)

/-- PLOG (R206). -/
def execPlog (h : Hdr) (f : RRR) (s : State) : Out :=
  .next (coreWord h (fun s => s.writeBack 1 [.p f.d.toNat (lutVal f.aux.toNat (s.core.rp f.a.toNat) (s.core.rp f.b.toNat))]) s)

/-- SEL (R206). -/
def execSel (h : Hdr) (f : RRR) (s : State) : Out :=
  .next (coreWord h (fun s => s.writeBack 1 [.a f.d.toNat (if s.core.rp f.c.toNat then s.core.ra f.a.toNat else s.opB f)]) s)

/-- MOVK (R210, R23). -/
def execMovk (h : Hdr) (f : RRR) (s : State) : Out :=
  .next (coreWord h (fun s =>
    let j := if f.aux.getLsbD 0 then s.cur.core.1 else 0
    s.writeBack 1 [.a f.d.toNat (s.uniform f.uniNum j)]) s)

/-- LD (R211, R212, R216). -/
def execLd (h : Hdr) (f : MEM) (s : State) : Out :=
  .next (coreWord h (fun s =>
    lsRead (s.core.memAddr f) (tyBytes f.ty.toNat) (fun x s => s.writeBack 5 [.a f.d.toNat (extendData f.ty.toNat x)]) s) s)

/-- ST (R211, R213). -/
def execSt (h : Hdr) (f : MEM) (s : State) : Out :=
  .next (coreWord h (fun s =>
    let ea := s.core.memAddr f
    let n := tyBytes f.ty.toNat
    match s.lsCheck ea n with
    | some d => s.trapWord 0x0F d
    | none => (s.usePort [ea / 64]).storeNow (bytesAt ea n (s.core.ra f.d.toNat).toNat)) s)

/-- The new value of an AMO (R214): min and max are unsigned only under .ui32. -/
def amoVal (ty op old d : Nat) : Nat :=
  let w := 8 * tyBytes ty
  let less := if ty = 21 then decide (old < d) else decide (signedOf old w < signedOf d w)
  if op = 0 then d
  else if op = 1 then (old + d) % 2 ^ w
  else if op = 2 then old &&& d
  else if op = 3 then old ||| d
  else if op = 4 then old ^^^ d
  else if op = 5 then (if less then old else d)
  else (if less then d else old)

/-- AMO (R211, R214, R216): one read-modify-write in its cycle. -/
def execAmo (h : Hdr) (f : MEM) (s : State) : Out :=
  .next (coreWord h (fun s =>
    let ea := s.core.memAddr f
    let n := tyBytes f.ty.toNat
    let d := (s.core.ra f.d.toNat).toNat % 2 ^ (8 * n)
    lsRead ea n (fun old s =>
      (s.storeNow (bytesAt ea n (amoVal f.ty.toNat f.aux.toNat old d))).writeBack 8 [.a f.d.toNat (extendData f.ty.toNat old)]) s) s)

/-- ACAS (R211, R215, R216). -/
def execAcas (h : Hdr) (f : MEM) (s : State) : Out :=
  .next (coreWord h (fun s =>
    let ea := s.core.memAddr f
    let n := tyBytes f.ty.toNat
    let d := (s.core.ra f.d.toNat).toNat % 2 ^ (8 * n)
    let e := (s.core.ra (f.d.toNat + 1)).toNat % 2 ^ (8 * n)
    lsRead ea n (fun old s =>
      (if old = d then s.storeNow (bytesAt ea n e) else s).writeBack 8
        [.a f.d.toNat (extendData f.ty.toNat old), .p f.aux.toNat (decide (old = d))]) s) s)

end Sys2Proof.Machine
end

