-- ==== Sys2Proof/Machine/Image.lean ====
section
/-! DEFINITION. Task images (R91 to R93) with their share map (R301), extents, shape table (R300), liveness records (R169)
and plans (R346 to R350), and route tables (R263, R264), as the dispatch engine reads and checks them. -/

namespace Sys2Proof.Machine

open Sys2Proof

/-- A number is a multiple of another. -/
def mult (x k : Nat) : Bool := x % k == 0

/-- A field of a list of bytes (R6). -/
def fieldOf (bs : List Byte) (o n : Nat) : Nat := leNat ((bs.drop o).take n)

/-- The bytes of a list from an offset on are zero, `n` of them. -/
def zeroAt (bs : List Byte) (o n : Nat) : Bool := ((bs.drop o).take n).all (· == 0)

/-! ## Task images (R91 to R93) -/

/-- An entry of a section table (R92, R397). -/
structure Sec where
  ty : Nat
  row : Nat
  core : Nat
  addr : Nat
  ofs : Nat
  len : Nat
  deriving DecidableEq, Repr, Inhabited

/-- A section table of `n` entries. -/
def readSecs (bs : List Byte) (n : Nat) : List Sec :=
  (List.range n).map fun i =>
    let o := 16 * i
    ⟨fieldOf bs o 2, fieldOf bs (o + 2) 1, fieldOf bs (o + 3) 1, fieldOf bs (o + 4) 4, fieldOf bs (o + 8) 4, fieldOf bs (o + 12) 4⟩

/-- An extent declaration (R93). -/
structure Decl where
  taddr : Nat
  size : Nat
  perm : Nat
  rows : Nat
  cores : Nat
  deriving DecidableEq, Repr, Inhabited

/-- A task image that has been read. -/
structure Image where
  rows : Nat
  gang : Nat
  size : Nat
  secs : List Sec
  deriving DecidableEq, Repr, Inhabited

/-- The bytes of a section of the image at a stream address. -/
def State.secBytes (s : State) (base : Nat) (k : Sec) : List Byte := s.streamBytes (base + k.ofs) k.len

/-- The section of a type that an image holds at most once. -/
def Image.sec? (m : Image) (ty : Nat) : Option Sec := m.secs.find? fun k => k.ty == ty

/-- The bytes of the section of a type, none of them where the image has no such section. Its ROWMASK and COREMASK are not looked at: log
entry 113. -/
def State.imageSec (s : State) (base : Nat) (m : Image) (ty : Nat) : List Byte := ((m.sec? ty).map (s.secBytes base)).getD []

/-- Consecutive records of `w` bytes. -/
def records (w : Nat) (bs : List Byte) : List (List Byte) := (List.range (bs.length / w)).map fun i => (bs.drop (w * i)).take w

/-- An extent record keeps its rule (R93). -/
def declOk (rows : Nat) (b : List Byte) : Bool :=
  let a := fieldOf b 0 8
  let n := fieldOf b 8 8
  let p := fieldOf b 16 1
  mult a 65536 && mult n 65536 && n != 0 && decide (a + n ≤ 2 ^ 48) && p != 0 && decide (p < 8) && decide (fieldOf b 17 1 < 2 ^ rows)
    && zeroAt b 19 13

/-- A shape entry keeps its rule (R300). -/
def shapeOk (b : List Byte) : Bool :=
  let ty := bitsOf (fieldOf b 0 1) 0 5
  bitsOf (fieldOf b 0 1) 5 3 == 0 && (decide (ty < 6) || [7, 8, 9].contains ty || (decide (16 ≤ ty) && decide (ty ≤ 22)))

/-- A liveness record keeps its rule (R169). -/
def lrecOk (b : List Byte) : Bool :=
  let n := fieldOf b 0x20 1
  decide (n ≤ 8) && zeroAt b 0x21 31 && zeroAt b (0x40 + 8 * n) (64 - 8 * n)
    && (List.range n).all fun i =>
      let a := fieldOf b (0x40 + 8 * i) 4
      let k := fieldOf b (0x44 + 8 * i) 4
      mult a 64 && mult k 64 && decide (a + k ≤ lsEnd)

/-- A section keeps its rule (R92, R93, R169, R300, R346). Log entry 112 says why a local-store section must end inside the local store,
log entry 114 why a stream holds whole words and an extent section whole declarations. -/
def State.secOk (s : State) (base rows size : Nat) (k : Sec) : Bool :=
  decide (k.row < 2 ^ rows) && (k.ty == 2 || k.addr == 0) && mult k.ofs 8 && decide (k.ofs + k.len ≤ size) &&
    match k.ty with
    | 0x0001 => k.core == 0xFF && mult k.len 8 && decide (k.len ≤ 2097152)
    | 0x0002 => decide (k.addr + k.len ≤ lsEnd)
    | 0x0003 => k.len == 128
    | 0x0004 => mult k.len 32 && (records 32 (s.secBytes base k)).all (declOk rows)
    | 0x0005 => mult k.len 32 && decide (k.len ≤ 8192) && (records 32 (s.secBytes base k)).all shapeOk
    | 0x0006 => mult k.len 128 && decide (k.len ≤ 32768) && (records 128 (s.secBytes base k)).all lrecOk
    | 0x0007 => mult k.len 32
    | 0x00FF => true
    | _ => false

/-- At most one section of each type that allows no more. -/
def singleSecs (ks : List Sec) : Bool := [3, 4, 5, 6, 7].all fun ty => decide ((ks.filter fun k => k.ty == ty).length ≤ 1)

/-- Every row has exactly one stream (R93). -/
def streamsOk (rows : Nat) (ks : List Sec) : Bool :=
  (List.range rows).all fun r => (ks.filter fun k => k.ty == 1 && bitOf k.row r).length == 1

/-- NAME of a header is padded with zeros (R91); one of 32 characters is accepted: log entry 140. -/
def nameOk (bs : List Byte) : Bool := (bs.dropWhile (· != 0)).all (· == 0)

/-- Read and check the task image at a stream address (R91 to R93, R169, R300). One that runs past the end of its module reads as what lies
there, zero: log entry 159. -/
def State.readImage (s : State) (base : Nat) : Option Image :=
  let h := s.streamBytes base 64
  let rows := fieldOf h 8 1
  let gang := fieldOf h 0x0A 2
  let size := fieldOf h 0x0C 4
  let ofs := fieldOf h 0x10 4
  let n := fieldOf h 0x14 4
  let ks := readSecs (s.streamBytes (base + ofs) (16 * n)) n
  if fieldOf h 0 4 == 0x4E45495A && fieldOf h 4 2 == 1 && fieldOf h 6 2 == 64 && decide (1 ≤ rows) && decide (rows ≤ 8) && zeroAt h 9 1
      && decide (1 ≤ gang) && decide (gang ≤ 8192) && mult ofs 16 && decide (1 ≤ n) && decide (n ≤ 1024) && zeroAt h 0x18 8
      && nameOk ((h.drop 0x20).take 32) && decide (64 ≤ size) && decide (ofs + 16 * n ≤ size) && ks.all (s.secOk base rows size) && singleSecs ks && streamsOk rows ks then
    some ⟨rows, gang, size, ks⟩
  else none

/-- The sectors of a task image are read (R337): of one that breaks its rules its header, and its section table where the header says that
the image holds one, with the sections whose records are checked. Log entry 136. -/
def State.touchImage (s : State) (base : Nat) : State :=
  match s.readImage base with
  | some m => s.streamTouch base m.size
  | none =>
    let f := fun (o : Nat) => s.streamNat (base + o) 4
    let table := if f 0 = 0x4E45495A && decide (f 0x14 ≤ 1024) && decide (f 0x10 + 16 * f 0x14 ≤ f 0x0C) then (f 0x10, 16 * f 0x14) else (0, 0)
    let ks := (readSecs (s.streamBytes (base + table.1) table.2) (table.2 / 16)).filter fun k => [4, 5, 6].contains k.ty && decide (k.ofs + k.len ≤ f 0x0C)
    forEach ks (fun k s => s.streamTouch (base + k.ofs) k.len) ((s.streamTouch base 64).streamTouch (base + table.1) table.2)

/-- The share map of an image: 64 shares, row-major (R93, R301). -/
def State.imageShares (s : State) (base : Nat) (m : Image) : List Nat :=
  let bs := s.imageSec base m 3
  if bs.isEmpty then List.replicate 64 0 else (records 2 bs).map leNat

/-- The share map keeps R301. -/
def sharesOk (xs : List Nat) : Bool :=
  xs.all (fun x => [0, 64, 128, 256, 512].contains x)
    && (List.range 8).all fun r => decide (((xs.drop (8 * r)).take 8).foldl (· + ·) 0 ≤ 2048)

/-- The extent declarations of an image (R93). -/
def State.imageDecls (s : State) (base : Nat) (m : Image) : List Decl :=
  (records 32 (s.imageSec base m 4)).map fun b => ⟨fieldOf b 0 8, fieldOf b 8 8, fieldOf b 16 1, fieldOf b 17 1, fieldOf b 18 1⟩

/-- The shape table of an image (R300). -/
def State.imageShapes (s : State) (base : Nat) (m : Image) : List (BitVec 256) :=
  (records 32 (s.imageSec base m 5)).map fun b => BitVec.ofNat 256 (leNat b)

/-- The liveness records of an image (R169). -/
def State.imageLrecs (s : State) (base : Nat) (m : Image) : List (List Byte) := records 128 (s.imageSec base m 6)

/-- The words of the stream of a row (R51, R93). -/
def State.imageStream (s : State) (base : Nat) (m : Image) (r : Nat) : List Word :=
  match m.secs.find? fun k => k.ty == 1 && bitOf k.row r with
  | some k => (records 8 (s.secBytes base k)).map fun b => BitVec.ofNat 64 (leNat b)
  | none => []

/-- The local-store contents that an image gives a core (R93, R140): later sections stand over earlier ones. -/
def State.imageLs (s : State) (base : Nat) (m : Image) (r c : Nat) : Memory :=
  (m.secs.filter fun k => k.ty == 2 && bitOf k.row r && bitOf k.core c).foldl
    (fun ls k => Memory.putBytes ls k.addr (s.secBytes base k)) []

/-! ## Route tables (R263, R264) -/

/-- A route-table entry keeps R264; a PATH byte of 144 to 254 is accepted: log entry 147. -/
def routeOk (members llead : Nat) (e : BitVec 128) : Bool :=
  !routeVal e ||
    (decide (routeRank e < members) && decide (routeHops e ≤ 8)
      && (List.range 8).all (fun i => (routePort e i == 0xFF) == decide (routeHops e ≤ i))
      && decide (96 + 256 * routeHops e + llead ≤ routeLfix e))

/-- Read the route table of a map context (R377): an address of zero gives no valid entry. -/
def State.readRoutes (s : State) (rt : Nat) : Sparse (BitVec 128) :=
  if rt = 0 then []
  else Sparse.setMany 0 [] (((List.range 4096).map fun i => (i, BitVec.ofNat 128 (s.streamNat (rt + 16 * i) 16))).filter fun (_, e) => routeVal e)

/-! ## Plans (R346 to R350) -/

/-- Read a plan entry (R347). -/
def readEntry (b : List Byte) : PlanEntry :=
  { off := fieldOf b 0 4, kind := fieldOf b 4 1, flags := fieldOf b 5 1, ty := fieldOf b 6 1, rop := fieldOf b 7 1,
    memb := fieldOf b 8 2, nb := fieldOf b 0x0A 2, cntA := fieldOf b 0x0C 1, cntB := fieldOf b 0x0D 1, rte := fieldOf b 0x0E 2,
    a := fieldOf b 0x10 4, b := fieldOf b 0x14 4, d := fieldOf b 0x18 4, tag := fieldOf b 0x1C 2 }

/-- A plan entry as bytes (R347). -/
def entryBytes (e : PlanEntry) : List Byte :=
  leBytes 4 e.off ++ leBytes 1 e.kind ++ leBytes 1 e.flags ++ leBytes 1 e.ty ++ leBytes 1 e.rop ++ leBytes 2 e.memb ++ leBytes 2 e.nb
    ++ leBytes 1 e.cntA ++ leBytes 1 e.cntB ++ leBytes 2 e.rte ++ leBytes 4 e.a ++ leBytes 4 e.b ++ leBytes 4 e.d ++ leBytes 2 e.tag
    ++ leBytes 2 0

/-- A plan as bytes (R346). -/
def planBytes (p : Plan) : List Byte :=
  leBytes 1 p.index ++ leBytes 1 0 ++ leBytes 2 p.entries.length ++ leBytes 4 p.cbuf ++ leBytes 24 0 ++ p.entries.flatMap entryBytes

/-- Read the plan that begins a list of bytes, with what follows it: none where the header breaks R346 or an entry's last two
bytes are not zero. -/
def readPlan (bs : List Byte) : Option (Plan × List Byte) :=
  let n := fieldOf bs 2 2
  let cbuf := fieldOf bs 4 4
  let es := records 32 ((bs.drop 32).take (32 * n))
  if 32 ≤ bs.length && decide (fieldOf bs 0 1 < 64) && zeroAt bs 1 1 && decide (1 ≤ n) && decide (n ≤ 4096) && mult cbuf 64
      && decide (cbuf ≤ 0xC000000) && zeroAt bs 8 24 && es.length == n && es.all (fun b => zeroAt b 0x1E 2) then
    some (⟨fieldOf bs 0 1, cbuf, es.map readEntry⟩, bs.drop (32 + 32 * n))
  else none

/-- Read the plans of a section, at most `fuel` of them. -/
def readPlans : Nat → List Byte → Option (List Plan)
  | 0, bs => if bs.isEmpty then some [] else none
  | fuel + 1, bs =>
    if bs.isEmpty then some []
    else match readPlan bs with
      | none => none
      | some (p, rest) => (readPlans fuel rest).map fun ps => p :: ps

/-- An operand in chunk-buffer form (R349, R350): `n` bytes of it lie within CBUF. -/
def chunkOk (cbuf x n : Nat) : Bool := mult x 64 && decide (x < 2 ^ 28) && decide (x + n ≤ cbuf)

/-- An operand in LS form (R349, R350). -/
def lsRefOk (rows x : Nat) : Bool := bitsOf x 19 3 == 0 && decide (bitsOf x 29 3 < rows)

/-- TY and ROP of a reduction (R348). -/
def reduceOk (e : PlanEntry) : Bool := (e.ty == 1 || e.ty == 20) && decide (e.rop ≤ 2)

/-- The fields of an entry keep R347 to R349 and its operands R350. -/
def entryOk (rows members cbuf : Nat) (e : PlanEntry) : Bool :=
  let n := 64 * (e.nb + 1)
  let noTy := e.ty == 0 && e.rop == 0
  decide (e.off < 2 ^ 24) && decide (e.flags < 128) && decide (e.ty < 32) && bitsOf e.memb 13 2 == 0 && decide (e.nb < 1024)
    && bitsOf e.rte 12 3 == 0 && (bitOf e.memb 15 || decide (e.memb % 8192 < members)) &&
  match e.kind with
  | 1 => e.flags == 0 && noTy && e.cntB == 0 && e.rte == 0 && e.a == 0 && e.b == 0 && chunkOk cbuf e.d n
  | 2 => e.flags &&& 0x3A == 0 && noTy && e.cntB == 0 && e.b == 0 && e.d == 0
      && (planChkA e || e.cntA == 0)
      && (if planLsa e then !planChkA e && lsRefOk rows e.a else !planWide e && chunkOk cbuf e.a n)
  | 3 => e.flags &&& 0x7C == 0 && reduceOk e && e.rte == 0 && e.tag == 0
      && [e.a, e.b, e.d].all (fun x => chunkOk cbuf x n)
      && ([e.a, e.b, e.d].all (fun x => decide (x + n ≤ 0x6000000)) || [e.a, e.b, e.d].all (fun x => decide (0x6000000 ≤ x)))
  | 4 => e.flags &&& 0x74 == 0 && !planLocal e && e.d == 0 && chunkOk cbuf e.a n
      && (if planRed e then reduceOk e && chunkOk cbuf e.b n else noTy && e.b == 0 && !planChkB e)
  | 5 => e.flags &&& 0x4E == 0 && noTy && e.cntB == 0 && e.rte == 0 && e.b == 0 && chunkOk cbuf e.a n && lsRefOk rows e.d
      && (if planBen e then decide (e.tag < 16) else e.tag == 0)
  | _ => false

/-- The OFF values never decrease (R350). -/
def offsOk : List PlanEntry → Bool
  | x :: y :: es => decide (x.off ≤ y.off) && offsOk (y :: es)
  | _ => true

/-- Two entries apply to one member (R350). -/
def sameMember (x y : PlanEntry) : Bool := bitOf x.memb 15 || bitOf y.memb 15 || x.memb % 8192 == y.memb % 8192

/-- No two RECV entries that apply to one member carry one tag (R350). -/
def tagsOk : List PlanEntry → Bool
  | [] => true
  | x :: es => (x.kind != 1 || es.all fun y => y.kind != 1 || y.tag != x.tag || !sameMember x y) && tagsOk es

/-- The plan passes R350 on a member. -/
def planOk (rank members rows : Nat) (routes : Sparse (BitVec 128)) (p : Plan) : Bool :=
  let mine := p.mine rank
  p.entries.all (entryOk rows members p.cbuf) && offsOk p.entries && tagsOk p.entries
    && mine.all (fun (_, e) => !(e.kind == 2 || e.kind == 4) || planLocal e || routeVal (Sparse.get 0 routes (e.rte % 4096)))
    && !usesFail (runUses routes 0 mine) && decide (runEnd mine ≤ 16777215)

/-- The bytes of plan memory that plans take (R344, R346). -/
def planMem (ps : List Plan) : Nat := (ps.map fun p => 32 + 32 * p.entries.length).foldl (· + ·) 0

/-- The chunk-buffer space of a task with these plans (R344). -/
def cbufOf (ps : List Plan) : Nat := ps.foldl (fun m p => max m p.cbuf) 0

/-- Plans fit beside those of the tasks that run (R344): plan memory, and each die's chunk buffers. `slot` is the task that
the plans belong to. -/
def State.plansFit (s : State) (slot : Option Slot) (ps : List Plan) : Bool :=
  let others := (s.slots.filter fun t => (s.taskAt t).live && some t != slot).map fun t => (s.taskAt t).plans
  let sizes := cbufOf ps :: others.map cbufOf
  decide (((planMem ps) :: others.map planMem).foldl (· + ·) 0 ≤ 4194304)
    && decide ((sizes.map fun n => min n 0x6000000).foldl (· + ·) 0 ≤ 0x6000000)
    && decide ((sizes.map fun n => n - 0x6000000).foldl (· + ·) 0 ≤ 0x6000000)

/-- Plan indices differ (R346). -/
def indicesOk (ps : List Plan) : Bool := decide (((ps.map (·.index)).eraseDups).length = ps.length)

end Sys2Proof.Machine
end

