-- ==== Sys2Proof/Machine/Stream.lean ====
section
/-! DEFINITION. The front end (13_dispatcher.md, R371 to R384): streams and their packets, reports, the packets that need no
dispatch engine, and the arbitration of the engine. -/

namespace Sys2Proof.Machine

open Sys2Proof

/-- Domain cycles of a microsecond: the domain clock runs at 1.25 GHz (R25). -/
def microsecond : Nat := 1250

/-! ## Streams -/

/-- A stream's registers. -/
def State.stream (s : State) (n : Nat) : Stream := Sparse.get {} s.pkg.streams n

/-- Change a stream. -/
def State.modStream (s : State) (n : Nat) (f : Stream → Stream) : State :=
  s.modPkg fun p => { p with streams := Sparse.set {} p.streams n (f (s.stream n)) }

/-- The size of a ring (R371). -/
def Stream.size (k : Stream) : Nat := 2 ^ (if 12 ≤ k.log2 && k.log2 ≤ 30 then k.log2 else 12)

/-- The offset behind a packet that ends at `n` (R372). -/
def Stream.wrap (k : Stream) (n : Nat) : Nat := if n = k.size then 0 else n

/-- A front end looks at its stream (R372). -/
def State.kick (s : State) (n dt : Nat) : State :=
  s.add { gang := false, due := s.dcc + dt, rank := 50, work := .cont (.frontEnd n) }

/-- What a SEMWAIT of a stream has put on the agenda goes with it. -/
def State.dropPolls (s : State) (n : Nat) : State :=
  { s with agenda := s.agenda.filter fun e => !(e.work == Work.ev (.semwaitPoll n) || e.work == Work.ev (.semwaitTimeout n)) }

/-- The stream halts with a code at its packet (R373), and the host is interrupted. -/
def State.haltStream (n code : Nat) (s : State) : State :=
  ((s.dropPolls n).modStream n fun k => { k with err := true, code := code, pos := (k.busy.map (·.pos)).getD k.head, busy := none, wait := none, fencing := false }).interrupt n

/-- The packet of a stream completes (R372, R373): HEAD moves to its end, the host is interrupted where it asks for it, and
the next packet is read in the next domain cycle. -/
def State.complete (n : Nat) (s : State) : State :=
  match (s.stream n).busy with
  | none => s
  | some b =>
    let s := (s.dropPolls n).modStream n fun k => { k with head := if b.stale then k.head else k.wrap b.next, busy := none, wait := none, fencing := false }
    (if b.irq then s.interrupt n else s).kick n 1

/-! ## Reports (R375) -/

/-- The ADDR field of a report (R375): free for a code of which the specification says nothing. -/
def reportAddr (rep : EndReport) (dcc : Nat) : Nat :=
  if [0x02, 0x03, 0x05, 0x13, 0x14, 0x16, 0x22].contains rep.code || rep.addr ≠ 0 then rep.addr else Config.openField 0x400 rep.code dcc

/-- The 32 bytes of a report. -/
def reportBytes (rep : EndReport) (taskid dcc rank : Nat) : List Byte :=
  leBytes 1 rep.code ++ leBytes 1 rep.trapc ++ leBytes 1 rep.detail ++ leBytes 1 rep.row ++ leBytes 4 taskid ++ leBytes 8 dcc
    ++ leBytes 8 (reportAddr rep dcc)
    ++ leBytes 1 rep.module ++ leBytes 1 rep.col ++ leBytes 2 (rep.rank.getD rank) ++ leBytes 4 rep.aux

/-- Write the bytes of a report, once a port carries traffic toward its module (R407), then complete the packet (R375). -/
def State.putReport (n addr : Nat) (bs : List Byte) (s : State) : State :=
  if s.cut (2 ^ 64 - 1) addr then s.addDomain (s.dcc + portWait) 59 (.cont (.report n addr bs)) else (s.streamWrite addr bs).complete n

/-- Write a report, then complete the packet (R375). -/
def State.report32 (n addr : Nat) (rep : EndReport) (taskid dcc rank : Nat) (s : State) : State :=
  s.putReport n addr (reportBytes rep taskid dcc rank)

/-! ## Packets (R373 to R382) -/

/-- A field of the packet at the head of a stream. -/
def State.pktNat (s : State) (k : Stream) (o n : Nat) : Nat := s.streamNat (k.base + k.head + 4 + o) n

/-- LEN of a packet opcode (R374): none where the opcode is unassigned. -/
def pktLen (opc len : Nat) : Option Nat :=
  match opc with
  | 0x00 => some len
  | 0x01 => some 12
  | 0x02 => some 6
  | 0x03 => some 5
  | 0x04 => some 8
  | 0x05 => some 6
  | 0x06 => some 6
  | 0x07 => some 0
  | 0x08 => some 8
  | 0x09 => some 10
  | _ => none

/-- A stream address with its alignment (R370). -/
def addrOk (a align : Nat) : Bool := streamOk a && mult a align

/-- The packet at the head of a stream (R373 to R382): none where it is malformed. -/
def State.readPacket (s : State) (n : Nat) (k : Stream) : Option Instr :=
  let h := s.streamNat (k.base + k.head) 4
  let opc := bitsOf h 24 8
  let len := bitsOf h 12 12
  let p := s.pktNat k
  let good := fun (b : Bool) (i : Instr) => if b then some i else none
  if bitsOf h 0 11 ≠ 0 || pktLen opc len != some len || k.size < k.head + 4 + 4 * len then none
  else match opc with
    | 0x00 => some (.pnop n)
    | 0x01 =>
      let x : LaunchPkt :=
        { taskid := p 0 4, firstRow := p 4 1, flags := p 5 1, holdLim := p 6 1, image := p 8 8, dcc := p 0x10 8, report := p 0x18 8,
          rank := p 0x20 2, members := p 0x22 2, gangTag := p 0x28 8 }
      good (decide (x.flags < 4) && p 7 1 == 0 && addrOk x.image 64 && addrOk x.report 32 && decide (x.rank < x.members)
        && p 0x24 4 == 0 && (decide (x.members ≤ 1) || bitOf x.flags 0)) (.launch n x)
    | 0x02 => good (addrOk (p 0 8) 8 && decide (p 0x10 1 ≤ 1) && p 0x11 3 == 0)
        (.semwait n { addr := p 0 8, value := p 8 8, eq := p 0x10 1 == 1, tmo := p 0x14 4 })
    | 0x03 => good (addrOk (p 0 8) 8 && decide (p 0x10 1 ≤ 1) && p 0x11 3 == 0) (.semsig n (p 0 8) (p 8 8) (p 0x10 1 == 1) false)
    | 0x04 => good ((p 0 8 == 0 || (inModule (p 0 8) && addrOk (p 0 8) 2048)) && addrOk (p 8 8) 64 && p 0x1A 6 == 0)
        (.mapx n { ptRoot := p 0 8, rtAddr := p 8 8, podMap := p 0x10 8, cwd := p 0x18 2 })
    | 0x05 => good (p 4 4 == 0 && addrOk (p 8 8) 32 && addrOk (p 0x10 8) 32) (.planld n (p 0 4) (p 8 8) (p 0x10 8))
    | 0x06 =>
      let a := p 0 8
      let b := p 8 8
      let w := p 0x10 4
      good (addrOk a 64 && addrOk b 64 && w != 0 && mult w 64 && p 0x14 4 == 0 && streamOk (a + w - 1) && streamOk (b + w - 1)
)
        (.hcopy n a b w false)
    | 0x07 => some (.qfence n)
    | 0x08 => good (decide (p 4 4 < 2) && addrOk (p 8 8) 64 && addrOk (p 0x18 8) 32)
        (.preempt n { taskid := p 0 4, disc := p 4 4 == 1, save := p 8 8, saveLen := p 0x10 8, report := p 0x18 8 })
    | _ => good (addrOk (p 0 8) 64 && addrOk (p 0x10 8) 32 && decide (p 0x19 1 < 4) && p 0x1A 6 == 0)
        (.resume n { save := p 0 8, dcc := p 8 8, report := p 0x10 8, firstRow := p 0x18 1, flags := p 0x19 1, gangTag := p 0x20 8 })

/-! ## The front end -/

/-- The front end of a stream reads its next packet (R372): a TAIL that breaks R372 and a malformed packet halt the
stream. -/
def State.frontEnd (s : State) (n : Nat) : State :=
  let k := s.stream n
  if !k.en || k.err || k.busy.isSome || k.head = k.tail then s
  else if s.cut (2 ^ 64 - 1) (k.base + k.head) then s.kick n portWait
  else if !mult k.tail 4 || k.size ≤ k.tail then (s.modStream n fun k => { k with badTail := true }).haltStream n 0x10
  else
    let h := s.streamNat (k.base + k.head) 4
    let b : Busy := { id := s.next, pos := k.head, next := k.head + 4 + 4 * bitsOf h 12 12, irq := bitOf h 11 }
    let i? := s.readPacket n k
    let s := s.streamTouch (k.base + k.head) (b.next - k.head)
    match i? with
    | none => s.haltStream n 0x10
    | some i => ((s.modStream n fun k => { k with busy := some b }).fresh).add { gang := false, due := s.dcc, rank := 51, work := .ev i }

/-- STREAM_ENABLE (R372, R427): EN goes from 0 to 1; in safe function the write is ignored. -/
def execStreamEnable (strm : Nat) (s : State) : Out :=
  .next (if !s.pkg.boot.full then s else (s.modStream strm fun k => { k with en := true, head := 0, err := false, badTail := false, busy := k.busy.map fun b => { b with stale := true } }).kick strm 0)

/-- STREAM_DOORBELL (R372, R373). -/
def execStreamDoorbell (strm tail : Nat) (s : State) : Out := .next (s.ifUp ((s.modStream strm fun k => { k with tail := tail }).kick strm 0))

/-- SERR_CLEAR (R373): HEAD moves past the packet at POS. -/
def execSerrClear (strm : Nat) (s : State) : Out :=
  let k := s.stream strm
  .next (s.ifUp <| if !k.err then s
    else
      let last := k.pos + 4 + 4 * bitsOf (s.streamNat (k.base + k.pos) 4) 12 12
      let toTail := (k.tail + k.size - k.pos % k.size) % k.size
      let head := if k.badTail then k.head else if k.size < last || decide (toTail < last - k.pos) then k.tail else k.wrap last
      (s.modStream strm fun k => { k with err := false, badTail := false, head := head }).kick strm 0)

/-- PNOP (R382). -/
def execPnop (strm : Nat) (s : State) : Out := .next (s.complete strm)

/-- MAPX (R377). -/
def execMapx (strm : Nat) (c : MapCtx) (s : State) : Out := .next ((s.modStream strm fun k => { k with ctx := c }).complete strm)

/-- The sector at a stream address reads as poisoned (R337). -/
def State.addrBad (s : State) (a : Nat) : Bool := inModule a && (s.sector (modAddr (streamModule a) (bitsOf a 0 39))).bad

/-! ## Semaphores (R376, R155) -/

/-- The condition of a SEMWAIT holds. -/
def State.semHolds (s : State) (w : SemWait) : Bool :=
  let x := s.streamNat w.addr 8
  if w.eq then x == w.value else decide (w.value ≤ x)

/-- A SEMWAIT reads its semaphore, and reads it again 2 µs later where the condition does not hold (R376); an access that fails, or finds
poison, halts the stream (R383). -/
def State.semPoll (n : Nat) (w : SemWait) (s : State) : State :=
  if s.addrAway (s.stream n).ctx.podMap w.addr then s.haltStream n 0x18
  else if s.cut (s.stream n).ctx.podMap w.addr then s.addDomain (s.dcc + portWait) 52 (.ev (.semwaitPoll n))
  else if s.accessFails w.addr || s.addrBad w.addr then (s.streamTouch w.addr 8).haltStream n 0x24
  else if s.semHolds w then (s.streamTouch w.addr 8).complete n
  else (s.streamTouch w.addr 8).addDomain (s.dcc + 2 * microsecond) 52 (.ev (.semwaitPoll n))

/-- SEMWAIT (R376). -/
def execSemwait (strm : Nat) (p : SemWait) (s : State) : Out :=
  let s := s.modStream strm fun k => { k with wait := some p }
  let s := if p.tmo = 0 then s else s.addDomain (s.dcc + p.tmo * microsecond) 53 (.ev (.semwaitTimeout strm))
  .next (s.semPoll strm p)

/-- SEMWAIT_POLL (R376). -/
def execSemwaitPoll (strm : Nat) (s : State) : Out :=
  .next (match (s.stream strm).wait with
    | some w => s.semPoll strm w
    | none => s)

/-- SEMWAIT_TIMEOUT (R376). -/
def execSemwaitTimeout (strm : Nat) (s : State) : Out :=
  .next (if (s.stream strm).wait.isSome then s.haltStream strm 0x23 else s)

/-- A task that a stream launched has far-memory writes that have still to take effect (R155, R395). -/
def State.owesWrites (s : State) (n : Nat) : Bool := s.taskList.any fun t => t.live && t.ghost.isSome && t.strm == n

/-- SEMSIG (R155, R376): with release semantics. -/
def execSemsig (strm addr value : Nat) (add fails : Bool) (s : State) : Out :=
  .next (if s.owesWrites strm || s.cut (s.stream strm).ctx.podMap addr then s.addDomain (s.dcc + 64) 51 (.ev (.semsig strm addr value add fails))
    else if s.addrAway (s.stream strm).ctx.podMap addr then s.haltStream strm 0x18
    else if fails || s.accessFails addr || (add && s.addrBad addr) then (if add then s.streamTouch addr 8 else s).haltStream strm 0x24
    else
      let s := if add then s.streamTouch addr 8 else s
      let x := if add then s.streamNat addr 8 + value else value
      (s.streamWrite addr (leBytes 8 x)).complete strm)

/-! ## Fences over saved images (R382, R395) -/

/-- QFENCE (R382): it waits while an image that an earlier PREEMPT of the stream saved has WRDONE = 0. -/
def execQfence (strm : Nat) (s : State) : Out :=
  .next (if (s.stream strm).saves.isEmpty then s.complete strm else s.modStream strm fun k => { k with fencing := true })

/-- The image at a save area has WRDONE = 1: streams forget it, and their fences complete (R382). -/
def State.saveDone (save : Nat) (s : State) : State :=
  forEach (List.range 64) (fun n s =>
    let k := s.stream n
    if k.saves.contains save then
      let s := s.modStream n fun k => { k with saves := k.saves.erase save }
      if k.fencing && (s.stream n).saves.isEmpty then s.complete n else s
    else s) s

/-! ## The dispatch engine (R384) -/

/-- The engine grants a request, when it is free, in this domain cycle (R384). -/
def State.kickEngine (s : State) (dt : Nat) : State :=
  let e : Entry := { gang := false, due := s.dcc + dt, rank := 54, work := .ev .dispatchGrant }
  if s.pkg.reqs.isEmpty || s.pkg.engine.isSome || s.agenda.contains e then s else s.add e

/-- A front end requests the engine. -/
def State.request (n : Nat) (j : EngJob) (s : State) : State := (s.modPkg fun p => { p with reqs := p.reqs ++ [(n, j)] }).kickEngine 0

/-- The engine is free again. -/
def State.freeEngine (s : State) : State := (s.modPkg fun p => { p with engine := none }).kickEngine 1

/-- A priority level holds a waiting request. -/
def State.waiting (s : State) (l : Nat) : Bool := s.pkg.reqs.any fun r => (s.stream r.1).prio == l

/-- The level of the next grant (R384): whether by its credit. -/
def State.grantLevel (s : State) : Option (Nat × Bool) :=
  match [0, 1, 2, 3].find? fun l => s.waiting l && decide (max 1 s.pkg.credit ≤ Sparse.get 0 s.pkg.credits l) with
  | some l => some (l, true)
  | none => ([0, 1, 2, 3].find? s.waiting).map fun l => (l, false)

/-- The stream that is granted within a level: the first in ascending order after the one last granted there (R384). -/
def State.grantStream (s : State) (l : Nat) : Option Nat :=
  let ns := (s.pkg.reqs.map (·.1)).filter fun n => (s.stream n).prio == l
  let start := Sparse.get 0 s.pkg.granted l
  ((List.range 64).map fun i => (start + i) % 64).find? ns.contains

/-- The credits after a grant at a level (R384). -/
def State.grantCredits (s : State) (l : Nat) (byCredit : Bool) : Sparse Nat :=
  let m := if byCredit then Sparse.set 0 s.pkg.credits l 0 else s.pkg.credits
  ([0, 1, 2, 3].filter fun k => decide (l < k) && s.waiting k).foldl (fun m k => Sparse.set 0 m k (Sparse.get 0 m k + 1)) m

/-- Take the next request off the engine's list (R384). -/
def State.grant (s : State) : Option (State × Nat × EngJob) :=
  match s.grantLevel with
  | none => none
  | some (l, by') =>
    match s.grantStream l with
    | none => none
    | some n => (s.pkg.reqs.find? fun r => r.1 == n).map fun r =>
        (s.modPkg fun p => { p with
          reqs := p.reqs.filter fun q => q.1 != n
          credits := s.grantCredits l by'
          granted := Sparse.set 0 p.granted l (n + 1) }, n, r.2)

/-! ## Copies (R380, R157) -/

/-- Copy one 64-byte sector: true when it read as poisoned (R337, R380). -/
def State.copySector (s : State) (src dst : Nat) : State × Bool :=
  let s := s.streamTouch src 64
  let bad := s.addrBad src
  let bs := s.streamBytes src 64
  let as := (List.range 64).map fun i => modAddr (streamModule dst) (bitsOf dst 0 39 + i)
  (if inModule dst then s.modWrite (as.zip bs) (if bad then as else [])
    else { s with host := Memory.putBytes s.host dst (if bad then List.replicate 64 0 else bs) }, bad)

/-- Copy `k` sectors in ascending order; the first that read as poisoned is kept. -/
def State.copySectors : Nat → Nat → Nat → Option Nat → State → State × Option Nat
  | 0, _, _, bad, s => (s, bad)
  | k + 1, src, dst, bad, s =>
    let (s, b) := s.copySector src dst
    State.copySectors k (src + 64) (dst + 64) (if b then bad.or (some src) else bad) s

/-- An access of a copy to host memory fails (R383). -/
def State.copyFails (s : State) (src dst w : Nat) : Bool := (List.range (w / 64)).any fun i => s.accessFails (src + 64 * i) || s.accessFails (dst + 64 * i)

/-- One segment of a copy with the engine (R374, R380): every sector in the domain cycle of the grant, log entry 117. -/
def State.copySegment (n src dst left : Nat) (bad : Option Nat) (s : State) : State :=
  let m := (s.stream n).ctx.podMap
  if s.addrAway m src || s.addrAway m dst then (s.haltStream n 0x18).freeEngine
  else
    let w := min left 65536
    let fails := s.copyFails src dst w
    let (s, bad) := State.copySectors (w / 64) src dst bad s
    if fails then (s.haltStream n 0x24).freeEngine
    else if w < left then (s.request n (.hcopy (src + w) (dst + w) (left - w) bad)).freeEngine
    else match bad with
      | some a => ((s.send (.note 0x24 [n, a])).haltStream n 0x24).freeEngine
      | none => (s.complete n).freeEngine

/-- HCOPY (R380): every segment asks for the engine. -/
def execHcopy (strm src dst bytes : Nat) (fails : Bool) (s : State) : Out :=
  .next (if fails then s.haltStream strm 0x24 else s.request strm (.hcopy src dst bytes none))

/-! ## Plans loaded into a running task (R351, R379) -/

/-- The slot of the running task with an identifier. -/
def State.running (s : State) (taskid : Nat) : Option Slot :=
  s.slots.find? fun t => (s.taskAt t).live && (s.taskAt t).ending.isNone && (s.taskAt t).taskid == taskid

/-- The first GCC of a task whose words issue after this point of the domain cycle (R351): the words of the present GCC have issued unless
a gang hold stands before them. -/
def Task.nextWords (t : Task) : Nat := if t.holding.isSome then t.gcc else t.gcc + 1

/-- Load a plan with the engine (R350, R351, R377, R379): the report of success gives the GCC of the installation; its code is free, since
R383 lists none for it. The plan is read whole, whatever the checks find (log entry 136). A plan in a module that is away is not read; which
code that gives is log entry 126. -/
def State.loadPlan (n taskid addr report : Nat) (s : State) : State :=
  match s.running taskid with
  | none => (s.report32 n report { code := 0x27 } taskid s.dcc 0).freeEngine
  | some t =>
    let k := (s.taskAt t)
    let bs := s.streamBytes addr (32 + 32 * s.streamNat (addr + 2) 2)
    if s.addrAway (s.stream n).ctx.podMap addr then (s.report32 n report { code := 0x18 } taskid s.dcc k.rank).freeEngine
    else
    let s := s.streamTouch addr bs.length
    let bad := (s.report32 n report { code := 0x1A } taskid s.dcc k.rank).freeEngine
    match readPlan bs with
    | none => bad
    | some (p, _) =>
      let ps := (k.plans.filter fun q => q.index != p.index) ++ [p]
      if (k.run? p.index).isSome || !planOk k.rank k.members k.nrows k.routes p || !s.plansFit (some t) ps then bad
      else
        let s := s.modTask t fun k => { k with plans := ps }
        (s.report32 n report { code := Config.openField 0x379 taskid s.dcc % 256, addr := k.nextWords } taskid s.dcc k.rank).freeEngine

/-- PLANLD (R379). -/
def execPlanld (strm taskid plan report : Nat) (s : State) : Out := .next (s.request strm (.planld taskid plan report))

end Sys2Proof.Machine
end

