-- ==== Sys2Proof/Machine/Launch.lean ====
section
/-! DEFINITION. Launch (R384 to R389, R45, R46): preparing a task with the dispatch engine, page walks, row sets, readiness of
gangs, and the launch itself; and the end of a task (R49, R156). -/

namespace Sys2Proof.Machine

open Sys2Proof

/-! ## Row sets (R385) -/

/-- Logical rows that the package presents. -/
def State.rowCount (s : State) : Nat := (all8.filter fun r => s.rows[r].present).length

/-- `n` rows from `first` on are present and free and span no row gap (R16, R385). -/
def State.rowsFree (s : State) (first n : Nat) : Bool :=
  decide (first + n ≤ 8) && (List.range n).all fun i =>
    let r := s.rows[Fin.ofNat 8 (first + i)]
    r.present && r.task.isNone && (decide (i + 1 = n) || !r.gapBelow)

/-- The first row of the row set that a packet gets. -/
def State.rowSet (s : State) (firstRow n : Nat) : Option Nat :=
  if firstRow = 0xFF then (List.range 8).find? fun f => s.rowsFree f n else if s.rowsFree firstRow n then some firstRow else none

/-- The first task slot that holds no task. -/
def State.freeSlot (s : State) : Slot := ((List.range s.tasks.length).find? fun t => !(s.taskAt t).live).getD s.tasks.length

/-! ## Refusals -/

/-- What a job says of itself: TASKID, RANK and REPORT. -/
def EngJob.report (s : State) : EngJob → Nat × Nat × Nat
  | .launch p => (p.taskid, p.rank, p.report)
  | .planld t _ r => (t, 0, r)
  | .hcopy _ _ _ _ => (0, 0, 0)
  | .resume p => (s.streamNat (p.save + 0x18) 4, s.streamNat (p.save + 0x1C) 2, p.report)

/-- The rows that have been given to a slot are free again. -/
def State.releaseRows (slot : Slot) (s : State) : State :=
  forEach (s.rowsOf slot) (fun r s => s.modRow r fun w => { w with task := none, running := false }) s

/-- A launch or restore is refused (R386, R389, R402): what was allocated is released, its report is written and its packet
completes. -/
def State.refuse (n : Nat) (j : EngJob) (rep : EndReport) (s : State) : State :=
  let (taskid, rank, addr) := j.report s
  let mine := match s.pkg.engine with
    | some e => e.strm == n
    | none => false
  let s := match s.pkg.engine.bind (·.place) with
    | some (slot, _) => if mine then s.releaseRows slot else s
    | none => s
  let s := s.modPkg fun p => { p with reqs := p.reqs.filter fun r => r.1 != n, waitRows := p.waitRows.filter fun r => r.1 != n }
  let s := s.report32 n addr rep taskid s.dcc rank
  if mine then s.freeEngine else s

/-- The sectors of the route table of a map context are read (R337, R377). -/
def State.touchRoutes (s : State) (ctx : MapCtx) : State :=
  if ctx.rtAddr = 0 || s.addrAway ctx.podMap ctx.rtAddr then s else s.streamTouch ctx.rtAddr 65536

/-! ## Page walks (R387, R388) -/

/-- How the walk of one page ends: at a page, at a table or page that is not there yet, at a module that no port reaches (R407), or with a
code. -/
inductive Walk where
  | page (m a : Nat)
  | held
  | cut
  | fails (code : Nat)
  deriving DecidableEq, Repr

/-- Reserved bits of a page-table entry are set (R387). -/
def pteBad (level e : Nat) : Bool :=
  bitOf e 58 || bitsOf e 39 13 != 0 || decide (level < 3 ∧ bitsOf e 59 4 ≠ 0) || decide (level = 3 ∧ bitsOf e 11 5 ≠ 0)

/-- Walk the levels of the page table for a tensor address from the table at module `m`, address `a` (R387, R388). -/
def State.walkFrom (s : State) (podMap x perm : Nat) : List Nat → Nat → Nat → Walk
  | [], m, a => if s.away podMap m then .fails 0x18 else .page m a
  | i :: is, m, a =>
    if s.away podMap m then .held
    else if s.portless m then .cut
    else
      let at' := modAddr m (a + 8 * bitsOf x (40 - 8 * i) 8)
      let e := Memory.nat s.modMem at' 8
      if (s.sector at').bad then .fails 0x17
      else if !bitOf e 63 || pteBad i e then .fails 0x13
      else if i = 3 && bitOf e 62 then .held
      else
        let m' := bitsOf e 52 6
        let a' := bitsOf e 11 28 * 2048
        if i = 3 && !s.away podMap m' then
          if modEnd < a' + 65536 then .fails 0x13
          else if (bitOf perm 0 && !bitOf e 59) || (bitOf perm 1 && !bitOf e 60) || (bitOf perm 2 && !bitOf e 61) then .fails 0x14
          else .page m' a'
        else s.walkFrom podMap x perm is m' a'

/-- Walk one page (R388). -/
def State.walkPage (s : State) (ctx : MapCtx) (x perm : Nat) : Walk :=
  if ctx.ptRoot = 0 then .fails 0x13
  else s.walkFrom ctx.podMap x perm [0, 1, 2, 3] (streamModule ctx.ptRoot) (bitsOf ctx.ptRoot 0 39)

/-- Some core has the extents of a declaration (R93, R388). -/
def Decl.used (d : Decl) (rows : Nat) : Bool := decide (d.rows % 2 ^ rows ≠ 0) && decide (d.cores ≠ 0)

/-- The pages of the declarations, with their permissions. -/
def declPages (ds : List Decl) : List (Nat × Nat) := ds.flatMap fun d => (List.range (d.size / 65536)).map fun i => (d.taddr + 65536 * i, d.perm)

/-- The page-table entries that the walk of a page reads (R387). -/
def State.walkReads (s : State) (podMap x : Nat) : List Nat → Nat → Nat → List (Nat × Nat)
  | [], _, _ => []
  | i :: is, m, a =>
    if s.away podMap m || s.portless m then []
    else
      let o := a + 8 * bitsOf x (40 - 8 * i) 8
      let e := Memory.nat s.modMem (modAddr m o) 8
      (m, o) :: if (s.sector (modAddr m o)).bad || !bitOf e 63 || pteBad i e then [] else s.walkReads podMap x is (bitsOf e 52 6) (bitsOf e 11 28 * 2048)

/-- The sectors that the walks of pages read (R337). -/
def State.touchWalks (ctx : MapCtx) (ps : List (Nat × Nat)) (s : State) : State :=
  if ctx.ptRoot = 0 then s
  else forEach ((ps.flatMap fun (x, _) => s.walkReads ctx.podMap x [0, 1, 2, 3] (streamModule ctx.ptRoot) (bitsOf ctx.ptRoot 0 39)).eraseDups)
    (fun (m, o) s => s.streamTouch (2 ^ 63 + m * 2 ^ 57 + o) 8) s

/-- Walk the pages that have still to be walked: how it went, and what was found. -/
def State.walkPages (s : State) (ctx : MapCtx) : List (Nat × Nat) → List (Nat × Nat) → List (Nat × Nat) × Option (Nat × Walk)
  | [], out => (out, none)
  | (x, perm) :: ps, out =>
    match s.walkPage ctx x perm with
    | .page m a => s.walkPages ctx ps (out ++ [(m, a)])
    | w => (out, some (x, w))

/-- Pages of one declaration as extents (R388): consecutive pages of one module at consecutive addresses form one. -/
def extentsOf (d : Decl) : Nat → List (Nat × Nat) → List Extent
  | _, [] => []
  | x, (m, a) :: ps =>
    match extentsOf d (x + 65536) ps with
    | [] => [⟨x, 65536, a, m, bitOf d.perm 0, bitOf d.perm 1, bitOf d.perm 2⟩]
    | e :: es => if e.md = m && e.maddr = a + 65536 then { e with taddr := x, size := e.size + 65536, maddr := a } :: es
      else ⟨x, 65536, a, m, bitOf d.perm 0, bitOf d.perm 1, bitOf d.perm 2⟩ :: e :: es

/-- The extents of each declaration, from the pages in order. -/
def declExtents : List Decl → List (Nat × Nat) → List (Decl × List Extent)
  | [], _ => []
  | d :: ds, ps => (d, extentsOf d d.taddr (ps.take (d.size / 65536))) :: declExtents ds (ps.drop (d.size / 65536))

/-- The extent table of a core (R145, R388). -/
def coreExtents (ds : List (Decl × List Extent)) (r c : Nat) : List Extent :=
  (ds.filter fun (d, _) => bitOf d.rows r && bitOf d.cores c).flatMap (·.2)

/-- Two extents overlap in tensor address. -/
def extentsMeet (a b : Extent) : Bool := decide (a.taddr < b.taddr + b.size) && decide (b.taddr < a.taddr + a.size)

/-- An extent table keeps R145. -/
def tableOk (es : List Extent) : Bool :=
  decide (es.length ≤ 96) && (List.range es.length).all fun i => match es[i]? with
    | some a => (es.drop (i + 1)).all fun b => !extentsMeet a b
    | none => true

/-! ## Gangs (R389) -/

/-- The bits of a byte go through CRC-64/ECMA-182, most significant first. -/
def crcByte (crc : Nat) (b : Byte) : Nat :=
  (List.range 8).foldl (fun c i =>
    let top := bitOf c 63 != b.getLsbD (7 - i)
    let c := c * 2 % 2 ^ 64
    if top then c ^^^ 0x42F0E1EBA9EA3693 else c) crc

/-- CRC-64/ECMA-182 of a list of bytes. -/
def crc64 (bs : List Byte) : Nat := bs.foldl crcByte 0

/-- Two ready messages agree in all but RANK and the DCC of sending (R389). -/
def msgsAgree (a b : ReadyMsg) : Bool :=
  a.gangTag == b.gangTag && a.members == b.members && a.dcc == b.dcc && a.holdLim == b.holdLim && a.llead == b.llead && a.crc == b.crc

/-- READY_MESSAGE (R389): it reaches the hold master of rank 0. -/
def execReadyMessage (m : ReadyMsg) (s : State) : Out := .next (s.modPkg fun p => { p with readyIn := p.readyIn ++ [(m, s.dcc)] })

/-- What keeps a gang from its launch: a rank, and whether its message came too late (R389). -/
def State.gangBad (s : State) (tag members cwd : Nat) : Option (Nat × Bool) :=
  let ms := s.pkg.readyIn.filter fun m => m.1.gangTag == tag
  let at' := fun (r : Nat) => ms.find? fun m => m.1.rank == r
  (List.range members).findSome? fun r =>
    match at' r, at' 0 with
    | some (m, d), some (z, _) => if cwd < d - m.sent then some (r, true) else if msgsAgree m z then none else some (r, false)
    | _, _ => some (r, false)

/-- The hold master announces go or abort (R389). -/
def State.goJudge (s : State) (tag members cwd : Nat) : State :=
  let bad := s.gangBad tag members cwd
  let s := s.modPkg fun p => { p with readyIn := p.readyIn.filter fun m => m.1.gangTag != tag }
  let s := s.send (.note 0x20 [tag, if bad.isNone then 1 else 0, (bad.map (·.1)).getD 0, if (bad.map (·.2)).getD false then 1 else 0])
  s.addDomain s.dcc 1 (.ev (.gangGoAbort tag bad.isNone ((bad.map (·.1)).getD 0) ((bad.map (·.2)).getD false)))

/-- GANGTAG of a job (R378, R381). -/
def EngJob.tag : EngJob → Option Nat
  | .launch p => some p.gangTag
  | .resume p => some p.gangTag
  | _ => none

/-- The jobs that have been asked for and have launched nothing yet, with their streams. -/
def State.jobs (s : State) : List (Nat × EngJob) := s.pkg.engine.toList.map (fun e => (e.strm, e.job)) ++ s.pkg.reqs ++ s.pkg.waitRows

/-- GANG_GO_ABORT (R46, R389): a member that is ready launches at its launch DCC; on abort none does. -/
def execGangGoAbort (gangTag : Nat) (go : Bool) (bad : Nat) (slow : Bool) (s : State) : Out :=
  .next (if go then
      match s.pkg.engine with
      | some e => match e.launch with
        | some d => if e.job.tag == some gangTag then
            s.addDomain d 0 (.ev (match e.job with
              | .resume _ => .restoreLaunch
              | _ => .taskLaunch)) else s
        | none => s
      | none => s
    else match s.jobs.find? fun j => j.2.tag == some gangTag with
      | some (n, j) => s.refuse n j { code := 0x1D, rank := some bad, aux := if slow then 1 else 0 }
      | none => s)

/-- A launch or restore has become ready (R389): `at'` is the DCC its packet names, none for ABS = 0. A RESUME
with ABS = 0 of an image of a gang restores this member alone: log entry 139. -/
def State.becomeReady (e : Prep) (at' : Option Nat) (members : Nat) (m : ReadyMsg) (w : Instr) (s : State) : State :=
  let go := fun (d : Nat) (s : State) => (s.modPkg fun p => { p with engine := some { e with launch := some d } })
  match at' with
  | none =>
    let d := 64 * ceilDiv (s.dcc + 128) 64
    (go d s).addDomain d 0 (.ev w)
  | some d =>
    if members ≤ 1 then
      if d < s.dcc + 64 then (s.modPkg fun p => { p with engine := some e }).refuse e.strm e.job { code := 0x25 } else (go d s).addDomain d 0 (.ev w)
    else
      let s := go d s
      if m.rank = 0 then s.addDomain s.dcc 1 (.ev (.readyMessage m)) else s.send (.ready m)

/-- The cycles at which an absolute launch is judged (R389). -/
def State.judgeLaunch (n dcc rank members tag cwd : Nat) (s : State) : State :=
  let id := ((s.stream n).busy.map (·.id)).getD 0
  if members ≤ 1 then s.addDomain (dcc - 64 + 1) 60 (.cont (.launchLimit n id))
  else
    let s := s.addDomain (max s.dcc dcc) 60 (.cont (.launchLimit n id))
    if rank = 0 then s.addDomain (max s.dcc (dcc - (cwd + 64))) 2 (.cont (.goJudge tag members cwd)) else s

/-! ## Launch (R386) -/

/-- A row at launch (R159, R193 to R195). -/
def launchRow (w : Row) (slot : Slot) (i : Nat) (ws : List Word) : Row :=
  { present := w.present, prow := w.prow, gapBelow := w.gapBelow, task := some slot, rowid := i
    sram := Sparse.setList 0 [] 0 ws, slen := ws.length }

/-- A core at launch (R140, R196, R219, R258, R271, R297, R344). -/
def launchCore (k : Core) (share : Nat) (es : List Extent) (ls : Memory) : Core :=
  { pcol := k.pcol, share := share, extents := es, ls := ls }

/-- Load a task into its slot, rows and cores (R386 step 8): the tasks' counts begin with its launch. -/
def State.loadTask (s : State) (slot : Slot) (first base : Nat) (m : Image) (ext : Nat → Nat → List Extent) (t : Task) : State :=
  let shares := s.imageShares base m
  let s := s.modTask slot fun _ => t
  forEach (List.range m.rows) (fun i s =>
    let r := Fin.ofNat 8 (first + i)
    let ws := s.imageStream base m i
    let s := s.modRow r fun w => launchRow w slot i ws
    forEach all8 (fun c s =>
      let ls := s.imageLs base m i c.1
      s.modCore r c fun k => launchCore k (shares.getD (8 * i + c.1) 0) (ext i c.1) ls) s) s

/-- No row set is free and WAITROWS is 1: the engine is released until a task of the package ends (R385). -/
def State.waitForRows (e : Prep) (s : State) : State :=
  (s.modPkg fun p => { p with waitRows := p.waitRows ++ [(e.strm, e.job)] }).freeEngine

/-- Prepare a LAUNCH (R386). -/
def State.prepareLaunch (e : Prep) (p : LaunchPkt) (s : State) : State :=
  let ctx := (s.stream e.strm).ctx
  let s := s.modPkg fun q => { q with engine := some e }
  let no := fun (code : Nat) (s : State) => s.refuse e.strm e.job { code := code }
  if s.addrAway ctx.podMap p.image then no 0x18 s
  else
    let image := s.readImage p.image
    let s := if e.place.isSome then s else s.touchImage p.image
    match image with
    | none => no 0x11 s
    | some m =>
      if m.gang ≠ p.members then no 0x11 s
      else if !sharesOk (s.imageShares p.image m) then no 0x12 s
      else if s.rowCount < m.rows then no 0x19 s
      else match e.place.or ((s.rowSet p.firstRow m.rows).map fun f => (s.freeSlot, f)) with
        | none => if bitOf p.flags 1 then s.waitForRows e else no 0x19 s
        | some (slot, first) =>
          let llead := ctx.cwd + 64
          let routes := s.readRoutes ctx.rtAddr
          let s := if e.place.isSome then s else s.touchRoutes ctx
          if ctx.rtAddr ≠ 0 && s.addrAway ctx.podMap ctx.rtAddr then no 0x18 s
          else if !routes.all (fun x => routeOk p.members llead x.2) then no 0x1B s
          else if 4096 < llead then no 0x1C s
          else match readPlans 64 (s.imageSec p.image m 7) with
            | none => no 0x1A s
            | some ps =>
              if !indicesOk ps || !ps.all (planOk p.rank p.members m.rows routes) || !s.plansFit none ps then no 0x1A s
              else
                let ds := (s.imageDecls p.image m).filter fun d => d.used m.rows
                let walks := s.walkPages ctx ((declPages ds).drop e.walked.length) e.walked
                let s := s.touchWalks ctx (((declPages ds).drop e.walked.length).take (walks.1.length + 1 - e.walked.length))
                match walks with
                | (out, some (x, .held)) =>
                  let since := if out.length = e.walked.length then e.heldAt.getD s.dcc else s.dcc
                  if since + s.pkg.walkTmo * microsecond ≤ s.dcc then s.refuse e.strm e.job { code := 0x16, addr := x }
                  else (s.modPkg fun q => { q with engine := some { e with place := some (slot, first), walked := out, heldAt := some since } }).addDomain
                    (s.dcc + min (100 * microsecond) (since + s.pkg.walkTmo * microsecond - s.dcc)) 55 (.ev .pageWalkRetry)
                | (out, some (_, .cut)) =>
                  (s.modPkg fun q => { q with engine := some { e with
                    place := some (slot, first), walked := out, heldAt := if out.length = e.walked.length then e.heldAt else none } }).addDomain (s.dcc + portWait) 55 (.ev .pageWalkRetry)
                | (_, some (x, .fails code)) => s.refuse e.strm e.job { code := code, addr := x }
                | (out, _) =>
                  let xs := declExtents ds out
                  let ext := fun (r c : Nat) => coreExtents xs r c
                  if !((List.range m.rows).all fun r => (List.range 8).all fun c => tableOk (ext r c)) then no 0x15 s
                  else
                    let t : Task :=
                      { taskid := p.taskid, rank := p.rank, members := p.members, gangTag := p.gangTag, strm := e.strm, report := p.report
                        image := p.image, ctx := ctx, pod0 := if p.rank = 0 then s.pkg.podSlot else Config.rank0Slot p.gangTag % 64
                        firstRow := first, nrows := m.rows, llead := llead, holdLim := if p.holdLim = 0 then 64 else p.holdLim, routes := routes
                        shapes := s.imageShapes p.image m, lrecs := s.imageLrecs p.image m, plans := ps }
                    let msg : ReadyMsg :=
                      { gangTag := p.gangTag, rank := p.rank, members := p.members, dcc := p.dcc, holdLim := t.holdLim, llead := llead
                        crc := crc64 (s.streamBytes p.image m.size), sent := s.dcc }
                    (s.loadTask slot first p.image m ext t).becomeReady { e with place := some (slot, first) }
                      (if bitOf p.flags 0 then some p.dcc else none) p.members msg .taskLaunch

/-- LAUNCH (R378, R386): the packet asks for the dispatch engine. -/
def execLaunch (strm : Nat) (p : LaunchPkt) (s : State) : Out :=
  let s := if bitOf p.flags 0 then s.judgeLaunch strm p.dcc p.rank p.members p.gangTag (s.stream strm).ctx.cwd else s
  .next (s.request strm (.launch p))

/-- A job reads or writes a module toward which no port carries traffic (R407). -/
def State.jobCut (s : State) (n : Nat) (j : EngJob) : Bool :=
  let ctx := (s.stream n).ctx
  (match j with
    | .launch p => [p.image, ctx.rtAddr, ctx.ptRoot]
    | .resume p => [p.save, s.streamNat (p.save + 0x10) 8, ctx.rtAddr]
    | .planld _ plan _ => [plan]
    | .hcopy src dst _ _ => [src, dst]).any (s.cut ctx.podMap)

/-- PAGE_WALK_RETRY (R388, R407). -/
def execPageWalkRetry (s : State) : Out :=
  .next (match s.pkg.engine with
    | some e => match e.job with
      | .launch p =>
        if e.place.isNone || e.launch.isSome then s
        else if s.jobCut e.strm e.job then s.addDomain (s.dcc + portWait) 55 (.ev .pageWalkRetry)
        else s.prepareLaunch e p
      | _ => s
    | none => s)

/-- TASK_LAUNCH (R45): GCC and every FB take the launch DCC, and the rows begin to read their streams. -/
def execTaskLaunch (s : State) : Out :=
  .next (match s.pkg.engine with
    | none => s
    | some e => match e.place with
      | none => s
      | some (slot, _) =>
        let g := s.dcc
        let s := s.modTask slot fun t => { t with live := true, gcc := g, launch := g }
        let s := forEach (s.rowsOf slot) (fun r s =>
          let n := s.next
          let s := s.modRow r fun w => { w with fb := g, running := true }
          let s := forEach all8 (fun c s => s.modCore r c fun k => { k with lfree := g, sfree := g }) s
          (((s.beginFetch slot r 0).checkFirst r n).restartSlack slot r)) s
        s.freeEngine)

/-! ## The end of a task (R49, R156) -/

/-- Requests that wait for rows ask again (R385). -/
def State.retryRows (s : State) : State :=
  let ws := s.pkg.waitRows
  (s.modPkg fun p => { p with waitRows := [], reqs := p.reqs ++ ws }).kickEngine 0

/-- A slot is free again: nothing of it stays on the agenda. -/
def State.freeTask (slot : Slot) (s : State) : State :=
  let s := s.releaseRows slot
  ({ s with agenda := s.agenda.filter fun e => !(e.gang && e.slot == slot) } : State).modTask slot fun _ => {}

/-- Work that goes on once the rows of a saved or ended task are released: its far-memory writes at the modules and its holds. -/
def Work.outlives : Work → Bool
  | .ev (.storeWriteCompletion _) => true
  | .ev (.maaddEffect _) => true
  | .ev (.mcmdBlockEffect _ _ _) => true
  | .ev (.moduleScheduleEntry _ _) => true
  | .ev (.moduleScheduleDrain _) => true
  | .ev (.gangHold _) => true
  | .ev (.holdQuantum _) => true
  | .ev .holdEnd => true
  | .cont .endFence => true
  | _ => false

/-- The source reads of a slot's far-memory writes that are still to be made are all made now: its cores are about to be released, and
their local stores change no more (R152, R392). -/
def State.finishReads (slot : Slot) (s : State) : State :=
  let es := s.agenda.filter fun e => e.gang && e.slot == slot && match e.work with
    | .cont (.sourceRead _ _) => true
    | _ => false
  let old := s.cur
  let s := forEach es (fun e s => match e.work with
    | .cont (.sourceRead id k) =>
      let s : State := { s with cur := e }
      let n := match s.xfer? id with
        | some x => ceilDiv x.n x.s - k
        | none => 0
      forEach (List.range n) (fun i s => s.sourceRead id (k + i)) s
    | _ => s) s
  { s with cur := old, agenda := s.agenda.filter fun e => !(e.gang && e.slot == slot && match e.work with
    | .cont (.sourceRead _ _) => true
    | _ => false) }

/-- A task gives its rows back while its far-memory writes go on (R152, R395): what they need of its cores is kept with them. -/
def State.leaveRows (slot : Slot) (save : Nat) (rep : EndReport) (s : State) : State :=
  let s := s.finishReads slot
  let s := { s with agenda := s.agenda.filter fun e => !(e.gang && e.slot == slot && !e.work.outlives) }
  (s.modTask slot fun t => { t with
    ghost := some save, ending := some rep, preempt := none, schedFreeze := none, plans := [], runs := [], doneRuns := [], aways := [], cbuf := [], cbufCls := []
    xfers := (t.xfers.filter Xfer.writes).map fun x => { x with ext := (s.coreAt x.row x.core).extents } }).releaseRows slot

/-- A put of the slot has still to be read or delivered here (R268). -/
def State.putsDue (s : State) (slot : Slot) : Bool :=
  s.agenda.any fun e => e.gang && e.slot == slot && match e.work with
    | .ev (.putPieceDelivery _) => true
    | .cont (.putRead _ _ _ _ _ _ _) => true
    | _ => false

/-- The end fence is complete (R156, R268): every far-memory write that can still take effect has done so, every put is delivered, and no
run is active. -/
def State.fenceDone (s : State) (slot : Slot) : Bool :=
  let t := (s.taskAt slot)
  t.runs.isEmpty && !s.putsDue slot && (t.effects.all fun x => decide (x.2.2 < t.gcc)) && (t.stalls.all fun st => st.queue.isEmpty && st.waiters.isEmpty)
    && t.xfers.all fun x => !x.writes || x.waits.isEmpty

/-- What a module that serves no more still holds of a task is given up (R342). -/
def State.dropOffline (slot : Slot) (s : State) : State :=
  if s.pkg.offline.isEmpty then s
  else s.modTask slot fun t => { t with
    stalls := t.stalls.map fun st => if s.pkg.offline.contains st.md then { st with queue := [], waiters := [] } else st
    xfers := t.xfers.map fun x => { x with waits := x.waits.filter fun m => !s.pkg.offline.contains m } }

/-- The save area that stands for none: the slot of a task whose end has come before its end fence waits for its writes alone (log entry
127). -/
def noSave : Nat := 2 ^ 64

/-- The end fence of a task (R156) is due: it completes, or is looked at again (log entry 127); the slot of a saved task is free with it. -/
def State.endFence (s : State) : State :=
  let slot := s.cur.slot
  let s := s.dropOffline slot
  let e : Entry := { gang := false, due := s.dcc, rank := 56, slot := slot, work := .ev .taskEnd }
  if s.fenceDone slot then (if s.task.ghost.isSome then s.freeTask slot else s.add e)
  else s.add { s.cur with due := s.gcc + 64 }

/-- TASK_END (R49, R156, R375, R391): a pending pre-emption is reported as not made, the LAUNCH or RESUME completes with its
report, and the rows are free; writes that a stalled schedule still holds go on. -/
def execTaskEnd (s : State) : Out :=
  let slot := s.cur.slot
  let t := s.task
  .next (match t.ending with
    | none => s
    | some rep =>
      if !t.live || t.ghost.isSome then s
      else
        let s := match t.preempt with
          | some x => s.report32 x.strm x.pkt.report { code := 0x04 } t.taskid t.endDcc t.rank
          | none => s
        let s := if s.fenceDone slot then s.freeTask slot else s.leaveRows slot noSave rep
        (s.report32 t.strm t.report rep t.taskid t.endDcc t.rank).retryRows)

end Sys2Proof.Machine
end

