-- ==== Sys2Proof/Machine/Matrix.lean ====
section
/-! DEFINITION. Column M (09_matrix.md): tile descriptors, tile loads and stores, products, streams along a row, and the
moves between tiles and vectors; the write-back of register results (R4), since a matrix product reads its accumulator
there. -/

namespace Sys2Proof.Machine

open Sys2Proof

/-! ## Descriptors (R272 to R275) -/

def tdSat (d : Word) : Bool := d.getLsbD 63
def tdRnd (d : Word) : Rnd := .ofCode (BitVec.ofNat 2 (bitsOf d.toNat 61 2))
def tdTy (d : Word) : Option Ty := Ty.ofCode (BitVec.ofNat 5 (bitsOf d.toNat 56 5))
def tdMx (d : Word) : Bool := d.getLsbD 55
def tdScl (d : Word) : Nat := bitsOf d.toNat 51 4
def tdSofs (d : Word) : Nat := bitsOf d.toNat 47 4
def tdRows (d : Word) : Nat := bitsOf d.toNat 41 6 + 1
def tdCols (d : Word) : Nat := bitsOf d.toNat 32 9 + 1

/-- size of R273 in half bytes. -/
def tileNibs : Ty → Nat
  | .f32 => 8 | .i32 => 8 | .ui32 => 8 | .bf16 => 4 | .f16 => 4 | .i16 => 4 | .ui16 => 4 | .e2m1 => 1 | _ => 2

/-- The types a descriptor may name (R272). -/
def tdTyOk (t : Option Ty) : Bool :=
  t.any fun t => [.none, .f32, .bf16, .f16, .e4m3, .e5m2, .e2m1, .e8m0, .i8, .ui8, .i32].contains t

/-- The type of a descriptor, none (raw) where it names none. -/
def tdType (d : Word) : Ty := (tdTy d).getD .none

/-- Bytes of `n` elements of a type (R272, R273). -/
def tileBytes (t : Ty) (n : Nat) : Nat := (n * tileNibs t + 1) / 2

/-- rowbytes(TD) (R272). -/
def tdRowBytes (d : Word) : Nat := tileBytes (tdType d) (tdCols d)

/-- A descriptor value is valid (R274). -/
def tdValid (d : Word) : Bool :=
  d.toNat % 2 ^ 32 == 0 && tdTyOk (tdTy d) && decide (tdRowBytes d ≤ 256) && (tdType d != .e2m1 || tdCols d % 2 == 0)
    && (!tdMx d || [.e4m3, .e5m2, .e2m1].contains (tdType d)) && (tdMx d || (tdScl d == 0 && tdSofs d == 0))

/-- The bytes of rows of a tile from row `r`, `n` rows of `w` bytes. -/
def Core.tileRows (c : Core) (t r n w : Nat) : List (List Byte) :=
  (List.range n).map fun i => (List.range w).map fun b => c.rt t (256 * (r + i) + b)

/-- The element codes of a row of bytes (R273). -/
def rowCodes (t : Ty) (n : Nat) (row : List Byte) : List Nat :=
  let x := leNat row
  (List.range n).map fun k => bitsOf x (4 * tileNibs t * k) (4 * tileNibs t)

/-- Element codes laid out as bytes of a row (R273). -/
def packCodes (t : Ty) (cs : List Nat) : List Byte :=
  let w := 4 * tileNibs t
  leBytes (tileBytes t cs.length) (((List.range cs.length).zip cs).foldl (fun x (k, c) => x + c % 2 ^ w * 2 ^ (w * k)) 0)

/-- Tile words of the given bytes that are uncorrectable (R295). -/
def Core.tileBad (c : Core) (t lo hi : Nat) : Bool :=
  (List.range ((hi + 7) / 8 - lo / 8)).any fun j => Sparse.get .clean c.tileCls (2048 * t + lo / 8 + j) == .uncorrectable

/-- The 8-byte words of tiles that spans (tile, first byte, end) touch, each once. -/
def tileWords (xs : List (Nat × Nat × Nat)) : List Nat :=
  (xs.flatMap fun (t, lo, hi) => (List.range ((hi + 7) / 8 - lo / 8)).map (2048 * t + lo / 8 + ·)).eraseDups

/-- A word of column M that reads spans of tiles (R295): an uncorrectable word is consumed at issue, corrected ones are
counted. -/
def tilePoison (xs : List (Nat × Nat × Nat)) (f : State → State) (s : State) : State :=
  let c := s.core
  let n := if c.tileCls.isEmpty then 0 else ((tileWords xs).filter fun w => Sparse.get .clean c.tileCls w == .corrected).length
  let s := if n = 0 then s else s.countCorr s.hcorrKey 0 n
  if xs.any fun (t, lo, hi) => c.tileBad t lo hi then s.countPoison.consumePoison [] else f s

/-- The operand-descriptor fault (R279). -/
def State.descFault (s : State) : State := s.trapWord 1 0xB

/-- MTD (R279, R280). -/
def execMtd (h : Hdr) (f : RRR) (s : State) : Out :=
  .next (coreWord h (fun s => if tdValid (s.opB f) then s.writeBack 1 [.td f.d.toNat (s.opB f)] else s.descFault) s)

/-- MTZ (R280). -/
def execMtz (h : Hdr) (f : RRR) (s : State) : Out :=
  .next (coreWord h (fun s => s.writeBack 1 [.tile f.d.toNat ((List.range 16384).map fun i => (i, 0))]) s)

/-! ## Loads and stores (R277, R281 to R284) -/

/-- The row stride of MTLD and MTST (R277). -/
def tileStride (f : MEM) (packed : Nat) : Nat := if f.aux = 0 then packed else 2 ^ (f.aux.toNat + 8)

/-- The byte addresses of a tile's rows in the local store, rows `lo` up to `hi`, each with its row and its byte. -/
def tileAddrs (ea stride sw w lo hi : Nat) : List (Nat × Nat × Nat) :=
  (List.range (hi - lo)).flatMap fun i => (List.range w).map fun b => (swizzle sw (ea + (lo + i) * stride + b), lo + i, b)

/-- The groups of 8 rows of a tile access (R281). -/
def tileGroups (ea stride sw w nr : Nat) : List (List (Nat × Nat × Nat)) :=
  (List.range (ceilDiv nr 8)).map fun j => tileAddrs ea stride sw w (8 * j) (min (8 * j + 8) nr)

/-- The bank words of each group, with the cycle at which the group accesses the local store. -/
def groupBanks (first : Nat) (gs : List (List (Nat × Nat × Nat))) : List (Nat × List Nat) :=
  ((List.range gs.length).zip gs).map fun (j, g) => (first + j, bankWords (g.map Prod.fst))

/-- The checks of R281 in order: range of every byte, alignment, banks. -/
def State.tileCheck (s : State) (ea stride w nr : Nat) (banks : List (Nat × List Nat)) : Option Nat :=
  if !((List.range nr).all fun r => lsIn (ea + r * stride) w) then some 0
  else if ea % 64 ≠ 0 then some 1
  else if banks.any fun (y, ws) => bankClash ws || s.core.portFails y ws then some 2
  else none

/-- Fix the core-port accesses of a tile's groups. -/
def State.useBanks (s : State) (banks : List (Nat × List Nat)) : State :=
  forEach banks (fun (y, ws) s => s.here fun c => c.portAdd s.gcc y ws) s

/-- Put the groups of a tile access on the agenda; the group of this cycle stands whatever follows in it. -/
def State.addGroups (s : State) (first rank : Nat) (gs : List TileGroup) : State :=
  forEach ((List.range gs.length).zip gs) (fun (j, g) s =>
    if first + j = 0 then
      s.add { s.cur with gang := true, due := s.gcc, rank := rank, ord := g.wid, part := .core, urgent := true, work := .ev (.tileGroupAccess g) }
    else s.addCore (first + j) rank g.wid (.ev (.tileGroupAccess g))) s

/-- The groups of an MTLD or MTST with a descriptor (R278, R281, R282): bytes a row takes in memory, and the groups. -/
def Core.tileShape (c : Core) (f : MEM) (ob : Nat) : List (List (Nat × Nat × Nat)) :=
  tileGroups (c.memBase f) (tileStride f ob) f.swz.toNat ob (tdRows (c.rtd f.d.toNat))

/-- A tile word claims its core-port cycles whether or not it is enabled (R278). -/
def tileWord (h : Hdr) (banks : List (Nat × List Nat)) (f : State → State) (s : State) : State :=
  if s.core.enabled h then coreWord h f s else s.useBanks banks

/-- MTLD (R278, R279, R281): the groups are read before the words of their cycle issue (R138, R284). -/
def execMtld (h : Hdr) (f : MEM) (s : State) : Out :=
  let t := f.d.toNat
  let d := s.core.rtd t
  let nr := tdRows d
  let rb := tdRowBytes d
  let gs := s.core.tileShape f rb
  let banks := if tdType d = .none then [] else groupBanks s.gcc gs
  .next (tileWord h banks (fun s =>
    if tdType d = .none then s.descFault
    else match s.tileCheck (s.core.memBase f) (tileStride f rb) rb nr banks with
      | some e => s.trapWord 0x0F e
      | none =>
        let n := gs.length
        let groups := ((List.range n).zip gs).map fun (j, g) =>
          ({ wid := s.next, store := false, tile := t, done := 8 + n - j, nth := s.core.nIssued - 1,
             loads := g.map (fun (a, r, b) => (a, 256 * r + b)),
             clear := (List.range 8).flatMap (fun i =>
                 let r := 8 * j + i
                 if r < nr then (List.range (256 - rb)).map (fun b => 256 * r + rb + b) else (List.range 256).map (256 * r + ·))
               ++ if j = 0 then (List.range (16384 - 2048 * n)).map (2048 * n + ·) else [] } : TileGroup)
        ((s.useBanks banks).addGroups 0 3 groups).fresh) s)

/-- The memory type of MTST is accepted for a tile type (R282). -/
def mtstPair (t m : Ty) : Bool :=
  match t with
  | .none => false
  | .f32 => [.none, .f32, .bf16, .f16, .e4m3, .e5m2, .e2m1].contains m
  | .i32 => [.none, .i32, .ui32, .i16, .ui16, .i8, .ui8].contains m
  | _ => m == .none

/-- A tile byte as MTST reads it: in the cycle in which a matrix result is written, the value before it (R296). -/
def Core.rtOld (c : Core) (now t i : Nat) : Byte :=
  if c.tileOldAt = now then
    match c.tileOld.find? fun (k, _) => k == 16384 * t + i with
    | some (_, b) => b
    | none => c.rt t i
  else c.rt t i

/-- Element codes of a row after the bound register of the tile has acted, and the hits (R283). -/
def boundCodes (b : Option Word) (cs : List Nat) : List Nat × Nat :=
  match b with
  | none => (cs, 0)
  | some b =>
    let (ls, n) := boundLanes b (((List.range cs.length).zip cs).map fun (k, c) => (k, BitVec.ofNat 32 c))
    (ls.map fun (_, x) => x.toNat, n)

/-- A row as MTST stores it: bytes, events and bound hits (R282, R283). -/
def storeRow (d : Word) (m : Ty) (b : Option Word) (row : List Byte) : List Byte × EvCount × Nat :=
  let t := tdType d
  if t = .f32 ∨ t = .i32 then
    let (cs, hits) := boundCodes b (rowCodes t (tdCols d) row)
    if m = .none then (packCodes t cs, {}, hits)
    else
      let rs := cs.map (convert t m (tdRnd d) (tdSat d))
      (packCodes m (rs.map (·.code)), countEv rs, hits)
  else (row, {}, 0)

/-- MTST (R278, R279, R282, R283, R295, R179). -/
def execMtst (h : Hdr) (f : MEM) (s : State) : Out :=
  let t := f.d.toNat
  let d := s.core.rtd t
  let m := Ty.of f.ty
  let nr := tdRows d
  let ob := if m = .none then tdRowBytes d else tileBytes m (tdCols d)
  let ea := s.core.memBase f
  let gs := s.core.tileShape f ob
  let bad := !mtstPair (tdType d) m || (m == .e2m1 && tdCols d % 2 == 1)
  let banks := if bad then [] else groupBanks (s.gcc + 4) gs
  .next (tileWord h banks (fun s =>
    if bad then s.descFault
    else tilePoison ((List.range nr).map fun r => (t, 256 * r, 256 * r + tdRowBytes d)) (fun s =>
      match s.tileCheck ea (tileStride f ob) ob nr banks with
      | some e => s.trapWord 0x0F e
      | none =>
        let b := s.core.tileBound t
        let rows := (List.range nr).map fun r =>
          storeRow d m b ((List.range (tdRowBytes d)).map fun i => s.core.rtOld s.gcc t (256 * r + i))
        let ev := rows.foldl (fun e (_, x, hits) => evPlus e { x with bnd := x.bnd + hits }) ({} : EvCount)
        let trap := b.any fun b => boundAct b == 1
        let groups := gs.map fun g =>
          ({ wid := s.next, store := true, tile := t, nth := s.core.nIssued - 1,
             stores := g.map (fun (a, r, i) => (a, ((rows.getD r ([], {}, 0)).1).getD i 0)) } : TileGroup)
        let s := (s.useBanks banks).addGroups 4 30 groups
        (s.addCore 4 3 s.next (.ev (.registerWriteBack
          { wid := s.next, writes := [], ev := ev, nth := s.core.nIssued - 1, hitTrap := trap }))).fresh) s) s)

/-- Drop the pending parts of a word that has consumed poison after issue (R284). -/
def State.cancelWord (s : State) (wid : Nat) : State :=
  { s with agenda := s.agenda.filter fun e =>
      !(e.gang && e.slot == s.cur.slot && e.row == s.cur.row && e.core == s.cur.core &&
        match e.work with
        | .ev (.tileGroupAccess g) => g.wid == wid
        | .ev (.registerWriteBack w) => w.wid == wid
        | _ => false) }

/-- A word consumes poison after issue (R284, R321). -/
def State.poisonAfter (s : State) (wid nth : Nat) (as : List Nat) : State :=
  ((((s.cancelWord wid).countCorrected as).countPoison.here fun c => c.poisonUncorrectable as).trapBack 8 nth).markPoison

/-- TILE_GROUP_ACCESS (R281, R282, R284): a store group is written; a load group is read and its tile bytes are written
with the rest of the tile. -/
def execTileGroupAccess (g : TileGroup) (s : State) : Out :=
  .next (if g.store then s.here fun c => c.store g.stores []
    else
      let as := g.loads.map Prod.fst
      if s.core.anyBad as then s.poisonAfter g.wid g.nth as
      else
        let s := s.countCorrected as
        let bs := g.loads.map (fun (a, o) => (o, Memory.byte s.core.ls a)) ++ g.clear.map (fun o => (o, (0 : Byte)))
        s.addCore g.done 3 g.wid (.ev (.registerWriteBack { wid := g.wid, writes := [.tile g.tile bs], nth := g.nth })))

/-! ## Products (R285, R286) -/

/-- The operand families of R285: 16-bit, FP8, MXFP4, integer. -/
def mmaFamily (t : Ty) : Nat :=
  match t with
  | .bf16 => 1 | .f16 => 1 | .e4m3 => 2 | .e5m2 => 2 | .e2m1 => 3 | .i8 => 4 | .ui8 => 4 | _ => 0

/-- The checks of R285 that the descriptors of A and D and n decide by themselves. -/
def mmaOwnOk (a d : Word) (n : Nat) : Bool :=
  let k := mmaFamily (tdType a)
  k != 0 && (k != 3 || tdMx a) && tdType d == (if k = 4 then Ty.i32 else Ty.f32) && tdRows d == tdRows a && n == ceilDiv (tdRowBytes a) 32

/-- The checks of R285 on the descriptors of A, B and D and on n. -/
def mmaOk (a b d : Word) (n : Nat) : Bool :=
  let k := mmaFamily (tdType a)
  mmaOwnOk a d n && k == mmaFamily (tdType b) && (k != 3 || tdMx b) && tdCols a == tdCols b && tdCols d == tdRows b

/-- The value of an operand element (R118, R120). -/
def mmaValue (t : Ty) (code : Nat) : FVal :=
  match t.int with
  | some (w, sg) =>
    let x : Int := if sg then signedOf code w else ((code % 2 ^ w : Nat) : Int)
    .fin (decide (x < 0)) x.natAbs 0
  | none => match t.fmt with
    | some m => m.value code
    | none => .fin false 0 0

/-- The groups of 32 of a list (R117). -/
def groups32 {α : Type} (xs : List α) : List (List α) := (List.range (ceilDiv xs.length 32)).map fun g => (xs.drop (32 * g)).take 32

/-- T_g of every group of one output (R117, R118): operand values and group scales of a row of A and a row of B. -/
def groupSums (xs ys : List FVal) (sa sb : List Nat) : List GSum :=
  let gs := groups32 (xs.zip ys)
  ((List.range gs.length).zip gs).map fun (g, ps) =>
    gScale (sa.getD g 127) (sb.getD g 127) (gSum (decide (ps.length < 32)) (ps.map fun (x, y) => gProd x y))

/-- The 16 scale bytes of each row of a tile's operand, from the scale tile (R275); all 127 when it is not MX. -/
def Core.scaleRows (c : Core) (d : Word) (n : Nat) : List (List Nat) :=
  (List.range n).map fun r => (List.range 16).map fun j =>
    if tdMx d then (if r < tdRows d then (c.rt (tdScl d) (256 * r + 16 * tdSofs d + j)).toNat else 0) else 127

/-- Every output of a product: its byte offset in the accumulator tile and its group sums (R286). -/
def productOuts (a b : Word) (arows brows : List (List Byte)) (sa sb : List (List Nat)) : List (Nat × List GSum) :=
  let vals := fun (d : Word) (rows : List (List Byte)) => rows.map fun r => (rowCodes (tdType d) (tdCols d) r).map (mmaValue (tdType d))
  let av := ((List.range (tdRows a)).zip (vals a arows)).zip sa
  let bv := ((List.range (tdRows b)).zip (vals b brows)).zip sb
  av.flatMap fun ((i, xs), x) => bv.map fun ((j, ys), y) => (256 * i + 4 * j, groupSums xs ys x y)

/-- The spans of a tile that a descriptor describes, and of its scales (R275, R295): the bytes of its rows, and all 16 scale bytes of a
row (log entry 165). -/
def operandSpans (t : Nat) (d : Word) : List (Nat × Nat × Nat) :=
  (List.range (tdRows d)).flatMap fun r => (t, 256 * r, 256 * r + tdRowBytes d)
    :: if tdMx d then [(tdScl d, 256 * r + 16 * tdSofs d, 256 * r + 16 * tdSofs d + 16)] else []

/-- The rank at which a product reads its accumulator: after the results of the cycle (R4); before them where its own result falls in
that cycle too, so that a read of a register that two words write in one cycle finds the value before both (R83; log entry 151). -/
def accRank (done : Nat) : Nat := if done = 0 then 2 else 4

/-- MMA and MMAX (R285, R286). -/
def mmaWord (h : Hdr) (f : RRR) (zero : Bool) : State → State :=
  coreWord h fun s =>
    let c := s.core
    let a := c.rtd f.a.toNat
    let b := c.rtd f.b.toNat
    let d := c.rtd f.d.toNat
    let n := f.aux.toNat % 8 + 1
    if !mmaOk a b d n then s.descFault
    else tilePoison (operandSpans f.a.toNat a ++ operandSpans f.b.toNat b ++ if zero then [] else operandSpans f.d.toNat d) (fun s =>
      let outs := productOuts a b (c.tileRows f.a.toNat 0 (tdRows a) (tdRowBytes a)) (c.tileRows f.b.toNat 0 (tdRows b) (tdRowBytes b))
        (c.scaleRows a (tdRows a)) (c.scaleRows b (tdRows b))
      (s.addCore 12 (accRank (n - 1)) s.next (.ev (.registerWriteBack
        { wid := s.next, writes := [], nth := c.nIssued - 1,
          job := some { tile := f.d.toNat, zero := zero, isInt := mmaFamily (tdType a) == 4, done := n - 1, outs := outs } }))).fresh) s

/-- MMA (R286). -/
def execMma (h : Hdr) (f : RRR) (s : State) : Out := .next (mmaWord h f false s)

/-- MMAX (R286). -/
def execMmax (h : Hdr) (f : RRR) (s : State) : Out := .next (mmaWord h f true s)

/-- One output element (R119, R120): the accumulator code and the events. -/
def accumulate (isInt : Bool) (acc : Nat) (gs : List GSum) : FRes :=
  if isInt then
    ⟨wrapTo 32 (gs.foldl (fun x g => match g with
      | .fin _ v => x + v.atExp 0
      | _ => x) (acc : Int)), {}⟩
  else accGroups acc {} gs

/-- The accumulator is read and the result put on the agenda (R286, R131). -/
def State.runJob (s : State) (w : WriteBack) (j : MmaJob) : State :=
  let rs := j.outs.map fun (o, gs) =>
    let acc := if j.zero then 0 else leNat ((List.range 4).map fun b => s.core.rt j.tile (o + b))
    (o, accumulate j.isInt acc gs)
  let bs := rs.flatMap fun (o, r) => ((List.range 4).map (o + ·)).zip (leBytes 4 r.code)
  s.addCore j.done 3 w.wid (.ev (.registerWriteBack
    { wid := w.wid, writes := [.tile j.tile bs], ev := countEv (rs.map Prod.snd), nth := w.nth, acc := true }))

/-- REGISTER_WRITE_BACK (R4, R83, R131, R224, R286): results are written, or a product reads its accumulator. -/
def execRegisterWriteBack (w : WriteBack) (s : State) : Out :=
  .next (match w.job with
    | some j => s.runJob w j
    | none => s.writeRegs w)

/-! ## Streams (R287 to R291) -/

/-- Send a stream cycle east (R287, R288): it reaches the next core two of its local cycles on. -/
def State.sendEast (s : State) (y : StreamCyc) : State :=
  match s.neighbour s.cur.row s.cur.core 0 with
  | some (r, c) => s.addAt r c 2 2 0 (.ev (.streamCycleArrival y))
  | none => s

/-- The header a head forms (R287). -/
def Core.streamHeader (c : Core) (mfwd : Bool) (d : Word) : StreamCyc :=
  { mfwd := mfwd, idx := 0, desc := d, bad := false, bytes := [],
    scales := if mfwd then [] else ((c.scaleRows d 64).flatMap id).map (BitVec.ofNat 8 ·) }

/-- Slice `i` a head forms (R287). -/
def Core.streamSlice (c : Core) (mfwd : Bool) (t : Nat) (d : Word) (i : Nat) : StreamCyc :=
  { mfwd := mfwd, idx := i, desc := d, scales := [], bad := false,
    bytes := if mfwd then (List.range 2048).map (fun b => c.rt t (2048 * (i - 1) + b))
      else (List.range 64).flatMap fun r => (List.range 32).map fun b => c.rt t (256 * r + 32 * (i - 1) + b) }

/-- The header a word of MMAS or MFWD meets at issue (R288, R290): its own when it is the head, else the one that arrives
in this cycle and marks its mnemonic. -/
def State.header (s : State) (head mfwd : Bool) (t : Nat) : Option StreamCyc :=
  let c := s.core
  if head then some (c.streamHeader mfwd (c.rtd t))
  else if c.strAt = s.gcc then c.strHeader.filter fun y => y.mfwd == mfwd else none

/-- Begin a stream at this core: the head's own slices come at their cycles, and the header is forwarded (R288, R289). -/
def State.beginStream (s : State) (u : StreamUse) (y : StreamCyc) (t : Nat) : State :=
  let c := s.core
  let s := s.here fun c => { c with stream := some u }
  let s := if u.fwd then s.sendEast y else s
  if u.head then
    forEach (List.range u.n) (fun i s => s.addCore (i + 1) 2 0 (.ev (.streamCycleArrival { c.streamSlice u.mfwd t y.desc (i + 1) with own := true }))) s
  else s

/-- MMAS (R279, R285, R288, R290, R295): the descriptor checks come first, those on B once a header is there. -/
def execMmas (h : Hdr) (f : RRR) (s : State) : Out :=
  .next (coreWord h (fun s =>
    let c := s.core
    let head := c.rp f.c.toNat
    let fwd := c.rp (f.aux.toNat / 8 % 8)
    let n := f.aux.toNat % 8 + 1
    let zero := f.aux.getLsbD 6
    let a := c.rtd f.a.toNat
    let d := c.rtd f.d.toNat
    if !mmaOwnOk a d n then s.descFault
    else match s.header head false f.b.toNat with
    | none => s.trapWord 5 3
    | some y =>
      if !mmaOk a y.desc d n then s.descFault
      else if fwd && (s.neighbour s.cur.row s.cur.core 0).isNone then s.trapWord 5 2
      else tilePoison (operandSpans f.a.toNat a ++ (if head then ((List.range 64).map fun r => (f.b.toNat, 256 * r, 256 * r + 32 * n)) ++ operandSpans f.b.toNat y.desc else [])
          ++ if zero then [] else operandSpans f.d.toNat d) (fun s =>
        (s.beginStream
          { wid := s.next, mfwd := false, head := head, fwd := fwd, n := n, tile := f.d.toNat, zero := zero,
            start := s.gcc, descA := a, aBytes := (c.tileRows f.a.toNat 0 (tdRows a) (tdRowBytes a)).flatMap id,
            aScale := ((c.scaleRows a (tdRows a)).flatMap id).map (BitVec.ofNat 8 ·), header := some y, nth := c.nIssued - 1 }
          y f.b.toNat).fresh) s) s)

/-- MFWD (R279, R289, R290, R295). -/
def execMfwd (h : Hdr) (f : RRR) (s : State) : Out :=
  .next (coreWord h (fun s =>
    let c := s.core
    let head := c.rp f.c.toNat
    let fwd := c.rp (f.aux.toNat / 8 % 8)
    match s.header head true f.a.toNat with
    | none => s.trapWord 5 3
    | some y =>
      if !tdValid y.desc || tdType y.desc == .none then s.descFault
      else if fwd && (s.neighbour s.cur.row s.cur.core 0).isNone then s.trapWord 5 2
      else tilePoison (if head then [(f.a.toNat, 0, 16384)] else []) (fun s =>
        let s := s.beginStream
          { wid := s.next, mfwd := true, head := head, fwd := fwd, n := 8, tile := f.d.toNat, zero := true,
            start := s.gcc, descA := 0, header := some y, nth := c.nIssued - 1 } y f.a.toNat
        s.writeBack 1 [.td f.d.toNat y.desc]) s) s)

/-- Consecutive pieces of a list, `w` long. -/
def pieces {α : Type} (w n : Nat) (xs : List α) : List (List α) := (List.range n).map fun i => (xs.drop (w * i)).take w

/-- The product of an MMAS, once its last slice is here (R288). -/
def StreamUse.job (u : StreamUse) : MmaJob :=
  let y := u.header.getD ⟨false, 0, 0, [], [], false, false⟩
  let a := u.descA
  let b := y.desc
  let arows := pieces (tdRowBytes a) (tdRows a) u.aBytes
  let brows := (List.range (tdRows b)).map fun r => u.slices.flatMap fun sl => (sl.drop (32 * r)).take 32
  let nat := fun (bs : List Byte) => bs.map (·.toNat)
  { tile := u.tile, zero := u.zero, isInt := mmaFamily (tdType a) == 4, done := u.n - 1,
    outs := productOuts a b arows brows ((pieces 16 (tdRows a) u.aScale).map nat) ((pieces 16 64 y.scales).map nat) }

/-- An MFWD one of whose slices is poisoned leaves its destination as it was before it (R284): what its first slices have replaced
comes back, but for what other words have written since. -/
def Core.undoForward (u : StreamUse) (c : Core) : Core :=
  if !u.mfwd then c
  else { c with
    td := match u.oldTd with
      | some x => Sparse.set 0 c.td u.tile x
      | none => c.td
    tile := Sparse.setMany 0 c.tile (u.oldBytes.map fun (i, b) => (16384 * u.tile + i, b))
    tileCls := Sparse.setMany .clean c.tileCls u.oldCls }

/-- STREAM_CYCLE_ARRIVAL (R284, R287 to R291): a header waits for its word in this cycle; a slice is used by the word that
uses the stream, forwarded by it, or discarded; a head uses only its own (R288, R289). The rows of MFWD slice i are written at t + 1 + i,
after the reads of that cycle, so that the tile is complete from t + 10 (R278, R289; log entry 105). -/
def execStreamCycleArrival (y : StreamCyc) (s : State) : Out :=
  .next (if y.idx = 0 then s.here fun c => { c with strHeader := some y, strAt := s.gcc }
    else match s.core.stream with
      | none => s
      | some u =>
        if u.mfwd != y.mfwd || u.head != y.own || y.idx != u.slices.length + 1 then s
        else
          let s := if u.fwd then s.sendEast { y with own := false } else s
          let u := { u with slices := u.slices ++ [y.bytes] }
          let s := s.here fun c => { c with stream := if y.idx < u.n then some { u with dead := u.dead || y.bad } else none }
          if u.dead then s
          else if y.bad then (s.here (Core.undoForward u)).poisonAfter u.wid u.nth []
          else if u.mfwd then
            s.addCore 1 21 u.wid (.ev (.registerWriteBack
              { wid := u.wid, nth := u.nth, writes := [.tile u.tile (((List.range 2048).map (2048 * (y.idx - 1) + ·)).zip y.bytes)] }))
          else if y.idx = u.n then
            s.addCore (13 - u.n) (accRank (u.n - 1)) u.wid (.ev (.registerWriteBack { wid := u.wid, writes := [], nth := u.nth, job := some u.job }))
          else s)

/-! ## Tiles and vectors (R292 to R294) -/

/-- MTV (R292). -/
def execMtv (h : Hdr) (f : RRR) (s : State) : Out :=
  .next (coreWord h (fun s =>
    let t := f.a.toNat
    let r := 2 * (f.aux.toNat % 32)
    let n := f.aux.toNat / 32 % 8 + 1
    tilePoison [(t, 256 * r, 256 * (r + 2 * n))] (fun s =>
      s.writeBack 4 ((List.range n).map fun m =>
        .v (f.d.toNat + m) ((List.range 128).map fun l =>
          (l, BitVec.ofNat 32 (leNat ((List.range 4).map fun b => s.core.rt t (256 * (r + 2 * m) + 4 * l + b))))))) s) s)

/-- MVT (R292). -/
def execMvt (h : Hdr) (f : RRR) (s : State) : Out :=
  .next (coreWord h (fun s =>
    let r := 2 * (f.aux.toNat % 32)
    let n := f.aux.toNat / 32 % 8 + 1
    s.writeBack 2 [.tile f.d.toNat ((List.range n).flatMap fun m =>
      ((List.range 512).map (256 * (r + 2 * m) + ·)).zip
        (s.core.vBytes (if f.aux.getLsbD 8 then f.a.toNat else f.a.toNat + m)))]) s)

/-- MTT (R293). -/
def execMtt (h : Hdr) (f : RRR) (s : State) : Out :=
  .next (coreWord h (fun s =>
    let a := f.a.toNat
    let ty := tdType (s.core.rtd a)
    let z := tileNibs ty / 2
    let hh := f.aux.toNat % 4
    let g := f.aux.toNat / 4 % 4
    if ty = .none ∨ z = 0 ∨ 4 / z ≤ hh ∨ 4 / z ≤ g then s.descFault
    else tilePoison ((List.range 64).map fun i => (a, 256 * i + 64 * z * hh, 256 * i + 64 * z * (hh + 1))) (fun s =>
      s.writeBack 8 [.tile f.d.toNat ((List.range 64).flatMap fun j => (List.range 64).flatMap fun i => (List.range z).map fun b =>
        (256 * j + z * (64 * g + i) + b, s.core.rt a (256 * i + z * (64 * hh + j) + b)))]) s) s)

/-- The product of three FP32 values, exact and rounded once (R294, R111, R112). A quiet NaN beside 0 times infinity raises nothing: log
entry 142. -/
def fmul3 (mode : Rnd) (x y z : FVal) : FRes :=
  let sg := (x.sign != y.sign) != z.sign
  let anyInf := [x, y, z].any fun v => match v with
    | .inf _ => true
    | _ => false
  if x.isNan || y.isNan || z.isNan then ⟨nan32, { inv := x.isSnan || y.isSnan || z.isSnan }⟩
  else if anyInf then (if x.isZero || y.isZero || z.isZero then ⟨nan32, { inv := true }⟩ else ⟨fmtF32.infCode sg, {}⟩)
  else
    let r := fmtF32.roundDy mode false sg (Dy.mul (Dy.mul x.dy y.dy) z.dy)
    ⟨r.code, arithEv r.ev⟩

/-- MSCL (R294). -/
def execMscl (h : Hdr) (f : RRR) (s : State) : Out :=
  .next (coreWord h (fun s =>
    let c := s.core
    let a := c.rtd f.a.toNat
    let d := c.rtd f.d.toNat
    if !(tdType a == .f32 && tdType d == .f32 && tdRows a == tdRows d && tdCols a == tdCols d) then s.descFault
    else tilePoison (operandSpans f.a.toNat a) (fun s =>
      let one : FVal := f32 0x3F800000
      let cs := (List.range 64).map fun j => if f.aux.getLsbD 0 then f32 (c.rv f.b.toNat j) else one
      let rs := ((List.range (tdRows a)).zip (c.tileRows f.a.toNat 0 (tdRows a) (tdRowBytes a))).flatMap fun (i, row) =>
        let k := if f.aux.getLsbD 1 then f32 (c.rv f.b.toNat (64 + i)) else one
        ((List.range (tdCols a)).zip ((rowCodes .f32 (tdCols a) row).zip cs)).map fun (j, x, col) =>
          (256 * i + 4 * j, fmul3 (.ofCode f.rnd) (fmtF32.value x) k col)
      s.writeBack 6 [.tile f.d.toNat (rs.flatMap fun (o, r) => ((List.range 4).map (o + ·)).zip (leBytes 4 r.code))]
        (countEv (rs.map Prod.snd))) s) s)

end Sys2Proof.Machine
end

