-- ==== Sys2Proof/Machine/Save.lean ====
section
/-! DEFINITION. Pre-emption (R390 to R395, R401) and the context image it writes (R396 to R400). -/

namespace Sys2Proof.Machine

open Sys2Proof

/-! ## Liveness records (R169) -/

/-- The full record of a discard (R394): every mask bit set, and one range over the whole local store. -/
def fullRecord : List Byte :=
  List.replicate 32 0xFF ++ leBytes 1 1 ++ leBytes 31 0 ++ leBytes 4 0 ++ leBytes 4 lsEnd ++ leBytes 56 0

/-- The register numbers that a mask of a record marks, `n` of them at most from bit `lo` on. -/
def marked (rec : List Byte) (o bytes lo n : Nat) : List Nat := (List.range n).filter fun i => decide (lo ≤ i) && bitOf (fieldOf rec o bytes) i

/-- The ranges of a record: start and length. -/
def recRanges (rec : List Byte) : List (Nat × Nat) :=
  (List.range (fieldOf rec 0x20 1)).map fun i => (fieldOf rec (0x40 + 8 * i) 4, fieldOf rec (0x44 + 8 * i) 4)

/-- The k registers that a record marks: k0 is never saved (R169). -/
def markedK (rec : List Byte) : List Nat := marked rec 0 12 1 96

/-- The register files of a core in the order of their section (R399). -/
inductive SaveFile where
  | a | p | m | v | t | b | w | g
  deriving DecidableEq, Repr

/-- The bytes of one item of a file (R399). -/
def SaveFile.size : SaveFile → Nat
  | .a => 8
  | .p => 1
  | .m => 16
  | .v => 512
  | .t => 16392
  | .b => 8
  | .w => 8
  | .g => 32

/-- The items of a core-register section (R399): the predicates form one item, whatever their number. -/
def coreItems (rec : List Byte) : List (SaveFile × Nat) :=
  (marked rec 0x10 4 0 32).map (fun i => (SaveFile.a, i)) ++ (if (marked rec 0x0D 1 0 7).isEmpty then [] else [(SaveFile.p, 0)])
    ++ (marked rec 0x0E 1 0 7).map (fun i => (SaveFile.m, i)) ++ (marked rec 0x18 6 0 48).map (fun i => (SaveFile.v, i))
    ++ (marked rec 0x14 2 0 16).map (fun i => (SaveFile.t, i)) ++ (marked rec 0x1E 2 0 16).map (fun i => (SaveFile.b, i))
    ++ (marked rec 0x16 2 0 16).map (fun i => (SaveFile.w, i)) ++ (marked rec 0x0F 1 0 8).map (fun i => (SaveFile.g, i))

/-- The bytes of a core-register section before its padding (R399). -/
def coreRegLen (rec : List Byte) : Nat := ((coreItems rec).map fun i => i.1.size).foldl (· + ·) 0

/-- A length rounded up to a multiple of 64. -/
def up64 (n : Nat) : Nat := 64 * ceilDiv n 64

/-- The largest image that a record can give (R390). -/
def maxImage (rows planLen : Nat) (rec : List Byte) : Nat :=
  let cores := 8 * rows
  let rs := recRanges rec
  let secs := 4 + rows + cores * (4 + 2 * rs.length + 1)
  let rowLen := up64 (0x480 + 16 * 192 + 8 * (markedK rec).length)
  let rxLen := 512 * 128 * 4
  let coreLen := up64 (coreRegLen rec) + 384 + rxLen + up64 (rxLen / 64) + 1536
    + (rs.map fun (_, n) => n + up64 (n / 64)).foldl (· + ·) 0
  256 + up64 (16 * secs) + 128 + 65536 + up64 planLen + 2048 + rows * rowLen + cores * coreLen

/-- The bytes that SAVELEN must reach (R390). -/
def Task.saveNeed (t : Task) (disc : Bool) : Nat :=
  let recs := if disc then fullRecord :: t.lrecs else t.lrecs
  (recs.map fun r => maxImage t.nrows (planMem t.plans) r).foldl max 0

/-! ## The context image (R396 to R400) -/

/-- Zeros up to a length. -/
def padTo (n : Nat) (bs : List Byte) : List Byte := bs ++ List.replicate (n - bs.length) 0

/-- Zeros up to a multiple of 64. -/
def pad64 (bs : List Byte) : List Byte := padTo (up64 bs.length) bs

/-- A section to be written: type, row, core, ADDR, bytes. -/
structure OutSec where
  ty : Nat
  row : Nat := 0xFF
  core : Nat := 0xFF
  addr : Nat := 0
  bytes : List Byte
  deriving DecidableEq, Repr

/-- A return stack, oldest entry first (R398). -/
def stackBytes (top : List Nat) : List Byte := padTo 64 (top.reverse.flatMap (leBytes 4))

/-- The index of the first word of a clause that has not issued at the sequencer or at logical column 0 (R393): none where all
have. -/
def State.firstUnissued (s : State) (r : Fin 8) (c : Clause) : Option Nat :=
  if c.fb.isNone then some 0
  else
    let is := s.agenda.filterMap fun e =>
      if e.gang && e.row == r && e.core == 0 then
        match e.work with
        | .word id i => if id = c.id then some i else none
        | .ev (.clauseStart id) => if id = c.id then some 0 else none
        | _ => none
      else none
    match is with
    | [] => none
    | x :: xs => some (xs.foldl min x)

/-- The re-feed list of a row (R393): header word address, index, FB. -/
def State.refeedList (s : State) (r : Fin 8) : List (Nat × Nat × Nat) :=
  let w := s.rows[r]
  (w.clauses.filter fun c => c.read && !c.handler && !c.dropped).filterMap fun c =>
    (s.firstUnissued r c).map fun i => (c.addr, i, c.fb.getD w.fb)

/-- RPOS (R393): the word address that follows the last clause whose header has been read, or the one at which a branch that
has issued resumes reading. -/
def State.rposOf (s : State) (r : Fin 8) : Nat :=
  let w := s.rows[r]
  let target := s.agenda.findSome? fun e => if e.gang && e.row == r then match e.work with
    | .cont (.fetchFrom a) => some a
    | _ => none else none
  match w.refeed.getLast? with
  | some a => a
  | none =>
    match target, w.rpos with
    | some a, _ => a
    | none, some a => match w.clauses.find? fun c => c.read && c.delivered.isNone && decide (c.addr ≤ a) && decide (a ≤ c.addr + c.cnt) with
      | some c => c.addr + 1 + c.cnt
      | none => a
    | none, none => match (w.clauses.filter fun c => c.read && !c.handler).getLast? with
      | some c => c.addr + 1 + c.cnt
      | none => w.slen

/-- A row-state section (R398). -/
def State.rowSec (s : State) (r : Fin 8) (kind gstop : Nat) (rec : List Byte) : List Byte :=
  let w := s.rows[r]
  let refs := if kind = 2 || w.halted.isSome then [] else s.refeedList r
  let flag := fun (b : Bool) (n : Nat) => if b then n else 0
  let g := w.region
  leBytes 8 w.fb ++ leBytes 4 (s.rposOf r) ++ leBytes 1 w.rstack.length
    ++ leBytes 1 (flag w.halted.isSome 1 + flag g.isSome 2 + flag ((g.map (·.restarted)).getD false) 4) ++ leBytes 1 refs.length
    ++ leBytes 1 (((marked rec 0x0C 1 0 7).map fun i => flag (w.rq false i) (2 ^ i)).foldl (· + ·) 0)
    ++ stackBytes w.rstack ++ leBytes 8 w.tvec.toNat ++ leBytes 8 w.sstep.toNat
    ++ leBytes 8 ((g.map fun g => 2 ^ 63 + g.tag % 256 * 2 ^ 48 + g.addr % 2 ^ 18).getD 0) ++ leBytes 8 (gstop - w.slackAt) ++ leBytes 16 0
    ++ padTo 128 rec
    ++ (List.range 96).flatMap (fun i => leBytes 8 ((g.map fun g => (Sparse.get 0 g.k i).toNat).getD 0))
    ++ stackBytes ((g.map (·.rstack)).getD []) ++ leBytes 8 ((g.map (·.fb)).getD 0) ++ leBytes 1 ((g.map (·.rstack.length)).getD 0)
    ++ leBytes 1 ((g.map fun g => ((List.range 7).map fun i => flag (Sparse.get false g.q i) (2 ^ i)).foldl (· + ·) 0).getD 0) ++ leBytes 54 0
    ++ refs.flatMap (fun (a, i, fb) => leBytes 4 a ++ leBytes 1 i ++ leBytes 3 0 ++ leBytes 8 fb)
    ++ (markedK rec).flatMap (fun i => leBytes 8 (w.rk false i).toNat)

/-- The bytes of one item of a core-register section (R399). -/
def Core.itemBytes (c : Core) (rec : List Byte) : SaveFile × Nat → List Byte
  | (.a, i) => leBytes 8 (c.ra i).toNat
  | (.p, _) => leBytes 1 (((marked rec 0x0D 1 0 7).map fun i => if c.rp i then 2 ^ i else 0).foldl (· + ·) 0)
  | (.m, r) => leBytes 16 (((List.range 128).map fun i => if c.rm r i then 2 ^ i else 0).foldl (· + ·) 0)
  | (.v, r) => c.vBytes r
  | (.t, t) => Sparse.getList 0 c.tile (16384 * t) 16384 ++ leBytes 8 (c.rtd t).toNat
  | (.b, i) => leBytes 8 (Sparse.get 0 c.bnd i).toNat
  | (.w, i) => leBytes 8 (c.rw i).word.toNat
  | (.g, i) => leBytes 32 (Sparse.get 0 c.g i).toNat

/-- A core-register section (R399). -/
def Core.regSec (c : Core) (rec : List Byte) : List Byte := (coreItems rec).flatMap (c.itemBytes rec)

/-- The record of a put window in an engine section (R400). -/
def winBytes (w : PutWin) : List Byte :=
  leBytes 4 w.base ++ leBytes 4 w.len ++ leBytes 1 (if w.ben then 1 else 0) ++ leBytes 1 w.w ++ leBytes 6 0

/-- A core-engine-state section (R400). -/
def Core.engSec (c : Core) : List Byte :=
  leBytes 8 c.seg ++ leBytes 8 (c.infl % 2 ^ 23 * 2 ^ 32 + c.limit % 2 ^ 23)
    ++ (List.range 4).flatMap (fun i => leBytes 8 (Sparse.get 0 c.evcfg i).toNat) ++ (List.range 4).flatMap (fun i => leBytes 8 (Sparse.get 0 c.evcnt i).toNat)
    ++ (List.range 4).flatMap (fun i => leBytes 8 (Sparse.get 0 c.evlim i).toNat) ++ (List.range 4).flatMap (fun i => winBytes (c.rwin i))
    ++ (List.range 16).flatMap (fun i => leBytes 8 (Sparse.get 0 c.bt i).toNat)
    ++ leBytes 8 c.lwcc ++ leBytes 8 c.last ++ leBytes 8 c.lfree ++ leBytes 8 c.sfree
    ++ leBytes 2 c.pcnt ++ leBytes 1 (if c.psrc then 1 else 0) ++ leBytes 1 c.pmod ++ leBytes 4 0 ++ leBytes 8 c.paddr
    ++ (List.range 4).flatMap (fun i => leBytes 1 (c.rxb i).entries.length) ++ leBytes 28 0

/-- Entries of the receive buffers of a core, xe, xw, xn, xs in turn, oldest first (R397). -/
def Core.rxAll (c : Core) : List MeshEntry := (List.range 4).flatMap fun i => (c.rxb i).entries

/-- Marked 8-byte words as a poison map (R397). -/
def poisonMap (ws : List Nat) (n : Nat) : List Byte :=
  pad64 ((List.range (n / 64)).map fun i => BitVec.ofNat 8 (((List.range 8).map fun b => if ws.contains (8 * i + b) then 2 ^ b else 0).foldl (· + ·) 0))

/-- The extent-table entry of R145. -/
def extentBytes (e : Extent) : List Byte :=
  let bit := fun (b : Bool) (n : Nat) => if b then 2 ^ n else 0
  leBytes 16 (2 ^ 127 + bit e.a 126 + bit e.w 125 + bit e.r 124 + e.md * 2 ^ 114 + e.taddr / 65536 * 2 ^ 64 + e.size / 65536 * 2 ^ 32 + e.maddr / 65536)

/-- The sections of a core (R397 to R400), each with the words of it that are poisoned. -/
def Core.sections (c : Core) (row col : Nat) (rec : List Byte) : List (OutSec × List Nat) :=
  let es := c.rxAll
  (if coreRegLen rec = 0 then [] else [(⟨0x0120, row, col, 0, pad64 (c.regSec rec)⟩, [])])
    ++ [(⟨0x0121, row, col, 0, pad64 c.engSec⟩, [])]
    ++ (if es.isEmpty then [] else [(⟨0x0122, row, col, 0, es.flatMap (·.bytes)⟩,
          ((List.range es.length).zip es).flatMap fun (i, e) => e.poison.map fun w => 64 * i + w)])
    ++ (if c.extents.isEmpty then [] else [(⟨0x0123, row, col, 0, padTo 1536 (c.extents.flatMap extentBytes)⟩, [])])
    ++ (recRanges rec).map fun (a, n) => (⟨0x0124, row, col, a, Memory.bytes c.ls a n⟩, c.poisonedWords a n)

/-- The run records of a task (R357, R397). -/
def Task.runBytes (t : Task) : List Byte :=
  (List.range 64).flatMap fun n =>
    let r := t.record n
    if (t.plan? n).isNone then leBytes 32 0
    else leBytes 8 ((if r.run then 2 ^ 63 else 0) + 2 ^ 62 + r.runs % 2 ^ 24) ++ leBytes 8 r.c ++ leBytes 8 r.p0 ++ leBytes 8 r.e

/-- The sections of an image in ascending type, with the words of each that are poisoned (R397). `recOf` gives the record of a
row. -/
def State.imageSecs (s : State) (slot : Slot) (kind gstop : Nat) (recOf : Fin 8 → List Byte) : List (OutSec × List Nat) :=
  let t := (s.taskAt slot)
  let rs := s.rowsOf slot
  let shares := padTo 128 (rs.flatMap fun r => all8.flatMap fun c => leBytes 2 (s.coreAt r c).share)
  let cores := rs.flatMap fun r => all8.flatMap fun c => (s.coreAt r c).sections s.rows[r].rowid c.1 (recOf r)
  let ofType := fun (ty : Nat) => cores.filter fun k => k.1.ty == ty
  [(({ ty := 0x0101, bytes := shares } : OutSec), ([] : List Nat))]
    ++ (if t.routes.isEmpty then [] else [({ ty := 0x0102, bytes := (List.range 4096).flatMap fun i => leBytes 16 (Sparse.get 0 t.routes i).toNat }, [])])
    ++ (if t.plans.isEmpty then [] else [({ ty := 0x0103, bytes := pad64 (t.plans.flatMap planBytes) }, []), ({ ty := 0x0104, bytes := t.runBytes }, [])])
    ++ rs.map (fun r => (({ ty := 0x0110, row := s.rows[r].rowid, bytes := pad64 (s.rowSec r kind gstop (recOf r)) } : OutSec), ([] : List Nat)))
    ++ [0x0120, 0x0121, 0x0122, 0x0123, 0x0124].flatMap ofType

/-- The poison maps of sections (R397): ADDR names the section by its index. -/
def poisonSecs (ks : List (OutSec × List Nat)) : List OutSec :=
  ((List.range ks.length).zip ks).filterMap fun (i, k, ws) =>
    if ws.isEmpty then none else some ⟨0x0125, k.row, k.core, i, poisonMap ws k.bytes.length⟩

/-- Place sections one behind another from an offset on: their table entries and their bytes. -/
def layOut : Nat → List OutSec → List Byte × List Byte
  | _, [] => ([], [])
  | o, k :: ks =>
    let (tab, body) := layOut (o + k.bytes.length) ks
    (leBytes 2 k.ty ++ leBytes 1 k.row ++ leBytes 1 k.core ++ leBytes 4 k.addr ++ leBytes 4 o ++ leBytes 4 k.bytes.length ++ tab, k.bytes ++ body)

/-- The latest DCC at which a far-memory write of the task takes effect (R395), or 0. -/
def State.owdcc (s : State) (slot : Slot) : Nat :=
  let t := (s.taskAt slot)
  ((t.xfers.filter fun x => x.writes && !x.waits.isEmpty).map fun x => s.dccWork slot x.wcc).foldl max t.lastFx

/-- The context image of a task as it stands, with WRDONE and SAVED clear (R396). -/
def State.contextImage (s : State) (slot : Slot) (kind gstop : Nat) (recOf : Fin 8 → List Byte) : List Byte :=
  let t := (s.taskAt slot)
  let ks := s.imageSecs slot kind gstop recOf
  let all := ks.map (·.1) ++ poisonSecs ks
  let start := 256 + up64 (16 * all.length)
  let (tab, body) := layOut start all
  leBytes 4 0x5854435A ++ leBytes 2 1 ++ leBytes 1 kind ++ leBytes 1 0 ++ leBytes 8 (start + body.length) ++ leBytes 8 t.image ++ leBytes 4 t.taskid
    ++ leBytes 2 t.rank ++ leBytes 2 t.members ++ leBytes 1 t.nrows ++ leBytes 1 t.holdLim ++ leBytes 2 t.llead ++ leBytes 4 0x100
    ++ leBytes 8 gstop ++ leBytes 8 t.holds ++ leBytes 8 t.slkr ++ leBytes 8 t.shiftc ++ leBytes 8 (s.owdcc slot) ++ leBytes 8 s.dcc
    ++ leBytes 4 all.length ++ leBytes 164 0 ++ pad64 tab ++ body

/-! ## The request (R390, R391) -/

/-- The hold master of rank 0 holds the PREEMPT of every member (R390): the request becomes pending at the GCC that the gang reaches L_lead
domain cycles later. -/
def State.gatherPreempts (slot : Slot) (s : State) : State :=
  let t := (s.taskAt slot)
  if t.rank = 0 && (List.range t.members).all fun m => t.preempts.contains m then
    let q := s.gccAt slot t.llead
    ((s.modTask slot fun t => { t with preempts := [] }).send (.note 0x32 [t.taskid, q])).add
      { gang := true, due := q, rank := 0, slot := slot, work := .cont .preemptNow }
  else s

/-- The PREEMPT of a member reaches the hold master (R390). -/
def State.preemptFrom (slot : Slot) (m : Nat) (s : State) : State :=
  (s.modTask slot fun t => { t with preempts := t.preempts ++ [m] }).gatherPreempts slot

/-- PREEMPT (R381, R390): checked and, for a task of one member, pending 64 cycles on; in a gang the hold master hears of it. -/
def execPreempt (strm : Nat) (p : PreemptPkt) (s : State) : Out :=
  .next (match s.running p.taskid with
    | none => s.report32 strm p.report { code := 0x27 } p.taskid s.dcc 0
    | some slot =>
      let t := (s.taskAt slot)
      let no := fun (rep : EndReport) => s.report32 strm p.report rep p.taskid s.dcc t.rank
      if t.preempt.isSome then no { code := 0x26 }
      else if p.saveLen < t.saveNeed p.disc then no { code := 0x22, addr := t.saveNeed p.disc }
      else
        let s := s.modTask slot fun t => { t with preempt := some { strm := strm, pkt := p, q := t.gcc + 64 } }
        if t.members ≤ 1 then s.add { gang := true, due := t.gcc + 64, rank := 0, slot := slot, work := .cont .preemptNow }
        else if t.rank = 0 then s.preemptFrom slot 0
        else s.send (.note 0x30 [t.taskid, t.rank, s.dcc]))

/-- The request is pending on every row from this GCC on (R390). -/
def State.preemptNow (s : State) : State :=
  (s.hereTask fun t => { t with preempt := t.preempt.map fun p => { p with pending := true, q := t.gcc } }).checkDiscard s.cur.slot

/-- PREEMPT_PENDING (R390): at the hold master the PREEMPT of the member that the entry says arrives, or the request is pending from this
GCC on. -/
def execPreemptPending (s : State) : Out :=
  .next (match s.cur.args.head? with
    | some m => s.preemptFrom s.cur.slot m
    | none => s.preemptNow)

/-! ## The drain and the save (R392 to R395, R401) -/

/-- Work of a stopped task whose completion the drain awaits (R392): everything under way but far-memory writes at the modules,
their release, counts of cycles, and what the stop holds. -/
def Work.drains : Work → Bool
  | .ev (.storeWriteCompletion _) => false
  | .ev (.maaddEffect _) => false
  | .ev (.mcmdBlockEffect _ _ _) => false
  | .ev (.moduleScheduleEntry _ _) => false
  | .ev (.eventCounterWindow _) => false
  | .ev .slackStarvation => false
  | .ev .preemptDrainEnd => false
  | .ev .preemptPending => false
  | .ev .discard => false
  | .cont .preemptNow => false
  | .cont (.preptTake _) => false
  | .ev (.gangHold _) => false
  | .ev (.gangStop _ _) => false
  | .ev .coreStop => false
  | .cont (.release _) => false
  | .cont (.fetchFrom _) => false
  | .cont (.badRead _ _) => false
  | .cont .rowEnd => false
  | .ev .dispatcherRead => false
  | _ => true

/-- The cycle from which a piece of work no longer keeps a drain: a transfer that lands is complete the cycle after its last landing
(R148, R392). -/
def Task.completes (t : Task) (e : Entry) : Nat :=
  let of := fun (id : Nat) => ((t.xfers.find? fun x => x.id == id).map (·.wcc)).getD e.due
  match e.work with
  | .ev (.fetchLanding id _) => of id
  | .ev (.miredLanding id _) => of id
  | _ => e.due

/-- The cycles of work that the drain of a slot still awaits: a core's ingress buffer keeps it until every word is written (R136). -/
def State.draining (s : State) (slot : Slot) : List Nat :=
  let t := (s.taskAt slot)
  ((s.agenda.filter fun e => e.gang && e.slot == slot && e.work.drains && !s.blocked e).map t.completes)
    ++ if t.gcc < t.landed then [t.landed] else []

/-- A context image is written, once a port carries traffic toward its module (R407), and the end of its save and of the task's writes
are put on the agenda (R395, R401). -/
def State.writeImage (slot : Slot) (img : List Byte) (s : State) : State :=
  match (s.taskAt slot).preempt with
  | none => s
  | some p =>
    if s.cut (2 ^ 64 - 1) p.pkt.save then s.add { gang := false, due := s.dcc + portWait, rank := 58, slot := slot, work := .cont (.imageWrite img) }
    else
      let s := s.streamWrite p.pkt.save img
      let s := s.add { gang := false, due := s.dcc + min (Config.within 0 s.dcc) (256 + ceilDiv img.length 64), rank := 58, slot := slot, work := .ev .saveComplete }
      s.add { gang := false, due := max s.dcc (s.owdcc slot + 1), rank := 57, slot := slot, work := .ev (.wrdone p.pkt.save) }

/-- A save reads the local-store ranges that the rows' records name (R141, R397): corrected words are counted, uncorrectable ones
rewritten as poisoned. -/
def State.saveReads (slot : Slot) (recOf : Fin 8 → List Byte) (s : State) : State :=
  forEach (s.rowsOf slot) (fun r s => forEach all8 (fun c s =>
    let ks := ((s.coreAt r c).lsCls.map fun x => 8 * x.1).filter fun w => (recRanges (recOf r)).any fun (a, n) => decide (a ≤ w) && decide (w < a + n)
    s.engineReadAt r c ks) s) s

/-- The image of a stopped task is made as the task stands (R395, R401). -/
def State.beginSave (s : State) (slot : Slot) (p : Preempt) (kind gstop : Nat) (recOf : Fin 8 → List Byte) : State :=
  let s := s.finishReads slot
  let img := s.contextImage slot kind gstop recOf
  let s := s.saveReads slot recOf
  let s := s.modTask slot fun t => { t with preempt := some { p with taken := p.taken.or (some t.gcc), drained := some s.dcc, size := img.length } }
  (s.modStream p.strm fun k => { k with saves := k.saves ++ [p.pkt.save] }).writeImage slot img

/-- A trap has stopped the gang during the drain: the request stays pending (R391). -/
def State.dropPrept (slot : Slot) (s : State) : State :=
  let rs := s.rowsOf slot
  let s := forEach rs (fun r s => s.modRow r fun w => { w with prept := none }) s
  let s := s.modTask slot fun t => { t with preempt := t.preempt.map fun p => { p with taken := none } }
  forEach (rs.filter s.rowFrozen) (fun r s => s.rowStopped slot r) s

/-- PREEMPT_DRAIN_END (R392): at P_s the save begins, with the record that each row's PREPT named; a row that had halted is
saved with that of the first row that stopped. -/
def execPreemptDrainEnd (s : State) : Out :=
  let slot := s.cur.slot
  let t := s.task
  .next (match t.preempt with
    | none => s
    | some p =>
      if p.taken.isNone || p.drained.isSome || t.ending.isSome then s
      else if t.stop.isSome then s.dropPrept slot
      else match s.draining slot with
        | [] =>
          let first := ((s.rowsOf slot).findSome? fun r => s.rows[r].prept).getD 0
          s.beginSave slot p 1 (p.taken.getD 0 + 1) fun r => t.lrecs.getD (s.rows[r].prept.getD first) []
        | xs => s.add { s.cur with due := max (s.gcc + 1) (xs.foldl max 0) })

/-- A discard takes place or lapses (R391, R394): HALT wins where every row has halted; it lapses where a region has closed or a trap has
stopped the gang; otherwise every core stops and the gang is saved with its regions and the full record. -/
def State.discardNow (s : State) : State :=
  let slot := s.cur.slot
  let t := s.task
  match t.preempt with
  | none => s
  | some p =>
    let rs := s.rowsOf slot
    if p.taken.isSome || t.ending.isSome || (rs.all fun r => s.rows[r].halted.isSome) then s
    else if p.lapsed || t.stop.isSome || !s.regionsOpen slot then
      (s.modTask slot fun t => { t with preempt := some { p with discardAt := none, lapsed := false } }).checkDiscard slot
    else
      let entries := ((rs.filter fun r => s.rows[r].halted.isNone).filterMap fun r => s.rows[r].region.map (·.entry)) ++ t.peerRegions.map (·.2.2)
      let s := (s.discardRegions slot).dropIssue slot
      let s := forEach rs (fun r s => forEach all8 (fun c s => s.modCore r c fun k => { k with sigma := some t.gcc, frozen := true })
        (s.modRow r fun w => { w with sigma := some t.gcc, frozen := true })) s
      s.beginSave slot p 2 (entries.foldl min t.gcc) fun _ => fullRecord

/-- DISCARD (R394): the hold master announces a discard for the GCC that the entry says, or the announced one is due. -/
def execDiscard (s : State) : Out :=
  .next (match s.cur.args.head? with
    | some d => s.announceDiscard s.cur.slot d
    | none => s.discardNow)

/-- SAVE_COMPLETE (R401, R407): once the image can be reached, SAVED is set, the LAUNCH or RESUME and the PREEMPT report, and the rows are released. -/
def execSaveComplete (s : State) : Out :=
  let slot := s.cur.slot
  let t := s.task
  .next (match t.preempt with
    | none => s
    | some p => match p.drained with
      | none => s
      | some d =>
        if s.cut (2 ^ 64 - 1) p.pkt.save then s.addDomain (s.dcc + portWait) 58 (.ev .saveComplete) else
        let flags := s.streamNat (p.pkt.save + 7) 1
        let s := s.streamWrite (p.pkt.save + 7) (leBytes 1 (flags ||| 2))
        let s := s.leaveRows slot p.pkt.save { code := 0x03 }
        let rep : EndReport := { code := 0x03, addr := p.size }
        let s := s.report32 t.strm t.report rep t.taskid d t.rank
        let s := s.report32 p.strm p.pkt.report rep t.taskid d t.rank
        (if p.done then s.freeTask slot else s).retryRows)

/-- WRDONE (R395): once DCC has passed the effect of every far-memory write of the task the image says so; a write that was
late moves OWDCC. It waits for a port toward the image's module (R407). -/
def execWrdone (addr : Nat) (s : State) : Out :=
  let slot := s.cur.slot
  let t := s.task
  let left := t.xfers.any fun x => x.writes && !x.waits.isEmpty
  .next (if s.cut (2 ^ 64 - 1) addr then s.add { s.cur with gang := false, due := s.dcc + portWait, work := .ev (.wrdone addr) }
    else if left then
      let s := s.streamWrite (addr + 0x48) (leBytes 8 (s.owdcc slot))
      s.add { s.cur with due := max (s.dcc + 1) (s.owdcc slot + 1) }
    else
      let s := s.streamWrite (addr + 0x48) (leBytes 8 t.lastFx)
      let s := (s.streamWrite (addr + 7) (leBytes 1 (s.streamNat (addr + 7) 1 ||| 1))).saveDone addr
      if t.ghost = some addr then s.freeTask slot
      else s.modTask slot fun t => { t with preempt := t.preempt.map fun p => if p.pkt.save = addr then { p with done := true } else p })

end Sys2Proof.Machine
end

