-- ==== Sys2Proof/Machine/Restore.lean ====
section
/-! DEFINITION. Restore (R402 to R404): checking a context image, forming its gang, and putting its state back, shifted, at the
restore launch. -/

namespace Sys2Proof.Machine

open Sys2Proof

/-! ## The image as read -/

/-- What a context image says of itself (R396). -/
structure Saved where
  base : Nat
  kind : Nat
  timg : Nat
  taskid : Nat
  rank : Nat
  members : Nat
  rows : Nat
  holdLim : Nat
  llead : Nat
  gstop : Nat
  holds : Nat
  slkr : Nat
  shiftc : Nat
  owdcc : Nat
  secs : List Sec
  deriving DecidableEq, Repr

/-- The bytes of a section. -/
def State.savedBytes (s : State) (v : Saved) (k : Sec) : List Byte := s.streamBytes (v.base + k.ofs) k.len

/-- The section of a type that belongs to a row and core. -/
def Saved.sec? (v : Saved) (ty row core : Nat) : Option Sec := v.secs.find? fun k => k.ty == ty && k.row == row && k.core == core

/-- The bytes of such a section, none of them where there is none. -/
def State.savedSec (s : State) (v : Saved) (ty row core : Nat) : List Byte := ((v.sec? ty row core).map (s.savedBytes v)).getD []

/-- A section keeps R397 to R400. -/
def savedSecOk (rows size n : Nat) (k : Sec) : Bool :=
  mult k.ofs 64 && mult k.len 64 && decide (k.ofs + k.len ≤ size) &&
    match k.ty with
    | 0x0101 => k.len == 128
    | 0x0102 => k.len == 65536
    | 0x0103 => true
    | 0x0104 => k.len == 2048
    | 0x0110 => decide (k.row < rows) && decide (0x480 ≤ k.len)
    | 0x0120 => decide (k.row < rows) && decide (k.core < 8)
    | 0x0121 => decide (k.row < rows) && decide (k.core < 8) && k.len == 384
    | 0x0122 => decide (k.row < rows) && decide (k.core < 8) && mult k.len 512
    | 0x0123 => decide (k.row < rows) && decide (k.core < 8) && k.len == 1536
    | 0x0124 => decide (k.row < rows) && decide (k.core < 8) && decide (k.addr + k.len ≤ lsEnd)
    | 0x0125 => decide (k.addr < n)
    | _ => false

/-- The sections that every image has are there (R397). -/
def Saved.complete (v : Saved) : Bool :=
  (v.sec? 0x0101 0xFF 0xFF).isSome &&
    (List.range v.rows).all fun r => (v.sec? 0x0110 r 0xFF).isSome && (List.range 8).all fun c => (v.sec? 0x0121 r c).isSome

/-- The header says that it begins a context image (R396). -/
def State.isContext (s : State) (a : Nat) : Bool := s.streamNat a 4 == 0x5854435A && s.streamNat (a + 4) 2 == 1

/-- The sections whose length follows from a row's record have it (R398, R399): a row's state has its re-feed entries and marked k
registers, a core's registers those that the record marks. -/
def State.lensOk (s : State) (v : Saved) : Bool :=
  (List.range v.rows).all fun r =>
    let bs := s.savedSec v 0x0110 r 0xFF
    let rec' := (bs.drop 0x80).take 128
    bs.length == up64 (0x480 + 16 * fieldOf bs 0x0E 1 + 8 * (markedK rec').length)
      && (List.range 8).all fun c => match v.sec? 0x0120 r c with
        | some k => k.len == up64 (coreRegLen rec')
        | none => coreRegLen rec' == 0

/-- Read and check a context image and the task image it names (R396, R397, R402): none where code 0x20 refuses it. -/
def State.readContext (s : State) (podMap a : Nat) : Option (Saved × Image) :=
  if s.addrAway podMap a || !s.isContext a then none
  else
    let f := fun (o n : Nat) => s.streamNat (a + o) n
    let size := f 8 8
    let n := f 0x58 4
    let v : Saved :=
      { base := a, kind := f 6 1, timg := f 0x10 8, taskid := f 0x18 4, rank := f 0x1C 2, members := f 0x1E 2, rows := f 0x20 1
        holdLim := f 0x21 1, llead := f 0x22 2, gstop := f 0x28 8, holds := f 0x30 8, slkr := f 0x38 8, shiftc := f 0x40 8, owdcc := f 0x48 8
        secs := readSecs (s.streamBytes (a + 0x100) (16 * n)) n }
    if bitOf (f 7 1) 1 && (v.kind == 1 || v.kind == 2) && decide (1 ≤ v.rows) && decide (v.rows ≤ 8) && f 0x24 4 == 0x100 && decide (0x100 + 16 * n ≤ size)
        && v.secs.all (savedSecOk v.rows size n) && v.complete && s.lensOk v && !s.addrAway podMap v.timg then
      match s.readImage v.timg with
      | some m => if m.rows = v.rows && m.gang = v.members then some (v, m) else none
      | none => none
    else none

/-- The saved route table (R397). -/
def State.savedRoutes (s : State) (v : Saved) : List (Nat × BitVec 128) :=
  match v.sec? 0x0102 0xFF 0xFF with
  | none => []
  | some k => ((List.range 4096).map fun i => (i, BitVec.ofNat 128 (s.streamNat (v.base + k.ofs + 16 * i) 16))).filter fun (_, e) => routeVal e

/-- The saved plans (R397): a header with no entries is padding. -/
def State.savedPlans (s : State) (v : Saved) : List Plan :=
  let bs := s.savedSec v 0x0103 0xFF 0xFF
  let rec go : Nat → List Byte → List Plan
    | 0, _ => []
    | n + 1, bs => match readPlan bs with
      | some (p, rest) => p :: go n rest
      | none => []
  go 64 bs

/-- An extent-table entry (R145): none where it is not valid. -/
def readExtent (x : Nat) : Option Extent :=
  if bitOf x 127 then
    some ⟨bitsOf x 64 32 * 65536, bitsOf x 32 32 * 65536, bitsOf x 0 23 * 65536, bitsOf x 114 6, bitOf x 124, bitOf x 125, bitOf x 126⟩
  else none

/-- The saved extent table of a core. -/
def State.savedExtents (s : State) (v : Saved) (r c : Nat) : List Extent := (records 16 (s.savedSec v 0x0123 r c)).filterMap fun b => readExtent (leNat b)

/-! ## RESUME (R402) -/

/-- The current route table serves every saved route (R402). -/
def routesServe (old : List (Nat × BitVec 128)) (now : Sparse (BitVec 128)) : Bool :=
  old.all fun (i, e) =>
    let x := Sparse.get 0 now i
    routeVal x && routeRank x == routeRank e && routeLfix x == routeLfix e

/-- The checks of R402 behind that of the row set: their code. -/
def State.resumeFault (s : State) (ctx : MapCtx) (p : ResumePkt) (v : Saved) : Option Nat :=
  let routes := s.readRoutes ctx.rtAddr
  let d := if bitOf p.flags 0 then p.dcc else 64 * ceilDiv (s.dcc + 128) 64
  if ctx.rtAddr ≠ 0 && s.addrAway ctx.podMap ctx.rtAddr then some 0x18
  else if ctx.cwd + 64 ≠ v.llead || !routesServe (s.savedRoutes v) routes then some 0x1F
  else if !routes.all (fun x => routeOk v.members v.llead x.2) then some 0x1B
  else if (List.range v.rows).any fun r => (List.range 8).any fun c => (s.savedExtents v r c).any fun x => s.away ctx.podMap x.md then some 0x18
  else if d ≤ v.owdcc then some 0x21
  else if !s.plansFit none (s.savedPlans v) then some 0x1A
  else none

/-- The sectors of a context image are read (R337): of one that is refused its header, and where that begins an image its section table, the
states of its rows, and the task image it names (log entry 136). -/
def State.touchContext (s : State) (podMap a : Nat) : State :=
  if s.addrAway podMap a then s
  else if (s.readContext podMap a).isSome then s.streamTouch a (s.streamNat (a + 8) 8)
  else
    let size := s.streamNat (a + 8) 8
    let n := s.streamNat (a + 0x58) 4
    let timg := s.streamNat (a + 0x10) 8
    let s' := s.streamTouch a 256
    if !s.isContext a || decide (size < 0x100 + 16 * n) then s'
    else
      let ks := (readSecs (s.streamBytes (a + 0x100) (16 * n)) n).filter fun k => k.ty == 0x0110 && decide (k.ofs + k.len ≤ size)
      let s' := forEach ks (fun k s => s.streamTouch (a + k.ofs) k.len) (s'.streamTouch (a + 0x100) (16 * n))
      if s.addrAway podMap timg then s' else s'.touchImage timg

/-- Prepare a RESUME (R402): its checks in order, then readiness (R389). -/
def State.prepareResume (e : Prep) (p : ResumePkt) (s : State) : State :=
  let ctx := (s.stream e.strm).ctx
  let s := s.modPkg fun q => { q with engine := some e }
  let no := fun (code : Nat) (s : State) => s.refuse e.strm e.job { code := code }
  let saved := s.readContext ctx.podMap p.save
  let s := s.touchContext ctx.podMap p.save
  match saved with
  | none => no 0x20 s
  | some (v, m) =>
    let s := (s.touchImage v.timg).touchRoutes ctx
    if s.rowCount < v.rows then no 0x1E s
    else match e.place.or ((s.rowSet p.firstRow v.rows).map fun f => (s.freeSlot, f)) with
      | none => if bitOf p.flags 1 then s.waitForRows e else no 0x19 s
      | some (slot, first) =>
        match s.resumeFault ctx p v with
        | some code => no code s
        | none =>
          let msg : ReadyMsg :=
            { gangTag := p.gangTag, rank := v.rank, members := v.members, dcc := p.dcc, holdLim := v.holdLim, llead := v.llead
              crc := crc64 (s.streamBytes v.timg m.size), sent := s.dcc }
          s.becomeReady { e with place := some (slot, first) } (if bitOf p.flags 0 then some p.dcc else none) v.members msg .restoreLaunch

/-- The code of a RESUME that is still queued when it should be ready (R402, R405): the first of its checks that fails, none where all
pass. -/
def State.queuedFault (s : State) (n : Nat) (p : ResumePkt) : Option Nat :=
  let ctx := (s.stream n).ctx
  match s.readContext ctx.podMap p.save with
  | none => some 0x20
  | some (v, _) =>
    if s.rowCount < v.rows then some 0x1E
    else if (s.rowSet p.firstRow v.rows).isNone && !bitOf p.flags 1 then some 0x19
    else s.resumeFault ctx p v

/-- The sectors that those checks read (R337). -/
def State.touchQueued (s : State) (n : Nat) (p : ResumePkt) : State :=
  let ctx := (s.stream n).ctx
  let s' := s.touchContext ctx.podMap p.save
  match s.readContext ctx.podMap p.save with
  | none => s'
  | some (v, _) => (s'.touchImage v.timg).touchRoutes ctx

/-- By its cycle a launch that is absolute has had to be ready, and a gang to have its announcement (R389); which rank a member
reports when no announcement comes is free. A RESUME that waits for the engine or for rows is checked first (R402). -/
def State.launchLimit (s : State) (n id : Nat) : State :=
  if ((s.stream n).busy.map (·.id)) != some id then s
  else match s.jobs.find? fun j => j.1 == n with
    | none => s
    | some (_, j) =>
      let ready := match s.pkg.engine with
        | some e => decide (e.strm = n) && e.launch.isSome
        | none => false
      let fault := match j with
        | .resume p => if ready || s.jobCut n j then none else s.queuedFault n p
        | _ => none
      let gang := match j with
        | .launch p => decide (1 < p.members)
        | .resume p => decide (1 < s.streamNat (p.save + 0x1E) 2)
        | _ => false
      let s := match j with
        | .resume p => if ready || s.jobCut n j then s else s.touchQueued n p
        | _ => s
      match fault with
      | some code => s.refuse n j { code := code }
      | none =>
        if gang then s.refuse n j { code := 0x1D, rank := some (Config.openField 0x389 n s.dcc % 2 ^ 16) }
        else if ready then s else s.refuse n j { code := 0x25 }

/-- RESUME (R395, R402): the header of the image is read (R337), and one whose WRDONE is 0 is waited for; then the packet asks for the
dispatch engine. -/
def execResume (strm : Nat) (p : ResumePkt) (s : State) : Out :=
  if s.cut (s.stream strm).ctx.podMap p.save then .next (s.add { s.cur with gang := false, due := s.dcc + portWait, rank := 51, work := .ev (.resume strm p) }) else
  let s := if s.cur.args.isEmpty && !s.addrAway (s.stream strm).ctx.podMap p.save then s.streamTouch p.save 64 else s
  .next (if s.isContext p.save && !bitOf (s.streamNat (p.save + 7) 1) 0 then
      s.add { gang := false, due := s.dcc + 64, rank := 51, args := [1], work := .ev (.resume strm p) }
    else
      let s := if bitOf p.flags 0 then
          s.judgeLaunch strm p.dcc (s.streamNat (p.save + 0x1C) 2) (s.streamNat (p.save + 0x1E) 2) p.gangTag (s.stream strm).ctx.cwd else s
      s.request strm (.resume p))

/-! ## Putting the state back (R403) -/

/-- A barrier from its state word (R304). -/
def barrierOf (x : Nat) : Barrier :=
  { arm := bitOf x 63, psn := bitOf x 62, lost := bitOf x 61, ovr := bitOf x 60, src := bitOf x 59, pend := bitsOf x 0 32 }

/-- Put one item of a core-register section back (R399). -/
def Core.putItem (c : Core) (bs : List Byte) : SaveFile × Nat → Core
  | (.a, i) => c.wa i (BitVec.ofNat 64 (leNat bs))
  | (.p, _) => (List.range 7).foldl (fun c i => c.wp i (bitOf (leNat bs) i)) c
  | (.m, r) => c.wm r ((List.range 128).map fun i => (i, bitOf (leNat bs) i))
  | (.v, r) => c.wv r (lanesOf bs)
  | (.t, t) => { c with tile := Sparse.setList 0 c.tile (16384 * t) (bs.take 16384), td := Sparse.set 0 c.td t (BitVec.ofNat 64 (leNat (bs.drop 16384))) }
  | (.b, i) => { c with bnd := Sparse.set 0 c.bnd i (BitVec.ofNat 64 (leNat bs)) }
  | (.w, i) => { c with w := Sparse.set {} c.w i (barrierOf (leNat bs)) }
  | (.g, i) => { c with g := Sparse.set 0 c.g i (BitVec.ofNat 256 (leNat bs)) }

/-- Put the items of a section back, one behind another. -/
def putItems : List (SaveFile × Nat) → List Byte → Core → Core
  | [], _, c => c
  | i :: is, bs, c => putItems is (bs.drop i.1.size) (c.putItem (bs.take i.1.size) i)

/-- A value moved by the restore shift (R403). -/
def moved (d x : Nat) : Nat := (x + d) % 2 ^ 64

/-- A core's engine state put back (R400, R403). -/
def Core.putEngine (c : Core) (d : Nat) (bs : List Byte) : Core :=
  let f := fieldOf bs
  let regs := fun (o n : Nat) => Sparse.setMany (0 : Word) [] ((List.range n).map fun i => (i, BitVec.ofNat 64 (f (o + 8 * i) 8)))
  { c with
    seg := f 0 8, limit := f 8 8 % 2 ^ 23, infl := 0
    evcfg := regs 0x10 4, evcnt := regs 0x30 4, evlim := regs 0x50 4
    win := Sparse.setMany {} [] ((List.range 4).map fun i =>
      let o := 0x70 + 16 * i
      (i, { base := f o 4, len := f (o + 4) 4, ben := f (o + 8) 1 == 1, w := f (o + 9) 1 }))
    bt := regs 0xB0 16
    lwcc := if f 0x130 8 = 0 then 0 else moved d (f 0x130 8), last := if f 0x138 8 = 0 then 0 else moved d (f 0x138 8)
    lfree := moved d (f 0x140 8), sfree := moved d (f 0x148 8)
    pcnt := f 0x150 2, psrc := f 0x152 1 == 1, pmod := f 0x153 1, paddr := f 0x158 8 }

/-- The receive entries put back: how many each port has, the entries, and their poisoned words (R397, R400). -/
def putRx : List (Nat × Nat) → List MeshEntry → Core → Core
  | [], _, c => c
  | (port, n) :: ps, es, c =>
    putRx ps (es.drop n) (if n = 0 then c else c.modRx port fun _ => { entries := es.take n, announced := [], occupied := n })

/-- The words that the poison map of a section marks (R397). -/
def State.savedPoison (s : State) (v : Saved) (i : Nat) : List Nat :=
  (v.secs.filter fun k => k.ty == 0x0125 && k.addr == i).flatMap fun k =>
    let bs := s.savedBytes v k
    (List.range (8 * bs.length)).filter fun w => bitOf (bs.getD (w / 8) 0).toNat (w % 8)

/-- A core put back (R402, R403). -/
def State.savedCore (s : State) (v : Saved) (d r c : Nat) (rec : List Byte) (k : Core) : Core :=
  let eng := s.savedSec v 0x0121 r c
  let k := launchCore k (fieldOf (s.savedSec v 0x0101 0xFF 0xFF) (2 * (8 * r + c)) 2) (s.savedExtents v r c) []
  let k := (putItems (coreItems rec) (s.savedSec v 0x0120 r c) k).putEngine d eng
  let secs := ((List.range v.secs.length).zip v.secs).filter fun (_, q) => q.row == r && q.core == c
  let es := secs.flatMap fun (i, q) =>
    if q.ty = 0x0122 then
      let psn := s.savedPoison v i
      let bs := records 512 (s.savedBytes v q)
      ((List.range bs.length).zip bs).map fun (j, b) => (⟨b, (List.range 64).filter fun w => psn.contains (64 * j + w)⟩ : MeshEntry)
    else []
  let k := putRx ((List.range 4).map fun p => (p, fieldOf eng (0x160 + p) 1)) es k
  secs.foldl (fun k (i, q) =>
    if q.ty = 0x0124 then
      let k := { k with ls := Memory.putBytes k.ls q.addr (s.savedBytes v q) }
      { k with lsCls := (s.savedPoison v i).foldl (fun m w => Sparse.set .clean m (q.addr / 8 + w) .poisoned) k.lsCls }
    else k) k

/-- A return stack, top first. -/
def readStack (bs : List Byte) (o n : Nat) : List Nat := ((List.range n).map fun i => fieldOf bs (o + 4 * i) 4).reverse

/-- A row put back (R398, R403): `g` is GSTOP, `ks` its marked k registers. -/
def savedRow (w : Row) (slot : Slot) (i kind g d : Nat) (ws bs : List Byte) : Row :=
  let f := fieldOf bs
  let flags := f 0x0D 1
  let rec' := (bs.drop 0x80).take 128
  let ks := markedK rec'
  let ko := 0x480 + 16 * f 0x0E 1
  let w := launchRow w slot i ((records 8 ws).map fun b => BitVec.ofNat 64 (leNat b))
  let ke : Sparse Word := Sparse.setMany 0 [] ((List.range 96).map fun i => (i, BitVec.ofNat 64 (f (0x100 + 8 * i) 8)))
  let qe : Sparse Bool := Sparse.setMany false [] ((List.range 7).map fun i => (i, bitOf (f 0x449 1) i))
  let re := readStack bs 0x400 (f 0x448 1)
  let idemr := f 0x60 8
  let start := (clauseHdrOf (w.at (bitsOf idemr 0 18))).start.toNat
  let region : Option Region :=
    if bitOf flags 1 then
      some { tag := bitsOf idemr 48 8, addr := bitsOf idemr 0 18, entry := moved d (f 0x440 8 + start), k := ke, q := qe, rstack := re
             fb := moved d (f 0x440 8), restarted := bitOf flags 2, redo := kind == 2 }
    else none
  let back := kind == 2 && !bitOf flags 0
  { w with
    tvec := BitVec.ofNat 64 (f 0x50 8), sstep := BitVec.ofNat 64 (f 0x58 8)
    fb := if back then moved d (f 0x440 8) else moved d (f 0 8)
    rstack := if back then re else readStack bs 0x10 (f 0x0C 1)
    k := if back then Sparse.set 0 ke 0 0
      else Sparse.setMany 0 [] (((List.range ks.length).zip ks).map fun (j, n) => (n, BitVec.ofNat 64 (f (ko + 8 * j) 8)))
    q := if back then qe else Sparse.setMany false [] ((List.range 7).map fun i => (i, bitOf (f 0x0F 1) i))
    region := region
    halted := if bitOf flags 0 then some g else none
    running := !bitOf flags 0
    slackAt := moved d g - f 0x68 8 }

/-- A clause of a re-feed list found again (R403): words from index `i` on issue at their cycles, and claim what they need then (R250,
R278). -/
def State.refeedClause (slot : Slot) (r : Fin 8) (a i fb : Nat) (s : State) : State :=
  let w := s.rows[r]
  let h := clauseHdrOf (w.at a)
  let id := s.next
  let n := h.cnt.toNat + 1
  let c : Clause :=
    { id := id, addr := a, cls := h.cls.toNat, cnt := n, start := h.start.toNat, fb := some fb, wait := h.wait.toNat
      fault := w.clauseFault (s.taskAt slot) a, read := true }
  let s := (s.modRow r fun w => { w with clauses := w.clauses ++ [c] }).fresh
  if i = 0 then s.placeClause slot r id fb
  else
    let g := (fb + c.start) % 2 ^ 64
    let ws := w.clauseWords a n
    let (os, len) := wordOffsets ws 0
    let claims := match Col.ofCls (BitVec.ofNat 3 c.cls) with
      | some k => wordsClaims k ((os.zip ws).drop i) g
      | none => []
    let s := s.modRow r fun w => { w with
      colEnd := Sparse.set 0 w.colEnd c.column (max (Sparse.get 0 w.colEnd c.column) (g + len)), claims := w.claims ++ claims }
    forEach (((List.range os.length).zip os).drop i) (fun (j, o) s =>
      if c.cls = 0 then s.add { gang := true, due := g + o, rank := 10, ord := j, slot := slot, row := r, part := .seq, work := .word id j }
      else forEach all8 (fun k s => s.add
        { gang := true, due := g + o + 2 * k.1, rank := 10 + c.cls, ord := 8 * r.1 + k.1, slot := slot, row := r, core := k, part := .core
          work := .word id j }) s) s

/-- The frame-changing words of a re-fed clause that have still to issue (R403). -/
def Row.refeedFrames (w : Row) (a i : Nat) : Bool :=
  let h := clauseHdrOf (w.at a)
  h.cls == 0 && (((w.clauseWords a (h.cnt.toNat + 1)).drop i).any frameChanging)

/-- A row's dispatcher re-reads its re-feed list from this cycle, then goes on at RPOS unless a frame-changing word of the list
redirects it (R403). -/
def State.refeed (slot : Slot) (r : Fin 8) (refs : List (Nat × Nat × Nat)) (rpos : Nat) (s : State) : State :=
  let s := forEach refs (fun (a, i, fb) s => s.refeedClause slot r a i fb) s
  let w := s.rows[r]
  let stays := refs.any fun (a, i, _) => w.refeedFrames a i
  let s := if stays then s else s.findRun slot r w.slen rpos
  let as := refs.map (·.1) ++ if stays then [] else [rpos]
  let s := s.modRow r fun w => { w with rpos := as.head?, refeed := as.tail }
  s.add { gang := true, due := (s.taskAt slot).gcc, rank := 33, slot := slot, row := r, part := .seq, work := .ev .dispatcherRead }

/-- The saved run records (R397, R403). -/
def State.savedRuns (s : State) (v : Saved) (d : Nat) : List (Nat × RunRec) :=
  let bs := s.savedSec v 0x0104 0xFF 0xFF
  let move := fun (x : Nat) => if x = 0 then 0 else moved d x
  if bs.isEmpty then []
  else (List.range 64).map fun n =>
    let o := 32 * n
    (n, { run := false, runs := bitsOf (fieldOf bs o 8) 0 24, c := move (fieldOf bs (o + 8) 8)
          p0 := move (fieldOf bs (o + 16) 8), e := fieldOf bs (o + 24) 8 })

/-- Put a row and its cores back, and start its dispatcher (R403). -/
def State.restoreRow (slot : Slot) (first d : Nat) (v : Saved) (m : Image) (i : Nat) (s : State) : State :=
  let r := Fin.ofNat 8 (first + i)
  let bs := s.savedSec v 0x0110 i 0xFF
  let ws := ((m.secs.find? fun k => k.ty == 1 && bitOf k.row i).map (s.secBytes v.timg)).getD []
  let rec' := (bs.drop 0x80).take 128
  let s := s.modRow r fun w => savedRow w slot i v.kind v.gstop d ws bs
  let s := forEach all8 (fun c s => let k := s.savedCore v d i c.1 rec' (s.coreAt r c); s.modCore r c fun _ => k) s
  let g := (s.taskAt slot).gcc
  let s := forEach all8 (fun c s => forEach [0, 1, 2, 3] (fun n s =>
    match evWindow (Sparse.get 0 (s.coreAt r c).evcfg n) with
    | none => s
    | some w => s.add { gang := true, due := ((g + 63) / w + 1) * w, rank := 1, slot := slot, row := r, core := c, part := .core
                        work := .ev (.eventCounterWindow n) }) s) s
  if s.rows[r].halted.isSome then
    s.add { gang := true, due := g, rank := 7, slot := slot
            work := .ev (.pointReport { kind := .halt, k := 0, rank := v.rank, row := i, gcc := g, arg := 0, enabled := true }) }
  else
    let s := s.add { gang := true, due := s.rows[r].slackAt + 4194304, rank := 4, slot := slot, row := r, part := .seq, work := .ev .slackStarvation }
    match v.kind, s.rows[r].region with
    | 2, some x => s.beginFetch slot r x.addr
    | _, _ =>
      let refs := (List.range (fieldOf bs 0x0E 1)).map fun j =>
        (fieldOf bs (0x480 + 16 * j) 4, fieldOf bs (0x484 + 16 * j) 1, moved d (fieldOf bs (0x488 + 16 * j) 8))
      s.refeed slot r refs (fieldOf bs 8 4)

/-- RESTORE_LAUNCH (R403). -/
def execRestoreLaunch (s : State) : Out :=
  .next (match s.pkg.engine with
    | none => s
    | some e => match e.place, e.job with
      | some (slot, first), .resume p =>
        let ctx := (s.stream e.strm).ctx
        match s.readContext ctx.podMap p.save with
        | none => s.refuse e.strm e.job { code := 0x20 }
        | some (v, m) =>
          let g := (s.dcc + 2 ^ 64 - (v.holds + v.slkr) % 2 ^ 64) % 2 ^ 64
          let d := (g + 64 + 2 ^ 64 - v.gstop % 2 ^ 64) % 2 ^ 64
          let plans := s.savedPlans v
          let runs := s.savedRuns v d
          let t : Task :=
            { live := true, gcc := g, launch := s.dcc, holds := v.holds, slkr := v.slkr, shiftc := moved d v.shiftc
              taskid := v.taskid, rank := v.rank, members := v.members, gangTag := p.gangTag, strm := e.strm, report := p.report
              image := v.timg, ctx := ctx, pod0 := if v.rank = 0 then s.pkg.podSlot else Config.rank0Slot p.gangTag % 64
              firstRow := first, nrows := v.rows, llead := v.llead, holdLim := v.holdLim, routes := s.readRoutes ctx.rtAddr, lastFx := v.owdcc
              shapes := s.imageShapes v.timg m, lrecs := s.imageLrecs v.timg m, plans := plans
              records := Sparse.setMany {} [] (runs.filter fun x => plans.any fun q => q.index == x.1)
              runCount := Sparse.setMany 0 [] (runs.map fun x => (x.1, x.2.runs)) }
          let s := s.modTask slot fun _ => t
          (forEach (List.range v.rows) (State.restoreRow slot first d v m) s).freeEngine
      | _, _ => s)

/-! ## The grant (R384) -/

/-- Serve a request with the dispatch engine. -/
def State.serveJob (n : Nat) (j : EngJob) (s : State) : State :=
  match j with
  | .launch p => s.prepareLaunch { strm := n, job := j } p
  | .resume p => s.prepareResume { strm := n, job := j } p
  | .planld taskid plan report => s.loadPlan n taskid plan report
  | .hcopy src dst left bad => s.copySegment n src dst left bad

/-- DISPATCH_GRANT (R384): a job whose module no port reaches (R407) gives the engine back and asks again. -/
def execDispatchGrant (s : State) : Out :=
  .next (if s.pkg.engine.isSome then s
    else match s.grant with
      | none => s
      | some (s, n, j) =>
        if s.jobCut n j then (s.modPkg fun p => { p with reqs := p.reqs ++ [(n, j)] }).kickEngine portWait else s.serveJob n j)

end Sys2Proof.Machine
end

