-- ==== Sys2Proof/Machine/Optics.lean ====
section
/-! DEFINITION. Optical memory ports, lasers, the domain and the scale-up ports (14_optics_fabric.md, R406 to R424). -/

namespace Sys2Proof.Machine

open Sys2Proof

/-! ## Places -/

/-- A laser. -/
def State.laser (s : State) (n : Nat) : Laser := Sparse.get {} s.pkg.lasers n

/-- Change a laser. -/
def State.modLaser (s : State) (n : Nat) (f : Laser → Laser) : State :=
  s.modPkg fun k => { k with lasers := Sparse.set {} k.lasers n (f (s.laser n)) }

/-- A ring of a memory port. -/
def MemPort.ring (p : MemPort) (n : Nat) : Ring := Sparse.get {} p.rings n

/-- Change a ring. -/
def MemPort.modRing (p : MemPort) (n : Nat) (f : Ring → Ring) : MemPort :=
  { p with rings := Sparse.set {} p.rings n (f (p.ring n)) }

/-! ## Colours, lanes and slots (R407 to R409) -/

/-- The band of a port toward module `m` from pod slot `i` (R407). -/
def bandOf (i m : Nat) : Nat := (m % 64 + 64 - i % 64) % 64

/-- The data colour of a band colour, and a band's control colour (R407). -/
def dataColour (band k : Nat) : Nat := band + 64 * k
def controlColour (band : Nat) : Nat := 512 + band

/-- The slot to which the pod's wavelength router sends a colour (R407). -/
def routerSlot (i colour : Nat) : Nat := (i + (if colour < 512 then colour else colour - 512)) % 64

/-- The cycles between two margin scans of a port (R413). -/
def scanPeriod : Nat := 2 ^ 20

/-- The lane that the digital rotator carries on a data ring (R409): none once the spare carries it. -/
def MemPort.laneOf (p : MemPort) (r : Nat) : Option Nat :=
  if r < 8 then if p.spared = r then none else some ((r + p.rot) % 8)
  else if r = 8 && p.spared < 8 then some ((p.spared + p.rot) % 8) else none

/-! ## The reference (R27, R416) -/

/-- A port that carries the reference: a live memory port that holds its control ring, or an optical scale-up port that is up (R27,
R416). Ports 384 and up stand for the scale-up ports. -/
def State.refPort (s : State) (n : Nat) : Bool :=
  if n < 384 then (s.port n).live && ((s.port n).ring 9).lock else suOptical (n - 384) && (s.suPort (n - 384)).up

/-- Some port carries a reference (R416). -/
def State.hasReference (s : State) : Bool := (List.range 528).any s.refPort

/-- The last control ring may be lost (R416). -/
def State.checkReference (s : State) : State :=
  if s.pkg.locked && !s.hasReference then s.add { gang := false, due := s.dcc, rank := 0, work := .ev .referenceLoss } else s

/-! ## Traffic of a port that goes down (R407, R411, R413) -/

/-- The module places of the bytes that a transfer carries between the package and a module: a command moves bytes inside its module. -/
def State.carried (s : State) (x : Xfer) : List (Nat × Nat) :=
  match x.kind with
  | .copy => []
  | .fill => []
  | .reduce => []
  | .mired => (x.rows.flatMap x.rowBytes).filterMap (s.locate x)
  | .maadd => (x.rows.flatMap x.rowBytes).filterMap (s.locate x)
  | _ => (List.range x.n).filterMap (s.located x)

/-- A sector of a transfer travels on a memory port now (R407): of a write any, of what a module sends only what it has read. -/
def State.travels (s : State) (port : Nat) (x : Xfer) : Bool :=
  (s.carried x).any fun (m, a) => (x.writes || !x.waits.contains m) && s.sectorPort m a == some port

/-- The cycle from which a transfer may lack bytes that are on their way (R32, R319, R335): a write that has issued, at its effect; what
lands, from the first cycle whose last call is still to come, since bytes before it have come or are marked. None where nothing is
on its way any more. -/
def State.needed (s : State) (slot : Slot) (x : Xfer) : Option Nat :=
  let t := (s.taskAt slot)
  if x.writes then (if decide (x.g < t.gcc) && decide (t.gcc ≤ x.wcc) && !x.waits.isEmpty then some x.wcc else none)
  else
    let c := max (x.wcc - ceilDiv x.n x.s) (s.holdPoint slot)
    if c < x.wcc then some c else none

/-- The traffic that still uses a memory port: slot and mark. Which flits the port has delivered already is free: log entry 137. -/
def State.traffic (s : State) (port : Nat) : List (Slot × LateMark) :=
  (s.slots.filter fun t => (s.taskAt t).live).flatMap fun t =>
    ((s.taskAt t).xfers.filter (({ s with cur := { s.cur with slot := t } } : State).travels port)).filterMap fun x =>
      if Config.openField 0x407 x.id s.dcc % 2 = 0 then none else (s.needed t x).map fun c => (t, ⟨x.id, c, none⟩)

/-- A memory port goes down: its list of ports forms again without it (R407). -/
def MemPort.down (p : MemPort) : MemPort := { p with live := false, tuning := none, mover := none, inPlace := [], waiting := [] }

/-- A live port carries nothing any more (R407, R411, R413): what still used it is late until it has come on another port, and no bound
is reported for it. -/
def State.takeDown (s : State) (port : Nat) (f : MemPort → MemPort) : State :=
  if !(s.port port).live then s.modPort port f
  else
    let late := s.traffic port
    (forEach late (fun x s => inSlot x.1 (fun s => s.boundReport x.2) s) (s.modPort port f)).checkReference

/-- A live port is reported down (R413). -/
def State.portDown (s : State) (port : Nat) : State :=
  if (s.port port).live then (s.takeDown port MemPort.down).pkgEvent 0x85 port none else s

/-- A port toward a module is live again (R407): schedules that stalled for want of one go on (R335). -/
def State.portBack (s : State) (m : Nat) : State :=
  forEach (s.slots.filter fun t => (s.taskAt t).live && ((s.taskAt t).stallAt m).isSome) (fun t s => inSlot t (fun s => s.arrived (portMark m)) s) s

/-! ## Bring-up (R411) -/

/-- A bring-up step begins, or is refused with FAIL; in safe function the write is ignored (R427). -/
def State.mpStep (s : State) (port step : Nat) (f : MemPort → MemPort) : State :=
  let p := s.port port
  if p.absent || !s.pkg.boot.full then s
  else if (step ≠ 1 && step ≠ p.done + 1) || !p.en || !(s.laser (port / 32)).ok then s.modPort port fun p => { p with fail := true }
  else s.takeDown port fun p => f { p with busy := some step, fail := false }

/-- MP_COARSE_TUNE (R411): FAILED, LOCKED, SPLK, CTLK, ROTV and SPARED are cleared, so a live port is live no more. -/
def execMpCoarseTune (port : Nat) (s : State) : Out :=
  .next (s.mpStep port 1 fun p => { p.down with
    rotv := false, spared := 0xF
    rings := (List.range 10).foldl (fun m n => Sparse.set {} m n { p.ring n with lock := false, failed := false, crc := [] }) p.rings })

/-- MP_LOCK (R411). -/
def execMpLock (port : Nat) (s : State) : Out := .next (s.mpStep port 2 id)

/-- MP_ROTATION (R411). -/
def execMpRotation (port : Nat) (s : State) : Out := .next (s.mpStep port 3 id)

/-- MP_EYE_TRAINING (R411). -/
def execMpEyeTraining (port : Nat) (s : State) : Out := .next (s.mpStep port 4 id)

/-- MP_GO_LIVE (R411). -/
def execMpGoLive (port : Nat) (s : State) : Out := .next (s.mpStep port 5 id)

/-- The data rings that carry a lane (R409). -/
def MemPort.carriers (p : MemPort) : List Nat := (List.range 9).filter fun r => (p.laneOf r).isSome

/-- The lanes that the port carries: eight before it goes live (R411). -/
def MemPort.lanes (p : MemPort) : Nat := (p.carriers.filter fun r => (p.ring r).lock).length

/-- Data rings fail lock or training: exactly one is replaced by the spare where AUTO = 1, the spare is free and it holds
(R411). -/
def MemPort.lose (p : MemPort) (bad : List Nat) (spareOk : Bool) : MemPort :=
  let p := bad.foldl (fun p r => p.modRing r fun k => { k with lock := false, failed := true }) p
  match bad with
  | [r] =>
    if p.auto && p.spared = 0xF && r < 8 && spareOk then
      { (p.modRing 8 fun k => { k with lock := true }) with spared := r, sparings := min (p.sparings + 1) 0xFFFF }
    else p
  | _ => p

/-- A flag of a report about a ring. -/
def ringOk (r : RingReport) (n : Nat) : Bool := r.ok.getD n false

/-- The eye of a ring is wide enough in training (R411). -/
def eyeWide (r : RingReport) (n : Nat) : Bool :=
  ringOk r n && decide (0x100 ≤ r.eyeH.getD n 0) && decide (0x180 ≤ r.eyeW.getD n 0)

/-- What a bring-up step leaves, and whether it passes (R411). A step 010 that is tried again locks every ring anew; FAILED stays until
step 001. With step 101 the flits are numbered anew, so the numbers of those whose CRC failed are forgotten. -/
def MemPort.finish (p : MemPort) (step : Nat) (r : RingReport) : MemPort × Bool :=
  match step with
  | 1 => ((List.range 10).foldl (fun p n => p.modRing n fun k => { k with heat := min (r.heat.getD n 0) 0xFFF }) p,
      (List.range 10).all (ringOk r))
  | 2 =>
    let p := { (p.modRing 8 fun k => { k with lock := false }) with spared := 0xF }
    let p := [0, 1, 2, 3, 4, 5, 6, 7, 9].foldl (fun p n => p.modRing n fun k => { k with lock := ringOk r n, failed := k.failed || !ringOk r n }) p
    let p := (List.range 10).foldl (fun p n => p.modRing n fun k => { k with heat := min (r.heat.getD n k.heat) 0xFFF }) p
    let p := p.lose ((List.range 8).filter fun n => !ringOk r n) (ringOk r 8)
    (p, decide (p.lanes = 8) && (p.ring 9).lock)
  | 3 =>
    let good := p.carriers.all (ringOk r)
    (if good then { p with rot := r.rot % 8, rotv := true } else p, good)
  | 4 =>
    let p := (List.range 10).foldl (fun p n => p.modRing n fun k => { k with eyeH := r.eyeH.getD n k.eyeH % 65536, eyeW := r.eyeW.getD n k.eyeW % 65536 }) p
    let p := p.lose (p.carriers.filter fun n => !eyeWide r n) (eyeWide r 8)
    (p, decide (p.lanes = 8) && p.carriers.all (eyeWide r))
  | _ =>
    let good := ringOk r 9 && decide (p.lanes = 8)
    (if good then { p with live := true, rings := p.rings.map fun (n, k) => (n, { k with crc := [] }) } else p, good)

/-- MP_STEP_COMPLETE (R411): what the light shows decides; a port without light fails the step. A port that goes live has its margins
scanned from then on (R413). -/
def execMpStepComplete (port : Nat) (r : RingReport) (s : State) : Out :=
  .next (match (s.port port).busy with
    | none => s
    | some step =>
      let lit := (s.port port).en && (s.laser (port / 32)).ok
      let was := (s.port port).live
      let s := s.modPort port fun p =>
        let x := if lit then p.finish step r else (p, false)
        { x.1 with busy := none, done := if x.2 then step else x.1.done, fail := !x.2 }
      if (s.port port).live && !was then
        let s := { s with agenda := s.agenda.filter fun e => !(e.work == Work.cont (.marginScan port)) }
        (s.portBack (s.port port).md).addDomain (s.dcc + scanPeriod) 0 (.cont (.marginScan port))
      else s)

/-! ## Live ports (R411 to R413) -/

/-- MEMORY_PORT_DISABLE (R411): traffic that still uses the port becomes late; in safe function the write is ignored (R427). -/
def execMemoryPortDisable (port : Nat) (s : State) : Out :=
  .next (if s.pkg.boot.full then s.takeDown port fun p => { p.down with en := false } else s)

/-- The spare carries no lane and is asked for by none (R413). -/
def MemPort.spareFree (p : MemPort) : Bool := decide (p.spared = 0xF) && p.tuning.isNone && p.mover.isNone && !(p.ring 8).failed

/-- A lane begins to move to the spare (R410, R413). -/
def MemPort.toSpare (p : MemPort) (r : Nat) : MemPort := { p with tuning := some r, sparings := min (p.sparings + 1) 0xFFFF }

/-- A retraining finds the spare free and takes it, waits for it, or goes on in place (R413). -/
def MemPort.retrain (p : MemPort) (r : Nat) : MemPort :=
  if p.spareFree then { p.toSpare r with mover := some r }
  else if r < 8 && (p.tuning.isSome || p.mover.isSome) then { p with waiting := p.waiting ++ [r] }
  else { p with inPlace := p.inPlace ++ [r] }

/-- Rings that wait for the spare are judged again (R413). -/
def MemPort.retryWaiting (p : MemPort) : MemPort := p.waiting.foldl MemPort.retrain { p with waiting := [] }

/-- Cycles by which an action with a bound has ended: at least one, at most `bound` (R413). -/
def State.withinBound (s : State) (key bound : Nat) : Nat := s.dcc + 1 + Config.within key s.dcc % bound

/-- What changed at a port has an end by its bound (R413): the spare that is being tuned is live within 16,384 cycles, a ring that retrains
in place is trained within 4,096, as is one whose lane the spare carries meanwhile. -/
def State.boundActions (port : Nat) (old : MemPort) (s : State) : State :=
  let p := s.port port
  let s := if p.tuning.isSome && p.tuning != old.tuning then s.addDomain (s.withinBound 0x413 16384) 0 (.cont (.spareLive port)) else s
  let rs := (p.inPlace.filter fun r => !old.inPlace.contains r) ++ match p.mover with
    | some r => if p.spared = r && old.spared ≠ r then [r] else []
    | none => []
  forEach rs (fun r s => s.addDomain (s.withinBound 0x41D 4096) 0 (.cont (.retrained port r))) s

/-- Change a memory port in service: actions that begin have their ends put on the agenda. -/
def State.service (s : State) (port : Nat) (f : MemPort → MemPort) : State := (s.modPort port f).boundActions port (s.port port)

/-- A ring that carries a lane fails (R413): the flits that no acknowledgement covers are replayed, and MPCNT.REPLAYS counts them (R410,
R412). How many flits are on their way is left open: log entry 160. -/
def State.replayAll (s : State) (port : Nat) : State :=
  s.modPort port fun p => { p with replays := min (p.replays + Config.openField 0x413 port s.dcc) 0xFFFFFFFF }

/-- A data ring fails service (R413): the spare takes its lane, or the port goes down where it can no longer carry seven
lanes. `asked` is a FORCE. -/
def State.dataRingFails (s : State) (port r : Nat) (asked : Bool) : State :=
  let p := s.port port
  let fail := fun (p : MemPort) => p.modRing r fun k => { k with failed := true, lock := false }
  if p.spared = r then (if p.mover = some r then s.service port fun p => { fail p with mover := none }.retryWaiting else s)
  else
    let other := ((List.range 8).any fun n => n != r && !(p.ring n).lock && p.spared != n) || p.inPlace.any fun n => decide (n < 9) && n != r
    if p.tuning = some r && p.mover = some r then (s.service port fun p => { fail p with mover := none }).replayAll port
    else if other || (p.tuning.isSome && p.tuning ≠ some r) || decide (p.spared < 8) then (s.modPort port fail).portDown port
    else if (p.auto || asked) && p.spareFree then (s.service port fun p => (fail p).toSpare r).replayAll port
    else (s.modPort port fail).replayAll port

/-- The spare ring fails (R413): the port goes down where the lane it carries or awaits has no other ring. -/
def State.spareFails (s : State) (port : Nat) : State :=
  let p := s.port port
  let fail := fun (p : MemPort) => p.modRing 8 fun k => { k with failed := true, lock := false }
  match p.mover, p.tuning with
  | some r, some _ => s.service port fun p => { fail p with tuning := none, mover := none, inPlace := p.inPlace ++ [r] }.retryWaiting
  | none, none => let s := s.modPort port fail; if p.spared < 8 then s.portDown port else s
  | _, _ => (s.modPort port fail).portDown port

/-- The control ring of a live port loses lock (R413, R416): it retrains, and control traffic moves to the other ports. -/
def State.controlFails (s : State) (port : Nat) : State :=
  (s.service port fun p => { (p.modRing 9 fun k => { k with lock := false }) with
    inPlace := if p.inPlace.contains 9 then p.inPlace else p.inPlace ++ [9], retrains := min (p.retrains + 1) 0xFFFF }).checkReference

/-- What a live port still carries late is reported (R445): with the bound of the action while it stays up, with none once it is
down. -/
def State.reportLate (port : Nat) (late : List LateMark) (s : State) : State :=
  let up := (s.port port).live
  forEach late (fun l s => s.boundReport (if up then l else { l with bound := none })) s

/-- RING_LOCK_LOSS (R413). -/
def execRingLockLoss (port ring : Nat) (late : List LateMark) (s : State) : Out :=
  .next (if !(s.port port).live || 9 < ring then s
    else (if ring = 9 then s.controlFails port else if ring = 8 then s.spareFails port else s.dataRingFails port ring false).reportLate port late)

/-- MPSPARE_FORCE (R410, R413): as a failure of the ring named in RING, whatever AUTO says. -/
def execMpspareForce (port : Nat) (s : State) : Out :=
  .next (if (s.port port).live && decide ((s.port port).force < 8) then s.dataRingFails port (s.port port).force true else s)

/-- The spare carries the lane of the ring it was tuned for; a ring that retrains does so in place behind it (R413). -/
def State.spareLive (s : State) (port : Nat) : State :=
  match (s.port port).tuning with
  | none => s
  | some r =>
    s.service port fun p =>
      let p := { (p.modRing 8 fun k => { k with lock := true }) with spared := r, tuning := none }
      if p.mover.isSome then p else p.retryWaiting

/-- SPARE_LIVE (R413). -/
def execSpareLive (port : Nat) (s : State) : Out := .next (s.spareLive port)

/-- The eyes of a live port are read; a ring below the limits retrains (R413). -/
def State.scan (s : State) (port : Nat) (r : RingReport) : State :=
  if !(s.port port).live then s
  else s.service port fun p =>
    let p := (List.range 10).foldl (fun p n => p.modRing n fun k => { k with eyeH := r.eyeH.getD n k.eyeH % 65536, eyeW := r.eyeW.getD n k.eyeW % 65536 }) p
    let low := p.carriers.filter fun n => (decide ((p.ring n).eyeH < 0x80) || decide ((p.ring n).eyeW < 0xC0))
      && p.mover != some n && !p.inPlace.contains n && !p.waiting.contains n && (p.ring n).lock
    low.foldl MemPort.retrain { p with retrains := min (p.retrains + low.length) 0xFFFF }

/-- MARGIN_SCAN (R413). -/
def execMarginScan (port : Nat) (r : RingReport) (s : State) : Out := .next (s.scan port r)

/-- The margin scan of a live port every 2^20 cycles (R413): what the rings show then is free. -/
def State.scanAgain (s : State) (port : Nat) : State :=
  if !(s.port port).live then s
  else
    let eyes := (List.range 10).map fun n => Config.eye port n s.dcc
    (s.scan port { ok := [], rot := 0, heat := [], eyeH := eyes.map Prod.fst, eyeW := eyes.map Prod.snd }).addDomain (s.dcc + scanPeriod) 0 (.cont (.marginScan port))

/-- A ring has retrained (R413): its lane returns and the spare becomes free. -/
def State.retrained (s : State) (port ring : Nat) : State :=
  s.service port fun p =>
    if p.mover = some ring && p.spared = ring then
      { ((p.modRing ring fun k => { k with lock := true }).modRing 8 fun k => { k with lock := false }) with
          mover := none, spared := 0xF }.retryWaiting
    else if p.inPlace.contains ring then
      { (p.modRing ring fun k => { k with lock := true }) with inPlace := p.inPlace.erase ring }
    else p

/-- LANE_RETRAINING_COMPLETE (R413). -/
def execLaneRetrainingComplete (port ring : Nat) (s : State) : Out := .next (s.retrained port ring)

/-- The CRC failures of a flit, one for each time it came, are counted at the ring it came on (R412, R413): more than 16 in 2^16 flits, and
the ring fails service. -/
def State.countCrc (s : State) (port ring flit fails : Nat) : State :=
  let recent := List.replicate fails flit ++ ((s.port port).ring ring).crc.filter fun n => decide (flit < n + 65536)
  let s := s.modPort port fun p => p.modRing ring fun k => { k with crc := recent }
  if 16 < recent.length && (s.port port).live && decide (ring < 9) then
    let s := s.modPort port fun p => p.modRing ring fun k => { k with crc := [] }
    if ring = 8 then s.spareFails port else s.dataRingFails port ring false
  else s

/-- The transit poison of a flit in work that is on its way (R412, R320): a transfer's bytes, a piece of a put or a beat. -/
def poisonFlit (id ofs : Nat) (e : Entry) : Entry :=
  match e.work with
  | .ev (.putPieceDelivery x) =>
    if x.id = id then { e with work := .ev (.putPieceDelivery { x with poison := (x.poison ++ (List.range 8).map (ofs / 8 + ·)).eraseDups }) } else e
  | .ev (.beatLanding m) =>
    if m.id = id then { e with work := .ev (.beatLanding { m with beat := { m.beat with poison := List.range 8 } }) } else e
  | _ => e

/-- FLIT_CRC_FAILURE (R412, R413, R419, R424): each failure but the last of five costs a replay; a flit that fails four replays is
delivered poisoned. Ports 384 and up stand for the scale-up ports, which
send the flit again as it was sealed where it is one of their own. -/
def execFlitCrcFailure (place : FlitPlace) (fails : Nat) (late : List LateMark) (flits : List (Nat × Nat)) (s : State) : Out :=
  let port := place.port
  let n := min fails 4
  let s := if port < 384 then (s.modPort port fun p => { p with replays := min (p.replays + n) 0xFFFFFFFF }).countCrc port place.ring place.flit (min fails 5)
    else forEach flits (fun x s => s.resend (port - 384) x.1 x.2) (s.modSu (port - 384) fun p => { p with replays := min (p.replays + n) 0xFFFFFFFF })
  let s := forEach late State.boundReport s
  .next (if fails ≤ 4 then s
    else forEach flits (fun x s =>
      let s := s.hereTask fun t => { t with
        xfers := t.xfers.map fun k => if k.id = x.1 then { k with traPsn := k.traPsn ++ (List.range 64).map (x.2 + ·) } else k }
      { s with agenda := s.agenda.map (poisonFlit x.1 x.2) }) s)

/-! ## Lasers (R414) -/

/-- DRIFT of a laser (R414): what a quotient above the field reads as is left open. -/
def Laser.driftOf (l : Laser) (n dcc : Nat) : Nat :=
  if l.bias0 = 0 || l.bias < l.bias0 then 0
  else
    let d := 1024 * (l.bias - l.bias0) / l.bias0
    if d < 65536 then d else Config.openField 0x416 n dcc % 65536

/-- A laser's drift is taken anew: WARN and EOL follow it and are raised as events when they set (R414). -/
def State.setDrift (s : State) (n : Nat) : State :=
  let l := s.laser n
  let d := l.driftOf n s.dcc
  let s := s.modLaser n fun l => { l with drift := d, warn := decide (205 ≤ d), eol := decide (512 ≤ d) }
  let s := if !l.warn && decide (205 ≤ d) then s.pkgEvent 0x82 n none else s
  if !l.eol && decide (512 ≤ d) then s.pkgEvent 0x83 n none else s

/-- The combs of a laser fail: OK clears and its 32 ports go down at once (R414). -/
def State.laserDark (s : State) (n : Nat) : State :=
  forEach (List.range 32) (fun i s => s.portDown (32 * n + i)) (s.modLaser n fun l => { l with ok := false })

/-- LASER_ENABLE (R414, R427). -/
def execLaserEnable (n : Nat) (on : Bool) (s : State) : Out :=
  .next (if !s.pkg.boot.full then s
    else
      let s := s.modLaser n fun l => { l with en := on }
      if on then s else s.laserDark n)

/-- LASER_OK (R414): the comb is within power; what bias that first takes is left open. -/
def execLaserOk (n : Nat) (s : State) : Out :=
  .next (if (s.laser n).en then
    (s.modLaser n fun l => { l with
      ok := true
      bias := if l.bias = 0 then Config.openField 0x414 n s.dcc % 65536 else l.bias
      pwr := BitVec.ofNat 16 (Config.openField 0x415 n s.dcc) }).setDrift n
    else s)

/-- The servo may raise the bias: 2^24 cycles have passed since its last step (R414). -/
def Laser.mayStep (l : Laser) (dcc : Nat) : Bool := l.stepAt.all fun d => decide (d + 2 ^ 24 ≤ dcc)

/-- BIAS_SERVO_STEP (R414): the bias rises by at most one unit of 0.1 mA in 2^24 cycles. -/
def execBiasServoStep (n bias : Nat) (pwr : BitVec 16) (s : State) : Out :=
  .next ((s.modLaser n fun l =>
    let l := { l with pwr := pwr }
    if bias = l.bias + 1 && bias < 65536 && l.mayStep s.dcc then { l with bias := bias, stepAt := some s.dcc } else l).setDrift n)

/-- LASER_FAILURE (R414). -/
def execLaserFailure (n : Nat) (s : State) : Out := .next (s.laserDark n)

/-! ## The domain (R415 to R417) -/

/-- Some task runs on the package, or has far-memory writes that are still pending at a module: log entry 134. -/
def State.anyTask (s : State) : Bool := s.taskList.any (·.live)

/-- JOIN (R416, R427): the package takes the domain's DCC from the reference frame that a port brings (DCC of sending, delay), and what
is due at a DCC keeps its distance. A port whose far end is no member of the domain brings none. -/
def execJoin (node port : Nat) (frame : Option (Nat × Nat)) (s : State) : Out :=
  .next (if s.anyTask || !s.pkg.boot.full then s
    else match frame with
      | none => s
      | some (sent, delay) =>
        if !s.refPort port then s
        else
          let d := sent + delay
          { (s.modPkg fun p => { p with nodeCtl := node % 8192, node := node % 8192, locked := true, member := true }) with
            dcc := d
            agenda := s.agenda.map fun e => if e.gang then e else { e with due := e.due + d - s.dcc } })

/-- LEAVE (R416, R417, R427): the clock stays locked; only the loss of every control ring clears LOCK. -/
def execLeave (s : State) : Out :=
  .next (if s.anyTask || !s.pkg.boot.full then s else s.modPkg fun p => { p with member := false })

/-- REFERENCE_LOSS (R416). -/
def execReferenceLoss (s : State) : Out :=
  .next (if !s.pkg.locked || s.hasReference then s
    else forEach (s.slots.filter fun t => (s.taskAt t).live && (s.taskAt t).ending.isNone && (s.taskAt t).ghost.isNone) (fun t s => s.announceStop t 0x11)
      (s.modPkg fun p => { p with locked := false }))

/-! ## Scale-up ports (R418 to R424) -/

/-- The exchange die of a scale-up port (R418). -/
def suDie (p : Nat) : Nat := p / 72

/-- The cycles of an identity frame's period (R421). -/
def identityPeriod : Nat := 2 ^ 24

/-- The port goes down: its peer is seen no more. -/
def SuPort.down (p : SuPort) : SuPort := { p with up := false, seen := false }

/-- The peer has acknowledged every flit under the transmitter's old key slot (R424). -/
def SuPort.releaseKey (p : SuPort) : SuPort := ({ p with buf := p.buf.filter fun f => f.slot == some p.txs } : SuPort).settle

/-- A scale-up port carries traffic no more (R419). -/
def State.suDown (s : State) (port : Nat) : State := (s.modSu port SuPort.down).checkReference

/-- SCALE_UP_ENABLE (R419, R427): a port whose EN clears carries no traffic. -/
def execScaleUpEnable (port : Nat) (on : Bool) (s : State) : Out :=
  .next (if !s.pkg.boot.full then s
    else if on then s.modSu port fun p => { p with en := true }
    else (s.suDown port).modSu port fun p => { p with en := false, qsd := false })

/-- QUIESCE_REQUEST (R420, R427): the port keeps sending until its replay buffer is acknowledged; clearing QREQ lets it train. -/
def execQuiesceRequest (port : Nat) (on : Bool) (s : State) : Out :=
  .next (if !s.pkg.boot.full then s
    else if on then
    if (s.suPort port).qreq then s
    else ((s.modSu port fun p => { p with qreq := true }).add
      { gang := false, due := s.dcc + Config.within 0x420 s.dcc, rank := 0, work := .ev (.quiesceComplete port) })
    else s.modSu port fun p => { p with qreq := false, qsd := false })

/-- QUIESCE_COMPLETE (R420): a quiesce drains the replay buffer, so a key rollover ends with it (R424). -/
def execQuiesceComplete (port : Nat) (s : State) : Out :=
  .next (if (s.suPort port).qreq then (s.modSu port fun p => { p.down.releaseKey with qsd := true, buf := [] }).checkReference else s)

/-- The put pieces and beats on the agenda that have come over a scale-up port: slot, number and delivery cycle. -/
def State.cameOver (s : State) (port : Nat) : List (Slot × Nat × Nat) :=
  s.agenda.filterMap fun e => match e.work with
    | .ev (.putPieceDelivery p) => if e.gang && p.via.any fun v => v.1 == port then some (e.slot, p.id, e.due) else none
    | .ev (.beatLanding m) => if e.gang && m.via.any fun v => v.1 == port then some (e.slot, m.id, e.due) else none
    | _ => none

/-- A port is quarantined (R421): what has come over it is kept, so it is late and its path reports no bound (R422, R445). -/
def State.quarantine (q : Nat) (s : State) : State :=
  if (s.suPort q).quar then s
  else
    let s := (s.modSu q fun p => { p with quar := true }).pkgEvent 0x84 q none
    forEach (s.cameOver q) (fun (slot, id, due) s => inSlot slot (fun s => s.boundReport ⟨id, due, none⟩) s) s

/-- A quarantine ends (R421): what the port has kept is delivered. -/
def State.unquarantine (q : Nat) (s : State) : State :=
  forEach (s.cameOver q) (fun (slot, id, _) s => inSlot slot (fun s => s.arrived id) s) (s.modSu q fun p => { p with quar := false })

/-- The other ports of the exchange die that are up and show a node number with another serial (R421). -/
def State.conflictsAt (s : State) (port serial node : Nat) : List Nat :=
  (List.range 144).filter fun q => q != port && suDie q == suDie port && (s.suPort q).up && (s.suPort q).seen
    && (s.suPort q).pnode == node % 8192 && (s.suPort q).serial != serial % 2 ^ 64

/-- What a frame from a peer shows (R421): one node number with two serials on one exchange die quarantines both ports, before anything
that waits for the port goes out (R425); a quarantined port whose peer's node number changes to one without a conflict is free again. -/
def State.seeFrame (s : State) (port serial node pport : Nat) : State :=
  let old := s.suPort port
  let news := !old.seen || old.serial != serial % 2 ^ 64 || old.pnode != node % 8192
  let freed := old.quar && old.pnode != node % 8192
  let s := s.modSu port fun p => { p with serial := serial % 2 ^ 64, pnode := node % 8192, pport := pport % 256, seen := true }
  let qs := if news && (s.suPort port).up then s.conflictsAt port serial node else []
  if !qs.isEmpty then forEach (port :: qs) State.quarantine (if freed then s.pkgEvent 0x84 port none else s)
  else (if freed then s.unquarantine port else s).flushPort port

/-- IDENTITY_FRAME (R421): while the port is up it sends its frame again and again. -/
def execIdentityFrame (port : Nat) (s : State) : Out :=
  .next (if (s.suPort port).up then
    (s.send (.note 0x21 [port, Config.serial.toNat, s.pkg.node])).add
      { gang := false, due := s.dcc + identityPeriod, rank := 0, work := .ev (.identityFrame port) }
    else s)

/-- IDENTITY_FRAME_RECEIPT (R421). -/
def execIdentityFrameReceipt (port serial node pport : Nat) (s : State) : Out := .next (s.seeFrame port serial node pport)

/-- PORT_TRAINING_COMPLETE (R28, R419, R420): LFLT is the measured time in steps of 64 cycles, and an optical port too far away stays down. What
waits for the port goes out once it is up. -/
def execPortTrainingComplete (port lflt serial node pport : Nat) (s : State) : Out :=
  let p := s.suPort port
  .next (if !p.en || p.qreq then s
    else
      let lflt := 64 * ceilDiv lflt 64
      let far := suOptical port && decide (16384 < lflt + 256)
      let s := s.modSu port fun p => { p with
        lflt := if !suOptical port then 0x60 else if far then 0xFFFF else lflt, up := !far, qsd := false, seen := false }
      let s := s.seeFrame port serial node pport
      if far then s
      else
        let s := { s with agenda := s.agenda.filter fun e => !(e.work == Work.ev (.identityFrame port)) }
        (s.flushPort port).add { gang := false, due := s.dcc, rank := 0, work := .ev (.identityFrame port) })

/-- SCALE_UP_LANE_FAILURE (R419): an optical port has one spare lane. -/
def execScaleUpLaneFailure (port : Nat) (s : State) : Out :=
  let p := s.suPort port
  .next (if suOptical port && !p.spl then s.modSu port fun p => { p with spl := true }
    else if p.up then (s.suDown port).pkgEvent 0x85 port none else s)

/-- NBIND_GO (R421, R427): what waits for a port that is free again goes out. -/
def execNbindGo (s : State) : Out :=
  .next (if !s.pkg.boot.full then s
    else forEach (List.range 144) (fun q s =>
      if (s.suPort q).quar && (s.suPort q).serial == s.pkg.nbSer.toNat && (s.suPort q).pnode == s.pkg.nbNode then
        (s.unquarantine q).flushPort q else s) s)

/-- KEY_SWITCH (R419, R424): new flits go under the other slot, which holds a key; the old one stays while the replay buffer holds a flit
under it. -/
def execKeySwitch (port : Nat) (s : State) : Out :=
  .next (if suEncrypted port && Sparse.get false (s.suPort port).valid (1 - (s.suPort port).txs) then
    (s.modSu port fun p => ({ p with txs := 1 - p.txs, old := true } : SuPort).settle).flushPort port else s)

/-- KEY_RELEASE (R424): the peer has acknowledged every flit under the old slot; or, with a slot, the peer's transmitter has released it,
and the receiver here clears it. -/
def execKeyRelease (key : Nat × Option Nat) (s : State) : Out :=
  .next (s.modSu key.1 fun p => match key.2 with
    | none => p.releaseKey
    | some k => p.clearKey (2 + k % 2))

end Sys2Proof.Machine
end

