-- ==== Sys2Proof/Machine/Platform.lean ====
section
/-! DEFINITION. Start-up, retirement, attestation, management, the mailbox, health and the registers of BAR0
(15_platform.md, R426 to R443; R371, R406). -/

namespace Sys2Proof.Machine

open Sys2Proof

/-! ## Register values -/

/-- A word with fields (low bit, value). -/
def fields (fs : List (Nat × Nat)) : Word := BitVec.ofNat 64 ((fs.map fun (o, x) => x * 2 ^ o).foldl (· + ·) 0)

/-- A flag as a field value. -/
def flag (b : Bool) : Nat := if b then 1 else 0

/-- BOOTREC (R428). -/
def BootRec.word (b : BootRec) : Word :=
  fields [(63, flag b.full), (56, b.stage), (48, b.failed), (44, b.lrows), (32, b.rgap), (24, b.prrow), (16, b.splost), (8, b.rstcause), (0, b.code)]

/-- RETn (R430). -/
def Retire.word (r : Retire) : Word :=
  fields [(63, flag r.rowret), (62, flag r.seqf), (61, flag r.splost), (60, flag r.pendv), (56, r.pcol), (52, r.pendcol)]

/-- The registers of a stream (R371). -/
def Stream.reg (k : Stream) (o : Nat) : Word :=
  match o with
  | 0x00 => BitVec.ofNat 64 k.base
  | 0x08 => fields [(63, flag k.en), (56, k.prio), (0, k.log2)]
  | 0x10 => BitVec.ofNat 64 k.head
  | 0x18 => BitVec.ofNat 64 k.tail
  | 0x20 => fields [(63, flag k.err), (48, k.code), (0, k.pos)]
  | _ => 0

/-- RINGn (R410). -/
def Ring.word (k : Ring) : Word := fields [(63, flag k.lock), (62, flag k.failed), (32, k.heat), (16, k.eyeH), (0, k.eyeW)]

/-- The registers of a memory port (R410). -/
def MemPort.reg (p : MemPort) (o : Nat) : Word :=
  match o with
  | 0x00 => fields [(63, flag p.en), (59, p.step), (42, p.md)]
  | 0x08 =>
    let locked := ((List.range 8).map fun n => flag (p.ring n).lock * 2 ^ n).foldl (· + ·) 0
    fields [(63, flag p.live), (62, flag p.busy.isSome), (59, p.done), (58, flag p.fail), (50, locked), (49, flag (p.ring 8).lock),
      (48, flag (p.ring 9).lock), (45, p.rot), (44, flag p.rotv), (40, p.spared)]
  | 0x60 => fields [(63, flag p.auto), (0, p.force)]
  | 0x68 => fields [(48, p.retrains), (32, p.sparings), (0, p.replays)]
  | _ => if 0x10 ≤ o && o < 0x60 then (p.ring ((o - 0x10) / 8)).word else 0

/-- The registers of a scale-up port (R419). -/
def SuPort.reg (p : SuPort) (n o : Nat) : Word :=
  match o with
  | 0x00 => fields [(63, flag p.en), (62, flag p.qreq)]
  | 0x08 => fields [(63, flag p.up), (62, flag p.qsd), (61, flag p.quar), (60, flag (suEncrypted n)), (59, flag (suOptical n)), (58, flag p.spl), (32, p.lflt)]
  | 0x10 => BitVec.ofNat 64 p.serial
  | 0x18 => fields [(16, p.pnode), (0, p.pport)]
  | 0x20 => fields [(63, p.txs), (62, flag (Sparse.get false p.valid 1)), (61, flag (Sparse.get false p.valid 0)), (60, flag p.old)]
  | _ => 0

/-- The registers of a laser (R414). -/
def Laser.reg (l : Laser) (o : Nat) : Word :=
  match o with
  | 0x00 => fields [(63, flag l.en)]
  | 0x08 => fields [(63, flag l.ok), (62, flag l.warn), (61, flag l.eol), (0, l.hours)]
  | 0x10 => fields [(48, l.bias0), (32, l.bias), (16, l.pwr.toNat), (0, l.drift)]
  | _ => 0

/-- The mailbox registers of a row (R439): a read of DBGOUT without what it changes. -/
def Row.mailbox (r : Row) (o : Nat) : Word :=
  match o with
  | 0x08 => if r.dbgst.getLsbD 1 then r.dbgout else 0
  | 0x10 => r.dbgst
  | _ => 0

/-- A row of the package by number. -/
def rowIx (n : Nat) : Fin 8 := Fin.ofNat 8 n

/-- RETn. -/
def State.retReg (s : State) (n : Nat) : Retire := Sparse.get {} s.pkg.ret n

/-- Change RETn. -/
def State.modRetire (s : State) (n : Nat) (f : Retire → Retire) : State :=
  s.modPkg fun p => { p with ret := Sparse.set {} p.ret n (f (s.retReg n)) }

/-- The registers of the platform block (R428, R430, R436, R438, R440, R441). -/
def State.platformReg (s : State) (o : Nat) : Word :=
  let p := s.pkg
  if o = 0 then p.boot.word
  else if 0x100 ≤ o && o < 0x140 then (s.retReg ((o - 0x100) / 8)).word
  else if 0x1000 ≤ o && o < 0x1240 then Sparse.get 0 p.hcorr ((o - 0x1000) / 8)
  else if 0x1400 ≤ o && o < 0x1410 then Sparse.get 0 p.hcorr (128 + (o - 0x1400) / 8)
  else if o = 0x1800 then p.peol
  else if o = 0x2000 then BitVec.ofNat 64 p.evqBase
  else if o = 0x2008 then p.evqCtl
  else if o = 0x2010 then BitVec.ofNat 64 p.evqHead
  else if o = 0x2018 then BitVec.ofNat 64 p.evqTail
  else if o = 0x2020 then BitVec.ofNat 64 p.evqLost
  else if 0x3000 ≤ o && o < 0x3200 then Sparse.get 0 p.sassign ((o - 0x3000) / 8)
  else 0

/-- The registers of the domain block (R415). -/
def State.domainReg (s : State) (o : Nat) : Word :=
  let p := s.pkg
  match o with
  | 0x00 => BitVec.ofNat 64 p.nodeCtl
  | 0x08 => fields [(63, flag p.locked), (62, flag p.member), (16, p.podSlot), (0, p.node)]
  | 0x10 => BitVec.ofNat 64 p.nbNode
  | 0x18 => p.nbSer
  | _ => 0

/-- What a PF read of BAR0 returns, without what the read changes (R371, R406, R428 to R441). In safe function only the platform
block and the mailbox can be read (R427): what else reads as is left open. -/
def State.bar0 (s : State) (o : Nat) : Word :=
  if 0x400000 ≤ o && o < 0x800000 then s.platformReg (o - 0x400000)
  else if 0x20000 ≤ o && o < 0x20100 then s.rows[rowIx ((o - 0x20000) / 0x20)].mailbox (o % 0x20)
  else if !s.pkg.boot.full then BitVec.ofNat 64 (Config.openField 0x427 o s.dcc)
  else if o = 0 then fields [(0, s.pkg.credit), (8, s.pkg.walkTmo)]
  else if 0x10000 ≤ o && o < 0x11000 then (s.stream ((o - 0x10000) / 0x40)).reg (o % 0x40)
  else if 0x100000 ≤ o && o < 0x118000 then (s.port ((o - 0x100000) / 0x100)).reg (o % 0x100)
  else if 0x200000 ≤ o && o < 0x209000 then (s.suPort ((o - 0x200000) / 0x100)).reg ((o - 0x200000) / 0x100) (o % 0x100)
  else if 0x300000 ≤ o && o < 0x300300 then (s.laser ((o - 0x300000) / 0x40)).reg (o % 0x40)
  else if 0x301000 ≤ o && o < 0x301020 then s.domainReg (o - 0x301000)
  else 0

/-- A function sees the registers of a stream (R435, R436): the PF sees every one, a VF those assigned to it. -/
def State.sees (s : State) (fn n : Nat) : Bool :=
  fn == 0 || (let w := Sparse.get 0 s.pkg.sassign n; w.getLsbD 63 && bitsOf w.toNat 0 5 == fn)

/-- What a read of a function's BAR0 returns (R435): a VF has 128 KiB, in which the offsets of streams not assigned to it read zero. -/
def State.readBy (s : State) (fn o : Nat) : Word :=
  if fn = 0 then s.bar0 o
  else if s.pkg.boot.full && 0x10000 ≤ o && o < 0x11000 && s.sees fn ((o - 0x10000) / 0x40) then s.bar0 o
  else 0

/-! ## Staged start (R426 to R430) -/

/-- The retirement list after new failures are added (R429): entries are never removed. -/
def addFlash (old new : List (Nat × Nat)) : List (Nat × Nat) := old ++ (new.filter fun x => !old.contains x).eraseDups

/-- RETn from the retirement list (R429, R430). -/
def retireOf (flash : List (Nat × Nat)) (row : Nat) : Retire :=
  let cols := (List.range 9).filter fun c => flash.contains (row, c)
  let seqf := flash.contains (row, 9)
  { rowret := seqf || flash.contains (row, 15) || decide (2 ≤ cols.length), seqf := seqf, splost := cols.contains 8
    pcol := match cols with
      | [c] => if c < 8 then c else 0xF
      | _ => 0xF }

/-- The physical rows that are not retired, from north to south (R16). -/
def liveRows (flash : List (Nat × Nat)) : List Nat := (List.range 8).filter fun r => !(retireOf flash r).rowret

/-- The logical rows of the package (R13, R16). -/
def bootRow (flash : List (Nat × Nat)) (i : Nat) : Row :=
  let rs := liveRows flash
  { present := decide (i < rs.length), prow := rs.getD i i
    gapBelow := decide (i + 1 < rs.length) && decide (rs.getD i i + 2 < rs.getD (i + 1) (i + 1)) }

/-- A logical core of the package (R13). -/
def bootCore (flash : List (Nat × Nat)) (i c : Nat) : Core :=
  { pcol := if c < (retireOf flash ((liveRows flash).getD i i)).pcol then c else c + 1 }

/-- The sum of the bits named. -/
def bitSet (p : Nat → Bool) (n : Nat) : Nat := ((List.range n).map fun i => flag (p i) * 2 ^ i).foldl (· + ·) 0

/-- The bytes of a copy are signed with the fused key (R431): those of the maker's image are. -/
def fwSigned (data : Memory) : Bool := decide (data = Config.fwImage) || (Config.fwKeyHash data == Config.digest 1 && Config.fwSigned data)

/-- Stage 2 and a load's end accept a copy (R431): its public key, its signature and its SVN, all read from its bytes. -/
def verifies (fused : Nat) (c : FwCopy) : Bool := fwSigned c.data && decide (fused ≤ Config.fwSvn c.data)

/-- The firmware copy that stage 2 starts (R431): true for copy B. A copy marked invalid is none (R437). -/
def pickCopy (fused : Nat) (cs : FwCopy × FwCopy) : Option Bool :=
  let a := cs.1.valid && verifies fused cs.1
  let b := cs.2.valid && verifies fused cs.2
  if a && b then some (decide (Config.fwSvn cs.1.data < Config.fwSvn cs.2.data)) else if a then some false else if b then some true else none

/-- What a reset leaves before its stages (R8): memory outside the package and what has left it, the flash and what firmware keeps there,
and the fuses stay. -/
def State.afterReset (s : State) : State :=
  { State.reset with
    host := s.host, modMem := s.modMem, modCls := s.modCls, sent := s.sent, next := s.next
    pkg := { ({} : Pkg) with
      flash := s.pkg.flash, copies := s.pkg.copies, fusedSvn := s.pkg.fusedSvn, sparesUsed := s.pkg.sparesUsed
      repairsUsed := s.pkg.repairsUsed, offline := s.pkg.offline, wear := s.pkg.wear, hostBad := s.pkg.hostBad, raised := s.pkg.raised
      boot := { full := false, stage := 0, lrows := 0 } } }

/-- Stages 2 to 7 (R426); `failed` holds the bits of stages that have failed so far. The lasers' hours and beginning-of-life bias come
from the firmware (R414); without a readable retirement list the mapping comes from the tests alone (R430). -/
def State.runStages (s : State) (cause failed : Nat) (r : StartReport) : State :=
  let boot : BootRec := { full := false, stage := 1, failed := failed, lrows := 0, rstcause := cause % 256 }
  let s := s.modPkg fun p => { p with started := none }
  let safe := fun (s : State) (b : BootRec) (code : Nat) =>
    let b := { b with failed := b.failed + 2 ^ code, code := code }
    s.modPkg fun p => { p with boot := b, measured := ((List.range 8).map fun n => (s.retReg n).word) ++ [b.word] }
  match pickCopy s.pkg.fusedSvn s.pkg.copies with
  | none => safe s boot 2
  | some runsB =>
    let s := s.modPkg fun p => { p with runsB := runsB }
    let s := forEach (List.range 12) (fun n s => s.modLaser n fun l => { l with hours := r.hours.getD n 0 % 2 ^ 32, bias0 := r.bias0.getD n 0 % 65536 }) s
    let bad4 := r.badCores4 ++ r.badSeqs.map fun n => (n, 9)
    let failures := addFlash r.badCores bad4
    let flash := addFlash (if r.listOk then s.pkg.flash else []) failures
    let rs := liveRows flash
    let boot := { boot with
      stage := if bad4.isEmpty then 4 else if r.badCores.isEmpty then 3 else 2
      failed := failed + (if r.badCores.isEmpty then 0 else 8) + (if bad4.isEmpty || rs.isEmpty then 0 else 16)
      lrows := rs.length
      rgap := bitSet (fun i => (bootRow flash i).gapBelow) 7
      prrow := bitSet (fun n => (retireOf flash n).rowret) 8
      splost := bitSet (fun n => (retireOf flash n).splost) 8 }
    let s := { s with rows := Vector.ofFn fun i => bootRow flash i.1, cores := Vector.ofFn fun i => Vector.ofFn fun c => bootCore flash i.1 c.1 }
    let s := s.modPkg fun p => { p with
      flash := addFlash p.flash failures, ret := (List.range 8).foldl (fun m n => Sparse.set {} m n (retireOf flash n)) [] }
    if rs.isEmpty then safe s { boot with stage := if r.badCores.isEmpty then 3 else 2 } 4
    else if !r.exchOk then safe s boot 5
    else
      let boot := { boot with stage := if r.badEngines.isEmpty then 6 else 5, failed := boot.failed + if r.badEngines.isEmpty then 0 else 64 }
      let s := forEach (List.range 384) (fun n s => if r.badEngines.contains (n / 32) then s.modPort n fun p => { p with absent := true } else s) s
      if !r.frontOk then safe s boot 7
      else
        let b := { boot with stage := 7, full := true }
        s.modPkg fun p => { p with boot := b, measured := ((List.range 8).map fun n => (s.retReg n).word) ++ [b.word] }

/-- A start (R426): without readable fuses the package stays in reset; without a PCIe link it waits for one. -/
def State.start (s : State) (cause : Nat) (r : StartReport) : State :=
  let s := s.afterReset
  let s := s.modPkg fun p => { p with podSlot := r.podSlot % 64, svnAtStart := p.fusedSvn }
  if !r.fusesOk then s.modPkg fun p => { p with boot := { p.boot with failed := 1, rstcause := cause % 256 } }
  else if !r.pcieOk then s.modPkg fun p => { p with started := some (cause, r), boot := { p.boot with failed := 2, rstcause := cause % 256 } }
  else s.runStages cause 0 r

/-- PACKAGE_RESET (R426): it ends every task without a report (R443). -/
def execPackageReset (cause : Nat) (r : StartReport) (s : State) : Out := .next (s.start cause r)

/-- PCIE_TRAINING_RETRY (R426). -/
def execPcieTrainingRetry (ok : Bool) (s : State) : Out :=
  .next (match s.pkg.started with
    | some (cause, r) => if ok then s.runStages cause 2 r else s
    | none => s)

/-! ## Retirement (R430) -/

/-- RETIREMENT_PENDING (R430): a write of RETn. -/
def execRetirementPending (row : Nat) (x : Word) (s : State) : Out :=
  let old := s.retReg row
  let col := bitsOf x.toNat 52 4
  let legal := decide (col ≤ 8) || decide (col = 15)
  .next (s.ifUp <| if !x.getLsbD 60 then
      if old.pendv && old.committed then s
      else s.modRetire row fun r => { r with pendv := false, pendcol := if legal then col else r.pendcol }
    else if !legal then (if old.pendv then s else s.modRetire row fun r => { r with pendv := false })
    else
      let waiting := old.pendv && !old.committed
      let s := s.modRetire row fun r => { r with pendv := true, pendcol := col, committed := false }
      if waiting then s
      else s.add { gang := false, due := s.dcc + Config.within 0x430 s.dcc % 125000001, rank := 0, work := .ev (.retirementCommit row) })

/-- RETIREMENT_COMMIT (R430). -/
def execRetirementCommit (row : Nat) (s : State) : Out :=
  let r := s.retReg row
  .next (if r.pendv && !r.committed then
    ((s.modPkg fun p => { p with flash := addFlash p.flash [(row, r.pendcol)] }).modRetire row fun r => { r with committed := true })
    else s)

/-! ## SPDM (R432, R433) -/

/-- A response to the management interface. -/
def State.answer (s : State) (code : Nat) (args : List Nat) : State := s.send (.note code args)

/-- The version of an SPDM request, which its entry says (R432). -/
def State.spdmVer (s : State) : Nat := s.arg 0 0x12

/-- A request under SPDM 1.2 or 1.3 is answered by `f`, any other version with ERROR UnsupportedRequest (R432); no request reaches a
package whose stage 1 has not passed (R426). -/
def State.spdm (s : State) (f : State → State) : State :=
  s.ifUp <| if s.spdmVer = 0x12 || s.spdmVer = 0x13 then f s else s.answer 0x4F []

/-- A response that ends with its signature (R432). -/
def State.signed (s : State) (code : Nat) (args : List Nat) : State := s.answer code (args ++ [Config.signature args])

/-- GET_VERSION (R432): 1.2 and 1.3. -/
def execGetVersion (s : State) : Out := .next (s.ifUp (s.answer 0x40 [0x12, 0x13]))

/-- GET_CAPABILITIES (R432): CERT, CHAL, MEAS with signature, KEY_EX, ENCRYPT and MAC, in this order. -/
def execGetCapabilities (s : State) : Out := .next (s.spdm fun s => s.answer 0x41 [1, 2, 3, 4, 5, 6])

/-- NEGOTIATE_ALGORITHMS (R432): base signature, base hash, measurement hash, DHE and AEAD are 1 to 5; any other algorithm is answered
with UnsupportedRequest. -/
def execNegotiateAlgorithms (offered : List Nat) (s : State) : Out :=
  .next (s.spdm fun s => if [1, 2, 3, 4, 5].all offered.contains then s.answer 0x42 [1, 2, 3, 4, 5] else s.answer 0x4F [])

/-- GET_DIGESTS (R432): slot 0 holds the chain. -/
def execGetDigests (s : State) : Out := .next (s.spdm fun s => s.answer 0x43 [0, (Config.digest 2).toNat])

/-- The chain of slot 0 (R432): the package serial, then each certificate with its length. -/
def certChain : List Nat :=
  Config.serial.toNat :: (List.range 3).flatMap fun i => (Config.certificate i).length :: (Config.certificate i).map fun (b : Byte) => b.toNat

/-- The answer of a certificate slot: only slot 0 holds a chain (R432). -/
def State.slotAnswer (s : State) (slot : Nat) (f : State → State) : State :=
  if slot = 0 then f s else s.answer 0x4E [Config.openField 0x432 slot s.dcc]

/-- GET_CERTIFICATE (R432). -/
def execGetCertificate (slot : Nat) (s : State) : Out :=
  .next (s.spdm fun s => s.slotAnswer slot fun s => s.answer 0x44 certChain)

/-- CHALLENGE (R432). -/
def execChallenge (slot : Nat) (s : State) : Out :=
  .next (s.spdm fun s => s.slotAnswer slot fun s => s.signed 0x45 [(Config.digest 2).toNat])

/-- The running firmware copy (R431): none in the safe function of stage 2. -/
def State.runningCopy (s : State) : Option FwCopy :=
  if s.pkg.boot.code = 2 then none else some (if s.pkg.runsB then s.pkg.copies.2 else s.pkg.copies.1)

/-- The last stage that the start has come to (R426). -/
def BootRec.reached (b : BootRec) : Nat := if b.code = 0 then 7 else b.code

/-- A measurement block (R433): none where its stage was not reached. -/
def State.measurement (s : State) (i : Nat) : Option (List Nat) :=
  let reached := s.pkg.boot.reached
  match i with
  | 1 => some [(Config.digest 0).toNat]
  | 2 => s.runningCopy.map fun c => [(Config.copyDigest c.data).toNat, Config.fwSvn c.data]
  | 3 => some [Config.serial.toNat, s.pkg.svnAtStart, (Config.digest 1).toNat]
  | 4 => if 4 ≤ reached then some ((s.pkg.measured.take 8).map (·.toNat)) else none
  | 5 => if 5 ≤ reached then some [Config.encPolicy.toNat] else none
  | 6 => some ((s.pkg.measured.drop 8).map (·.toNat))
  | _ => none

/-- GET_MEASUREMENTS (R433): one block, or every block for any index above 6; each block follows its index and length. -/
def execGetMeasurements (index : Nat) (signed : Bool) (s : State) : Out :=
  let is := if 1 ≤ index && index ≤ 6 then [index] else [1, 2, 3, 4, 5, 6]
  let blocks := is.flatMap fun i => match s.measurement i with
    | some xs => i :: xs.length :: xs
    | none => []
  .next (s.spdm fun s => if signed then s.signed 0x46 (1 :: blocks) else s.answer 0x46 (0 :: blocks))

/-- KEY_EXCHANGE (R432): it begins a secured session. -/
def execKeyExchange (slot : Nat) (s : State) : Out :=
  .next (s.spdm fun s => s.slotAnswer slot fun s =>
    (s.modPkg fun p => { p with session := .keyed }).signed 0x47 [(Config.digest 2).toNat])

/-- FINISH (R432). -/
def execFinish (verified : Bool) (s : State) : Out :=
  .next (s.spdm fun s =>
    if s.pkg.session = .keyed && verified then (s.modPkg fun p => { p with session := .secured }).answer 0x48 []
    else (s.modPkg fun p => { p with session := if p.session = .keyed then .none else p.session }).answer 0x4E [Config.openField 0x433 0 s.dcc])

/-- END_SESSION (R432). -/
def execEndSession (s : State) : Out :=
  .next (s.spdm fun s => if s.pkg.session = .secured then (s.modPkg fun p => { p with session := .none }).answer 0x49 []
    else s.answer 0x4E [Config.openField 0x434 0 s.dcc])

/-- A vendor response with its header (R437): CMD with bit 7 set, STATUS, SEQ, the reserved bytes, the payload. -/
def State.vendor (s : State) (cmd status seq : Nat) (payload : List Nat) : State := s.answer 0x7E ([cmd + 0x80, status, seq, 0] ++ payload)

/-- UNSUPPORTED_REQUEST (R432, R437): an SPDM request not listed, or a vendor request with an unknown CMD, whose entry says CMD and SEQ. -/
def execUnsupportedRequest (s : State) : Out :=
  .next (s.ifUp (match s.cur.args with
    | cmd :: seq :: _ => s.vendor (cmd % 128) 0x01 seq []
    | _ => s.answer 0x4F []))

/-- MCTP_CONTROL (R436): the specification gives the answer no content. -/
def execMctpControl (command : Nat) (s : State) : Out := .next (s.ifUp (s.answer 0x50 [command, Config.openField 0x436 command s.dcc]))

/-! ## Vendor messages (R437) -/

/-- The message came in a secured session (R432, R434, R437). -/
def State.secured (s : State) (q : VendorReq) : Bool := q.secured && s.pkg.session == .secured

/-- STATUS or a reserved byte of a request is not zero, or its payload has another length than its command's (R437). -/
def vendorBad (q : VendorReq) : Bool := decide (q.status ≠ 0) || decide (q.reserved ≠ 0) || decide (q.lenOff ≠ 0)

/-- The firmware copy that does not run. -/
def State.spareCopy (s : State) : FwCopy := if s.pkg.runsB then s.pkg.copies.1 else s.pkg.copies.2

/-- Replace the firmware copy that does not run. -/
def State.putCopy (s : State) (c : FwCopy) (next : Option Nat) : State :=
  s.modPkg fun p => { p with copies := if p.runsB then (c, p.copies.2) else (p.copies.1, c), fwNext := next }

/-- FWLOAD (R437, R431): an offset out of order discards the partial copy of a sequence in progress; a copy already verified stays. -/
def execFwload (q : VendorReq) (ofs flags len : Nat) (data : List Byte) (s : State) : Out :=
  .next (s.ifUp <| if vendorBad q || 2 ≤ flags || !mult ofs 64 || len < 64 || 1024 < len || !mult len 64 || data.length ≠ len then s.vendor 1 0x02 q.seq []
    else if ofs ≠ 0 && s.pkg.fwNext ≠ some ofs then
      (if s.pkg.fwNext.isSome then s.putCopy {} none else s).vendor 1 0x04 q.seq []
    else
      let c : FwCopy := if ofs = 0 then {} else s.spareCopy
      let c := { c with data := Memory.putBytes c.data ofs data }
      if flags = 0 then (s.putCopy c (some (ofs + data.length))).vendor 1 0x00 q.seq []
      else if verifies s.pkg.fusedSvn c then (s.putCopy { c with valid := true } none).vendor 1 0x00 q.seq []
      else (s.putCopy c none).vendor 1 0x03 q.seq [])

/-- SVNCOMMIT (R437). -/
def execSvncommit (q : VendorReq) (svn : Nat) (s : State) : Out :=
  .next (s.ifUp <| if !s.secured q then s.vendor 2 0x06 q.seq []
    else if vendorBad q then s.vendor 2 0x02 q.seq []
    else if (s.runningCopy.map fun c => Config.fwSvn c.data) = some svn && decide (s.pkg.fusedSvn < svn) then
      (s.modPkg fun p => { p with fusedSvn := svn }).vendor 2 0x00 q.seq [svn]
    else s.vendor 2 0x05 q.seq [s.pkg.fusedSvn])

/-- RESET (R437): the response is sent before the reset. -/
def execReset (q : VendorReq) (kind : Nat) (r : StartReport) (s : State) : Out :=
  .next (s.ifUp <| if !s.secured q then s.vendor 3 0x06 q.seq []
    else if vendorBad q || kind ≠ 0 then s.vendor 3 0x02 q.seq []
    else (s.vendor 3 0x00 q.seq []).start 0x05 r)

/-- SETKEY (R434, R437): a port that waited for its key sends what it holds back (log entry 124). -/
def execSetkey (q : VendorReq) (port slot dir : Nat) (key : List Byte) (s : State) : Out :=
  .next (s.ifUp <| if !s.secured q then s.vendor 4 0x06 q.seq []
    else if vendorBad q || !suOptical port || 2 ≤ slot || 2 ≤ dir || key.length ≠ 32 then s.vendor 4 0x02 q.seq []
    else if !suEncrypted port || Sparse.get false (s.suPort port).valid (slot + 2 * dir) then s.vendor 4 0x05 q.seq []
    else ((s.modSu port fun p => { p with
      valid := Sparse.set false p.valid (slot + 2 * dir) true
      keys := Sparse.set 0 p.keys (slot + 2 * dir) (BitVec.ofNat 256 (leNat key)) }).flushPort port).vendor 4 0x00 q.seq [])

/-- REGREAD (R437). -/
def execRegread (q : VendorReq) (ofs : Nat) (s : State) : Out :=
  .next (s.ifUp <| if vendorBad q || !mult ofs 8 || 0x800000 ≤ ofs then s.vendor 5 0x02 q.seq []
    else s.vendor 5 0x00 q.seq [(s.readBy 0 ofs).toNat])

/-! ## Mailbox (R439) -/

/-- DBGIN_WRITE (R439). -/
def execDbginWrite (row : Nat) (x : Word) (s : State) : Out :=
  .next (s.ifUp <| if s.rows[rowIx row].dbgst.getLsbD 0 then s
    else s.modRow (rowIx row) fun r => { r with dbgin := x, dbgst := r.dbgst ||| 1 })

/-- DBGOUT_READ (R439). -/
def execDbgoutRead (row : Nat) (s : State) : Out :=
  let x := s.rows[rowIx row].mailbox 0x08
  .next (s.ifUp ((s.modRow (rowIx row) fun r => { r with dbgst := r.dbgst &&& ~~~2 }).answer 0x51 [row, x.toNat]))

/-! ## Health (R441, R443) -/

/-- The remaining hours of a component (R441): none below 0, where the specification states no number. -/
def remHours (d dEnd : Int) (old : Option Int) : Int :=
  match old with
  | none => 0xFFFFFFFF
  | some o => if d - o ≤ 0 then 0xFFFFFFFF else (dEnd - d) * 1000 / (d - o)

/-- The least of a list with its component, the earliest first. -/
def leastRem : List (Nat × Int) → Option (Nat × Int)
  | [] => none
  | x :: xs => match leastRem xs with
    | some y => if y.2 < x.2 then some y else some x
    | none => some x

/-- The components with a remaining life (R441): lasers, compute dies, base dies, exchange dies. -/
def wearParts : List Nat := List.range 12 ++ [0x10, 0x11, 0x12, 0x13, 0x18, 0x19, 0x1A, 0x1B, 0x20, 0x21]

/-- The drifts sampled of a component, the latest first: D_x and the 1,000 before it (R441). -/
def State.drifts (s : State) (x : Nat) : List Int := Sparse.get [] s.pkg.wear x

/-- Keep a drift sampled. -/
def State.sample (s : State) (x : Nat) (d : Int) : State :=
  s.modPkg fun p => { p with wear := Sparse.set [] p.wear x ((d :: s.drifts x).take 1001) }

/-- The remaining hours of a component (R441). -/
def State.remOf (s : State) (x : Nat) : Int :=
  match s.drifts x with
  | [] => 0xFFFFFFFF
  | d :: past => remHours d (if x < 12 then 512 else Config.dieEnd x) past[999]?

/-- WEAR_SAMPLE (R441, R414): every lit laser is an hour older and its DRIFT is sampled, with the drifts of the dies named. -/
def execWearSample (dies : List (Nat × Int)) (s : State) : Out :=
  let s := forEach ((List.range 12).filter fun n => (s.laser n).en) (fun n s =>
    (s.modLaser n fun l => { l with hours := (l.hours + 1) % 2 ^ 32 }).sample n (s.laser n).drift) s
  let s := forEach (dies.filter fun (x, _) => decide (12 ≤ x) && wearParts.contains x) (fun (x, d) s => s.sample x d) s
  .next (match leastRem (wearParts.map fun x => (x, s.remOf x)) with
    | none => s
    | some (x, m) =>
      let h := if 0 ≤ m && m ≤ 0xFFFFFFFF then m.toNat else Config.openField 0x441 x s.dcc % 2 ^ 32
      let tell := decide (h < 43800) && !s.pkg.peolTold
      let s := s.modPkg fun p => { p with peol := fields [(32, x % 256), (0, h)], peolTold := p.peolTold || tell }
      if tell then s.pkgEvent 0x87 x (some h) else s)

/-- THERMAL_WARNING (R443). -/
def execThermalWarning (die : Nat) (s : State) : Out := .next (s.pkgEvent 0x86 die none)

/-- THERMAL_TRIP (R443). -/
def execThermalTrip (_die : Nat) (r : StartReport) (s : State) : Out := .next (s.start 0x02 r)

/-- SUPPLY_TRIP (R443). -/
def execSupplyTrip (r : StartReport) (s : State) : Out := .next (s.start 0x03 r)

/-! ## Register writes (R7) -/

/-- The state after an event that always has a next state. -/
def andThen (s : State) (f : State → Out) : State :=
  match f s with
  | .next t => t
  | _ => s

/-- Write a register of a stream (R371, R372). -/
def State.writeStream (s : State) (n o : Nat) (x : Word) : State :=
  let v := x.toNat
  match o with
  | 0x00 => s.modStream n fun k => { k with base := v }
  | 0x08 =>
    let was := (s.stream n).en
    let on := x.getLsbD 63
    let s := s.modStream n fun k => { k with prio := bitsOf v 56 2, log2 := bitsOf v 0 5 }
    if !s.pkg.boot.full || on = was then s
    else if on then andThen s (execStreamEnable n)
    else s.modStream n fun k => { k with en := false }
  | 0x18 => andThen s (execStreamDoorbell n (v % 2 ^ 32))
  | 0x20 => if x.getLsbD 63 then andThen s (execSerrClear n) else s
  | _ => s

/-- Write a register of a memory port (R410, R411). -/
def State.writePort (s : State) (p o : Nat) (x : Word) : State :=
  let v := x.toNat
  if (s.port p).absent then s
  else match o with
  | 0x00 =>
    let was := (s.port p).en
    let s := s.modPort p fun k => { k with en := x.getLsbD 63, step := bitsOf v 59 3, md := if k.live then k.md else bitsOf v 42 6 }
    let s := if was && !x.getLsbD 63 then andThen s (execMemoryPortDisable p) else s
    if !x.getLsbD 62 then s
    else match bitsOf v 59 3 with
    | 1 => andThen s (execMpCoarseTune p)
    | 2 => andThen s (execMpLock p)
    | 3 => andThen s (execMpRotation p)
    | 4 => andThen s (execMpEyeTraining p)
    | 5 => andThen s (execMpGoLive p)
    | _ => s
  | 0x60 =>
    let s := s.modPort p fun k => { k with auto := x.getLsbD 63, force := bitsOf v 0 4 }
    if x.getLsbD 62 then andThen s (execMpspareForce p) else s
  | _ => s

/-- Write a register of a scale-up port (R419, R420). -/
def State.writeSu (s : State) (p o : Nat) (x : Word) : State :=
  if o ≠ 0 then s
  else
    let s := if (s.suPort p).en = x.getLsbD 63 then s else andThen s (execScaleUpEnable p (x.getLsbD 63))
    if (s.suPort p).qreq = x.getLsbD 62 then s else andThen s (execQuiesceRequest p (x.getLsbD 62))

/-- The reference frame that a JOIN meets, if one comes: the DCC at which it was sent and the sender's delay (R416). The far end sends it. -/
def State.frameSeen (s : State) : Option (Nat × Nat) :=
  if Config.openField 0x41F 0 s.dcc = 0 then none else some (Config.openField 0x420 0 s.dcc, Config.openField 0x421 0 s.dcc)

/-- Write a register of the domain block (R415, R416): what the reference frame holds comes with the light. A write that sets JOIN and
LEAVE joins first and leaves then: log entry 158. -/
def State.writeDomain (s : State) (o : Nat) (x : Word) : State :=
  let v := x.toNat
  match o with
  | 0x00 =>
    let s := s.modPkg fun p => { p with nodeCtl := v % 8192 }
    let s := if x.getLsbD 63 then andThen s (execJoin (v % 8192) (Config.openField 0x41F 1 s.dcc) s.frameSeen) else s
    if x.getLsbD 62 then andThen s execLeave else s
  | 0x10 =>
    let s := s.modPkg fun p => { p with nbNode := v % 8192 }
    if x.getLsbD 63 then andThen s execNbindGo else s
  | 0x18 => s.modPkg fun p => { p with nbSer := x }
  | _ => s

/-- Write a register of the platform block (R430, R436, R438). -/
def State.writePlatform (s : State) (o : Nat) (x : Word) : State :=
  let v := x.toNat
  if 0x100 ≤ o && o < 0x140 then andThen s (execRetirementPending ((o - 0x100) / 8) x)
  else if o = 0x2000 then s.modPkg fun p => { p with evqBase := v }
  else if o = 0x2008 then s.modPkg fun p => { p with evqCtl := x &&& 0x800000000000001F }
  else if o = 0x2010 then s.modPkg fun p => { p with evqHead := v % 2 ^ 32 }
  else if o = 0x2020 then s.modPkg fun p => { p with evqLost := (BitVec.ofNat 32 p.evqLost &&& ~~~BitVec.ofNat 32 v).toNat }
  else if 0x3000 ≤ o && o < 0x3200 then
    let n := (o - 0x3000) / 8
    if (s.stream n).en then s else s.modPkg fun p => { p with sassign := Sparse.set 0 p.sassign n (x &&& 0x800000000000001F) }
  else s

/-- A write of 8 bytes by the PF. -/
def State.writePf (s : State) (ofs : Nat) (x : Word) : State :=
  if 0x400000 ≤ ofs then s.writePlatform (ofs - 0x400000) x
  else if ofs = 0 then s.modPkg fun p => { p with credit := bitsOf x.toNat 0 8, walkTmo := bitsOf x.toNat 8 32 }
  else if 0x10000 ≤ ofs && ofs < 0x11000 then s.writeStream ((ofs - 0x10000) / 0x40) (ofs % 0x40) x
  else if 0x20000 ≤ ofs && ofs < 0x20100 then (if ofs % 0x20 = 0 then andThen s (execDbginWrite ((ofs - 0x20000) / 0x20) x) else s)
  else if !s.pkg.boot.full then s
  else if 0x100000 ≤ ofs && ofs < 0x118000 then s.writePort ((ofs - 0x100000) / 0x100) (ofs % 0x100) x
  else if 0x200000 ≤ ofs && ofs < 0x209000 then s.writeSu ((ofs - 0x200000) / 0x100) (ofs % 0x100) x
  else if 0x300000 ≤ ofs && ofs < 0x300300 && ofs % 0x40 = 0 then
    let n := (ofs - 0x300000) / 0x40
    if (s.laser n).en = x.getLsbD 63 then s else andThen s (execLaserEnable n (x.getLsbD 63))
  else if 0x301000 ≤ ofs && ofs < 0x301020 then s.writeDomain (ofs - 0x301000) x
  else s

/-- REGISTER_WRITE (R7, R406, R427, R435): a write of 8 bytes to a function and an offset of its BAR0: function 0 is the PF, and a VF
is enabled in full function and reaches the streams assigned to it; a reserved or read-only field ignores it. -/
def execRegisterWrite (reg : Nat × Nat) (x : Word) (s : State) : Out :=
  let fn := reg.1
  let ofs := reg.2
  .next (if !mult ofs 8 || !s.hostUp then s
    else if fn = 0 then s.writePf ofs x
    else if s.pkg.boot.full && 0x10000 ≤ ofs && ofs < 0x11000 && s.sees fn ((ofs - 0x10000) / 0x40) then s.writeStream ((ofs - 0x10000) / 0x40) (ofs % 0x40) x
    else s)

end Sys2Proof.Machine
end

