-- ==== Sys2Proof/Machine/Sequencer.lean ====
section
/-! DEFINITION. Column S without the uniform integer forms (05_sequencer.md): frames and control transfer, slack, halt,
traps, pre-emption points, idempotent regions, control registers and votes; and NOP of every column (R75). -/

namespace Sys2Proof.Machine

open Sys2Proof

/-- NOP of any column (R75). -/
def execNop (_c : Col) (_h : Hdr) (s : State) : Out := .next s

/-! ## Frames and control transfer (R160 to R163) -/

/-- The address of the word after the present word's clause. -/
def State.afterClause (s : State) : Nat := (s.clause?.map fun c => c.addr + 1 + c.cnt).getD 0

/-- No later word of the present word's clause changes the frame. -/
def State.lastFrameWord (s : State) : Bool :=
  match s.cur.work, s.clause? with
  | .word _ i, some c => !((s.row.clauseWords (c.addr + 1 + i) (c.cnt - 1 - i)).any frameChanging)
  | _, _ => true

/-- The dispatcher resumes two cycles on at a word address (R78, R162): the last frame-changing word of a clause says where.
A target below word 0 is read as one beyond the end of the stream. -/
def State.nextFetch (s : State) (target : Int) : State :=
  if s.lastFrameWord && (s.row.handler || s.row.halted.isNone) then
    s.addSeq 2 8 0 (.cont (.fetchFrom (if target < 0 then 2 ^ 18 else target.toNat)))
  else s

/-- The frame base of the row in force moves (R162, modulo 2^64). -/
def State.moveFrame (s : State) (d : Nat) : State := s.hereRow fun r => { r with fb := (r.fb + d) % 2 ^ 64 }

/-- The target of a branch: the clause's header word plus a signed field (R162). -/
def State.target (s : State) (w : Nat) (t : Nat) : Int := (s.headAddr : Int) + signedOf t w

/-- A word that is not enabled goes on to the word after its clause (R162). -/
def frameWord (h : Hdr) (f : State → State) (s : State) : State := if s.row.enabled h then f s else s.nextFetch s.afterClause

/-- BR (R162). -/
def execBr (h : Hdr) (f : BRF) (s : State) : Out :=
  .next (frameWord h (fun s => (s.nextFetch (s.target 24 f.tgt.toNat)).moveFrame f.fbo.toNat) s)

/-- BRC (R162). -/
def execBrc (h : Hdr) (f : BRF) (s : State) : Out :=
  .next (frameWord h (fun s => (s.nextFetch (s.target 24 f.tgt.toNat)).moveFrame f.fbo.toNat) s)

/-- LOOP (R162): a counter of 0 becomes 2^64 − 1 and branches. -/
def execLoop (h : Hdr) (f : SLP) (s : State) : Out :=
  .next (frameWord h (fun s =>
    let c := s.k f.kc - 1
    let s := s.writeSeq 1 [.k s.row.handler f.kc.toNat c]
    if c = 0 then s.nextFetch s.afterClause else (s.nextFetch (s.target 18 f.tgt.toNat)).moveFrame f.fbo.toNat) s)

/-- The return stack in force (R159, R187), top first, and its depth. -/
def Row.stack (r : Row) : List Nat := if r.handler then r.hstack else r.rstack

/-- Entries of the return stack in force. -/
def Row.stackSize (r : Row) : Nat := if r.handler then 4 else 16

/-- Replace the return stack in force. -/
def Row.setStack (r : Row) (x : List Nat) : Row := if r.handler then { r with hstack := x } else { r with rstack := x }

/-- CALL (R162, R178). Log entry 120: behind a clause that ends at word 0x3FFFF the return address is word 0x40000. -/
def execCall (h : Hdr) (f : BRF) (s : State) : Out :=
  .next (frameWord h (fun s =>
    if s.row.stackSize ≤ s.row.stack.length then s.trapSeq 1 9
    else
      let a := s.afterClause
      ((s.hereRow fun r => r.setStack (a :: r.stack)).nextFetch (s.target 24 f.tgt.toNat)).moveFrame f.fbo.toNat) s)

/-- RET (R162, R178). -/
def execRet (h : Hdr) (f : BRF) (s : State) : Out :=
  .next (frameWord h (fun s =>
    match s.row.stack with
    | [] => s.trapSeq 1 0xA
    | a :: rest => ((s.hereRow fun r => r.setStack rest).nextFetch a).moveFrame f.fbo.toNat) s)

/-- FBSET (R162). -/
def execFbset (h : Hdr) (f : SRI) (s : State) : Out :=
  .next (frameWord h (fun s => (s.nextFetch s.afterClause).moveFrame ((s.k f.a).toNat + f.imm.toNat)) s)

/-- FBABS (R162). -/
def execFbabs (h : Hdr) (f : SRR) (s : State) : Out :=
  .next (frameWord h (fun s =>
    let x := (s.k f.a).toNat + (s.k f.b).toNat
    (s.nextFetch s.afterClause).hereRow fun r => { r with fb := x % 2 ^ 64 }) s)

/-! ## Reports, slack and halt -/

/-- The row reports a word to the hold master in this cycle (R446). -/
def State.report (s : State) (kind : PointKind) (k arg : Nat) (on : Bool) : State :=
  s.addGang s.gcc 7 0 .free
    (.ev (.pointReport { kind := kind, k := k, rank := s.task.rank, row := s.row.rowid, gcc := s.gcc, arg := arg, enabled := on }))

/-- GALIGN (R164): enabled or not, it reports; enabled, the row's frame stays open until the answer. -/
def execGalign (h : Hdr) (f : SRR) (s : State) : Out :=
  let on := s.row.enabled h
  let k := s.row.nGalign + 1
  let s := (s.hereRow fun r => { r with nGalign := k }).report .galign k (f.aux.toNat % 2) on
  let s := if on then s.hereRow fun r => { r with galign := some (k, s.gcc, f.d.toNat), frameOpen := true } else s
  .next (s.nextFetch s.afterClause)

/-- SLACK (R39, R40, R41, R165): the count of starvation restarts and the row reports whether or not the word is enabled; the
slack hold follows the words of the cycle. In handler mode it does nothing. -/
def execSlack (h : Hdr) (f : SRI) (s : State) : Out :=
  .next (if s.row.handler then s
    else
      let on := s.row.enabled h
      let b := if on then f.imm.toNat else 0
      let k := s.row.nSlack + 1
      let s := ((s.hereRow fun r => { r with nSlack := k }).report .slack k b on).restartSlack s.cur.slot s.cur.row
      let e : Entry := { gang := true, due := s.gcc, rank := 40, slot := s.cur.slot, work := .cont (.slackBegin b) }
      if b = 0 || s.agenda.contains e then s else s.add e)

/-- Work that keeps a row from ending (R166): words, clauses, and results that have not reached their cycle. Transfers go on
under R156. -/
def Work.keepsRow : Work → Bool
  | .word _ _ => true
  | .ev (.clauseStart _) => true
  | .ev (.registerWriteBack _) => true
  | .ev (.tileGroupAccess _) => true
  | .ev (.streamCycleArrival _) => true
  | .ev (.recvtEntryWrite _ _) => true
  | .cont (.lsWrite _ _) => true
  | .cont (.sendtRead _ _ _ _) => true
  | .cont (.putRead _ _ _ _ _ _ _) => true
  | .cont (.sourceRead _ _) => true
  | .cont (.voteSample _ _ _ _ _ _) => true
  | .cont (.crdSample _ _ _ _) => true
  | .cont (.cwrCore _ _) => true
  | .cont (.trapAfter _ _) => true
  | .cont (.badRead _ _) => true
  | .ev .singleStepTrap => true
  | _ => false

/-- The cycles of a row's work that keeps it from ending. -/
def State.rowPending (s : State) (slot : Slot) (r : Fin 8) : List Nat :=
  (s.agenda.filter fun e => e.gang && e.slot == slot && e.row == r && e.work.keepsRow).map (·.due)

/-- Every row of the task has ended (R49, R166): the end fence of R156 follows. -/
def State.endTask (slot : Slot) (s : State) : State :=
  if (s.rowsOf slot).any fun r => s.rows[r].running then s
  else s.terminate slot { code := 0x00, rank := some (s.taskAt slot).rank }

/-- A row that has issued HALT ends once nothing keeps it (R166). -/
def State.rowEnd (s : State) : State :=
  match s.rowPending s.cur.slot s.cur.row with
  | [] => if s.row.running then (s.hereRow fun r => { r with running := false }).endTask s.cur.slot else s
  | xs => s.add { s.cur with due := max (s.gcc + 1) (xs.foldl max 0) }

/-- HALT (R166, R188): fetching ends, and clauses that would start later are discarded. In handler mode it ends the
handler. -/
def execHalt (h : Hdr) (s : State) : Out :=
  .next (if !s.row.enabled h then s.nextFetch s.afterClause
    else if s.row.handler then s.endHandler
    else
      let g := s.gcc
      let s := s.hereRow fun r => { r with
        halted := some g, rpos := none
        clauses := r.clauses.map fun c => if c.startGcc.all fun x => decide (g < x) then { c with dropped := true } else c }
      let gone := (s.row.clauses.filter (·.dropped)).map (·.id)
      let s := { s with agenda := s.agenda.filter fun e => !(e.gang && e.slot == s.cur.slot && e.row == s.cur.row && match e.work with
        | .ev (.clauseStart id) => gone.contains id
        | _ => false) }
      ((s.report .halt 0 0 true).addSeq 1 41 0 (.cont .rowEnd)).checkDiscard s.cur.slot)

/-! ## Traps and breakpoints (R167) -/

/-- The trap of a TRAP or BRK, in the cycle after its own. -/
def State.trapAfter (s : State) (code info : Nat) : State := s.takeTrap 0 true s.gcc { code := code, info := info, addr := s.nextSeqAddr }

/-- TRAP (R167): fetching goes on behind it once the row resumes (R178). -/
def execTrap (h : Hdr) (f : SRI) (s : State) : Out :=
  .next (frameWord h (fun s => (s.nextFetch s.afterClause).addSeq 1 6 0 (.cont (.trapAfter 0x0C f.imm.toNat))) s)

/-- BRK (R167). -/
def execBrk (h : Hdr) (f : SRI) (s : State) : Out :=
  .next (seqWord h (fun s => if s.row.sstep.getLsbD 1 then s.addSeq 1 6 0 (.cont (.trapAfter 0x0D f.imm.toNat)) else s) s)

/-! ## Pre-emption points and regions (R168 to R172) -/

/-- A pre-emption takes effect at a PREPT of this cycle (R168, R366, R391): it is pending from an earlier or the same GCC and no
plan run of the task is active on any member. Which runs other members have active is free: log entry 123. -/
def Task.preemptTakes (t : Task) : Bool :=
  match t.preempt with
  | some p => p.pending && decide (p.q ≤ t.gcc) && t.runs.isEmpty && (decide (t.members ≤ 1) || Config.openField 0x366 t.taskid t.gcc % 2 == 0)
      && t.stop.isNone && t.ending.isNone
  | none => false

/-- The row stops behind row cycle p of its PREPT (R392): G_s := p + 1, core c at p + 1 + 2c. -/
def State.stopAtPrept (s : State) (lrec : Nat) : State :=
  let p := s.gcc
  let slot := s.cur.slot
  let r := s.cur.row
  let s := s.hereRow fun w => { w with prept := some lrec }
  let s := s.hereTask fun t => { t with preempt := t.preempt.map fun x => { x with taken := some p } }
  let s := forEach all8 (fun c => State.stopCore slot r c (p + 1 + 2 * c.1)) (State.stopSeq slot r (p + 1) s)
  let e : Entry := { gang := true, due := p + 15, rank := 42, slot := slot, work := .ev .preemptDrainEnd }
  if s.agenda.contains e then s else s.add e

/-- What an enabled PREPT does once every word of its cycle has issued (R366, R391): a run that one of them launches, or a trap that one
takes, keeps the request pending. -/
def State.preptTake (s : State) (lrec : Nat) : State := if s.task.preemptTakes then s.stopAtPrept lrec else s

/-- PREPT (R168): it reports, and stops the row where a request is pending. In handler mode it does nothing (R391). -/
def execPrept (h : Hdr) (f : SRI) (s : State) : Out :=
  .next (if s.row.handler then s
    else
      let k := s.row.nPrept + 1
      let s := (s.hereRow fun r => { r with nPrept := k }).report .prept k 0 (s.row.enabled h)
      if s.row.enabled h && s.task.preempt.isSome then s.addGang s.gcc 43 0 .free (.cont (.preptTake f.imm.toNat)) else s)

/-- IDEMB (R171, R320, R321): the entry is its clause. A restarted region keeps its poison-restart flag when its own IDEMB
issues again. Log entry 121: in handler mode the snapshot takes the registers of the task and the handler's frame base. -/
def execIdemb (h : Hdr) (f : SRI) (s : State) : Out :=
  .next (seqWord h (fun s =>
    let a := s.headAddr
    let entry := ((s.clause?.bind (·.startGcc)).getD s.gcc)
    let s := s.hereRow fun r => { r with
      region := some { tag := f.imm.toNat, addr := a, entry := entry, k := r.k, q := r.q, rstack := r.rstack, fb := r.fb,
                       restarted := match r.region with
                         | some g => g.redo && g.restarted && g.addr == a
                         | none => false
                       counts := (r.nSlack, r.nPrept, r.nGalign) } }
    let s := if 1 < s.task.members then s.report .idemb 0 entry true else s
    (forEach all8 (fun c s => s.modCore s.cur.row c fun k => { k with pcnt := 0, psrc := false, pmod := 0, paddr := 0 }) s).checkDiscard s.cur.slot) s)

/-- IDEME (R171): a discard that has been announced lapses (R394). -/
def execIdeme (h : Hdr) (s : State) : Out :=
  .next (seqWord h (fun s =>
    let s := if 1 < s.task.members then s.report .ideme 0 0 true else s
    (s.hereRow fun r => { r with region := none }).lapseDiscard s.cur.slot) s)

/-! ## Time, control registers and votes (R174 to R176) -/

/-- DCCRD (R174). -/
def execDccrd (h : Hdr) (f : SRR) (s : State) : Out :=
  .next (seqWord h (fun s =>
    let b := s.row.handler
    s.writeSeq 1 [.k b f.d.toNat (BitVec.ofNat 64 s.dcc), .k b (f.d.toNat + 1) (BitVec.ofNat 64 s.gcc)]) s)

/-- A control register of the row (R193 to R195). -/
def State.rowCtl (s : State) (sel : Nat) : Word :=
  let r := s.row
  let t := s.task
  match sel with
  | 0x00 => BitVec.ofNat 64 r.fb
  | 0x01 => BitVec.ofNat 64 s.dcc
  | 0x02 => BitVec.ofNat 64 t.gcc
  | 0x03 => BitVec.ofNat 64 t.holds
  | 0x04 => BitVec.ofNat 64 t.slkr
  | 0x05 => BitVec.ofNat 64 t.shiftc
  | 0x06 => BitVec.ofNat 64 (t.rank % 2 ^ 13 * 2 ^ 32 + t.taskid % 2 ^ 32)
  | 0x07 => BitVec.ofNat 64 r.rowid
  | 0x08 => BitVec.ofNat 64 (t.firstRow * 256 + t.nrows)
  | 0x09 => 8192
  | 0x0A => r.trapc
  | 0x0B => r.tvec
  | 0x0C => r.sstep
  | 0x0D => r.dbgin
  | 0x0E => r.dbgout
  | 0x0F => r.dbgst
  | 0x10 => BitVec.ofNat 64 r.stack.length
  | 0x11 => match r.region with
    | some g => BitVec.ofNat 64 (2 ^ 63 + g.tag % 256 * 2 ^ 48 + g.addr % 2 ^ 18)
    | none => 0
  | 0x12 => r.trapfs
  | _ => 0

/-- A control register of a core (R193 to R195, R303). -/
def Core.ctl (c : Core) (col prow sel : Nat) : Word :=
  match sel with
  | 0x00 => BitVec.ofNat 64 col
  | 0x01 => BitVec.ofNat 64 (prow * 256 + c.pcol)
  | 0x02 => c.trapf
  | 0x03 => c.stopg
  | 0x04 => BitVec.ofNat 64 (c.infl % 2 ^ 23 * 2 ^ 32 + c.limit % 2 ^ 23)
  | n => if 0x10 ≤ n && n < 0x14 then Sparse.get 0 c.evcfg (n - 0x10)
    else if 0x14 ≤ n && n < 0x18 then Sparse.get 0 c.evcnt (n - 0x14)
    else if 0x18 ≤ n && n < 0x1C then Sparse.get 0 c.evlim (n - 0x18)
    else if 0x20 ≤ n && n < 0x30 then Sparse.get 0 c.bnd (n - 0x20)
    else 0

/-- Work of a core on behalf of the sequencer: in handler mode the core stands still, and the access goes on. -/
def State.addCtl (s : State) (c : Fin 8) (dt rank : Nat) (w : Work) : State :=
  s.add { s.cur with gang := true, due := s.gcc + dt, rank := rank, ord := 0, core := c, urgent := false, args := [],
                     part := if s.row.handler then .free else .core, work := w }

/-- A result of such an access returns to the sequencer under the number that its word had at issue (R83). -/
def State.returnSeq (s : State) (dt wid : Nat) (handler : Bool) (w : RegWrite) : State :=
  s.add { s.cur with gang := true, due := s.gcc + dt, rank := 3, ord := wid, core := 0, urgent := false, args := [],
                     part := if handler then .free else .seq, work := .ev (.registerWriteBack { wid := wid, writes := [w] }) }

/-- CRD (R161, R175). -/
def execCrd (h : Hdr) (f : SCR) (s : State) : Out :=
  .next (seqWord h (fun s =>
    let sel := f.sel.toNat % 256
    let inst := f.sel.toNat / 256
    if inst = 0xF then s.writeSeq 2 [.k s.row.handler f.d.toNat (s.rowCtl sel)]
    else (s.addCtl (Fin.ofNat 8 inst) (2 * (inst % 8)) 9 (.cont (.crdSample sel f.d.toNat s.row.handler s.next))).fresh) s)

/-- The core register of a CRD is read, and its value returns (R161, R175). A sample due from its core's stop on waits for the resume: log
entry 162. -/
def State.crdSample (s : State) (sel d : Nat) (handler : Bool) (wid : Nat) : State :=
  s.returnSeq (20 - 2 * s.cur.core.1) wid handler (.k handler d (s.core.ctl s.cur.core.1 s.row.prow sel))

/-- CWR (R161, R175): a write of DBGOUT tells the host (R190). -/
def execCwr (h : Hdr) (f : SCR) (s : State) : Out :=
  .next (seqWord h (fun s =>
    let sel := f.sel.toNat % 256
    let inst := f.sel.toNat / 256
    let x := s.k f.d
    if inst = 0xF then
      let s := s.writeSeq 1 [.rowCtl sel x]
      if sel = 0x0E then s.addSeq 1 39 0 (.cont (.interrupt 65)) else s
    else s.addCtl (Fin.ofNat 8 inst) (2 * (inst % 8)) 9 (.cont (.cwrCore sel x))) s)

/-- A CWR has come to its core: its effect follows a local cycle later, in the order of the core's words, before those that issue in
this cycle (R83, R175). -/
def State.cwrCore (s : State) (sel : Nat) (x : Word) : State :=
  (s.add { s.cur with due := s.gcc + 1, rank := 5, ord := s.next, urgent := false, args := [],
                      work := .ev (.registerWriteBack { wid := s.next, writes := [.coreCtl sel x] }) }).fresh

/-- QVOTE (R161, R176). -/
def execQvote (h : Hdr) (f : SRR) (s : State) : Out :=
  .next (seqWord h (fun s =>
    (s.addCtl 0 0 9 (.cont (.voteSample (f.a.toNat % 8) (f.aux.toNat % 4) f.d.toNat s.row.handler s.next 0))).fresh) s)

/-- The result of a vote (R176). -/
def voteResult (mode d acc : Nat) (handler : Bool) : RegWrite :=
  if mode = 0 then .q handler (d - 96) (decide (acc ≠ 0))
  else if mode = 1 then .q handler (d - 96) (decide (acc = 255))
  else .k handler d (BitVec.ofNat 64 acc)

/-- One core's predicate enters a vote (R176). A sample due from its core's stop on waits for the resume: log entry 162. -/
def State.voteSample (s : State) (pn mode d : Nat) (handler : Bool) (wid acc : Nat) : State :=
  let acc := acc + if s.core.rp pn then 2 ^ s.cur.core.1 else 0
  if s.cur.core.1 < 7 then
    s.add { s.cur with due := s.gcc + 2, core := s.cur.core + 1, work := .cont (.voteSample pn mode d handler wid acc) }
  else s.returnSeq 6 wid handler (voteResult mode d acc handler)

end Sys2Proof.Machine
end

