-- ==== Sys2Proof/Machine/Uniform.lean ====
section
/-! DEFINITION. The uniform integer forms of column S (R177): the column-A operation of the same number on k and q
registers, with column A's results. -/

namespace Sys2Proof.Machine

open Sys2Proof

/-- ADD on uniform registers (R203, R204, R177). -/
def execUniformAdd (h : Hdr) (f : SRR) (s : State) : Out := .next (uniWord h f 1 (alu f.ty.toNat (f.aux.getLsbD 12) (· + ·)) s)

/-- SUB on uniform registers (R203, R204, R177). -/
def execUniformSub (h : Hdr) (f : SRR) (s : State) : Out := .next (uniWord h f 1 (alu f.ty.toNat (f.aux.getLsbD 12) (· - ·)) s)

/-- MUL on uniform registers (R203, R204, R177). -/
def execUniformMul (h : Hdr) (f : SRR) (s : State) : Out := .next (uniWord h f 3 (alu f.ty.toNat (f.aux.getLsbD 12) (· * ·)) s)

/-- MULH on uniform registers (R203, R177). -/
def execUniformMulh (h : Hdr) (f : SRR) (s : State) : Out := .next (uniWord h f 3 (mulhVal) s)

/-- MULHU on uniform registers (R203, R177). -/
def execUniformMulhu (h : Hdr) (f : SRR) (s : State) : Out := .next (uniWord h f 3 (mulhuVal) s)

/-- DIV on uniform registers (R205, R177). -/
def execUniformDiv (h : Hdr) (f : SRR) (s : State) : Out := .next (uniWord h f 18 (fun x y => fin f.ty.toNat (divS f.ty.toNat x y).1) s)

/-- DIVU on uniform registers (R205, R177). -/
def execUniformDivu (h : Hdr) (f : SRR) (s : State) : Out := .next (uniWord h f 18 (fun x y => fin f.ty.toNat (divU f.ty.toNat x y).1) s)

/-- REM on uniform registers (R205, R177). -/
def execUniformRem (h : Hdr) (f : SRR) (s : State) : Out := .next (uniWord h f 18 (fun x y => fin f.ty.toNat (divS f.ty.toNat x y).2) s)

/-- REMU on uniform registers (R205, R177). -/
def execUniformRemu (h : Hdr) (f : SRR) (s : State) : Out := .next (uniWord h f 18 (fun x y => fin f.ty.toNat (divU f.ty.toNat x y).2) s)

/-- AND on uniform registers (R203, R177). -/
def execUniformAnd (h : Hdr) (f : SRR) (s : State) : Out := .next (uniWord h f 1 (fun x y => x &&& y) s)

/-- OR on uniform registers (R203, R177). -/
def execUniformOr (h : Hdr) (f : SRR) (s : State) : Out := .next (uniWord h f 1 (fun x y => x ||| y) s)

/-- XOR on uniform registers (R203, R177). -/
def execUniformXor (h : Hdr) (f : SRR) (s : State) : Out := .next (uniWord h f 1 (fun x y => x ^^^ y) s)

/-- ANDN on uniform registers (R203, R177). -/
def execUniformAndn (h : Hdr) (f : SRR) (s : State) : Out := .next (uniWord h f 1 (fun x y => x &&& ~~~y) s)

/-- SHL on uniform registers (R203, R177). -/
def execUniformShl (h : Hdr) (f : SRR) (s : State) : Out := .next (uniWord h f 1 (shlVal f.ty.toNat) s)

/-- SHR on uniform registers (R203, R177). -/
def execUniformShr (h : Hdr) (f : SRR) (s : State) : Out := .next (uniWord h f 1 (shrVal f.ty.toNat) s)

/-- SRA on uniform registers (R203, R177). -/
def execUniformSra (h : Hdr) (f : SRR) (s : State) : Out := .next (uniWord h f 1 (sraVal f.ty.toNat) s)

/-- ROTL on uniform registers (R203, R177). -/
def execUniformRotl (h : Hdr) (f : SRR) (s : State) : Out := .next (uniWord h f 1 (rotlVal f.ty.toNat) s)

/-- MIN on uniform registers (R203, R177). -/
def execUniformMin (h : Hdr) (f : SRR) (s : State) : Out := .next (uniWord h f 1 (alu f.ty.toNat false min) s)

/-- MAX on uniform registers (R203, R177). -/
def execUniformMax (h : Hdr) (f : SRR) (s : State) : Out := .next (uniWord h f 1 (alu f.ty.toNat false max) s)

/-- MINU on uniform registers (R203, R177). -/
def execUniformMinu (h : Hdr) (f : SRR) (s : State) : Out := .next (uniWord h f 1 (aluU f.ty.toNat fun x y => (min x y : Nat)) s)

/-- MAXU on uniform registers (R203, R177). -/
def execUniformMaxu (h : Hdr) (f : SRR) (s : State) : Out := .next (uniWord h f 1 (aluU f.ty.toNat fun x y => (max x y : Nat)) s)

/-- ADDSH on uniform registers (R203, R177). -/
def execUniformAddsh (h : Hdr) (f : SRR) (s : State) : Out := .next (uniWord h f 1 (addshVal (f.aux.toNat % 64)) s)

/-- MOV on uniform registers (R206, R177). -/
def execUniformMov (h : Hdr) (f : SRR) (s : State) : Out := .next (uniWord h f 1 (fun x _ => (fun x => x) x) s)

/-- CLZ on uniform registers (R207, R177). -/
def execUniformClz (h : Hdr) (f : SRR) (s : State) : Out := .next (uniWord h f 1 (fun x _ => (fun x => BitVec.ofNat 64 (clzOf (tyWidth f.ty.toNat) x.toNat)) x) s)

/-- POPC on uniform registers (R207, R177). -/
def execUniformPopc (h : Hdr) (f : SRR) (s : State) : Out := .next (uniWord h f 1 (fun x _ => (fun x => BitVec.ofNat 64 (popOf (tyWidth f.ty.toNat) x.toNat)) x) s)

/-- BREV on uniform registers (R207, R177). -/
def execUniformBrev (h : Hdr) (f : SRR) (s : State) : Out := .next (uniWord h f 1 (fun x _ => (fun x => BitVec.ofNat 64 (revOf (tyWidth f.ty.toNat) x.toNat)) x) s)

/-- BFX on uniform registers (R208, R177). -/
def execUniformBfx (h : Hdr) (f : SRR) (s : State) : Out := .next (uniWord h f 1 (fun x _ => (bfxVal f.ty.toNat f.c.toNat (f.aux.toNat % 64 + 1)) x) s)

/-- BFI on uniform registers (R208, R177). -/
def execUniformBfi (h : Hdr) (f : SRR) (s : State) : Out := .next (uniWord h f 1 (bfiVal f.c.toNat (f.aux.toNat % 64 + 1)) s)

/-- ADDI on uniform registers (R204, R177). -/
def execUniformAddi (h : Hdr) (f : SRI) (s : State) : Out := .next (uniWordI h f (addiVal (f.md.getLsbD 0) f.imm) s)

/-- MOVI on uniform registers (R209, R177). -/
def execUniformMovi (h : Hdr) (f : SRI) (s : State) : Out := .next (uniWordI h f (fun _ => moviVal (f.md.getLsbD 0) f.imm) s)

/-- MOVHI on uniform registers (R209, R177). -/
def execUniformMovhi (h : Hdr) (f : SRI) (s : State) : Out := .next (uniWordI h f (movhiVal f.imm) s)

/-- CMP on uniform registers (R206, R177). -/
def execUniformCmp (h : Hdr) (f : SRR) (s : State) : Out :=
  .next (seqWord h (fun s => s.writeSeq 1 [.q s.row.handler (f.d.toNat - 96) (cmpVal f.ty.toNat f.cnd.toNat (s.k f.a) (s.k f.b))]) s)

/-- PLOG on uniform predicates (R206, R177). -/
def execUniformPlog (h : Hdr) (f : SRR) (s : State) : Out :=
  .next (seqWord h (fun s => s.writeSeq 1 [.q s.row.handler (f.d.toNat - 96) (lutVal (f.aux.toNat % 16) (s.q f.a) (s.q f.b))]) s)

/-- SEL on uniform registers (R206, R177). -/
def execUniformSel (h : Hdr) (f : SRR) (s : State) : Out :=
  .next (seqWord h (fun s => s.writeSeq 1 [.k s.row.handler f.d.toNat (if s.q f.c then s.k f.a else s.k f.b)]) s)

end Sys2Proof.Machine
end

