-- ==== Sys2Proof/Machine/Trans.lean ====
section
/-! DEFINITION. The nine transcendental functions of the vector engine (R121 to R124): each value is computed to more
than 300 bits beyond its leading bit in fixed point and then rounded once. The arguments at which the exact value is
representable are answered exactly; at every other argument the value is irrational or an unrepresentable quotient. -/

namespace Sys2Proof.Machine

/-- Fraction bits of the fixed-point arithmetic below. -/
def fxP : Nat := 512

/-- 1.0 in fixed point. -/
def fxOne : Int := 2 ^ fxP

/-- Product of two fixed-point numbers, rounded down. -/
def fxMul (a b : Int) : Int := (a * b) / 2 ^ fxP

/-- Quotient of two fixed-point numbers, rounded down (b > 0). -/
def fxDiv (a b : Int) : Int := (a * 2 ^ fxP) / b

/-- An exact value as a fixed-point number, rounded down. -/
def fxOf (x : Dy) : Int :=
  let k := x.e + fxP
  if 0 ≤ k then x.n * 2 ^ k.toNat else x.n / 2 ^ (-k).toNat

/-- Σ z^(2i+1)/(2i+1), i from `i` on, with alternating signs when `alt`; `zp` is z^(2i+1). -/
def fxOddSeries (z2 : Int) (alt : Bool) : Nat → Nat → Int → Int
  | 0, _, _ => 0
  | fuel + 1, i, zp =>
    let t := zp / (2 * (i : Int) + 1)
    (if alt && i % 2 == 1 then -t else t) + fxOddSeries z2 alt fuel (i + 1) (fxMul zp z2)

/-- ln 2 = 2 atanh(1/3). -/
def fxLn2 : Int :=
  let z := fxDiv fxOne (3 * fxOne)
  2 * fxOddSeries (fxMul z z) false 180 0 z

/-- arctan(1/k) with `p` fraction bits, by its series on integers. -/
def atanInvAt (p : Nat) (k : Int) : Nat → Nat → Int → Int
  | 0, _, _ => 0
  | fuel + 1, i, t =>
    let u := t / (2 * (i : Int) + 1)
    (if i % 2 == 1 then -u else u) + atanInvAt p k fuel (i + 1) (t / (k * k))

/-- Fraction bits of the value of π that argument reduction uses (R123). -/
def piP : Nat := 768

/-- π with 768 fraction bits, by Machin's formula. -/
def piFx : Int :=
  4 * (4 * atanInvAt piP 5 180 0 (2 ^ piP / 5) - atanInvAt piP 239 60 0 (2 ^ piP / 239))

/-- e^y for a fixed-point y of small magnitude, by its Taylor series; `t` is the current term. -/
def fxExpSeries (y : Int) : Nat → Nat → Int → Int
  | 0, _, _ => 0
  | fuel + 1, i, t => t + fxExpSeries y fuel (i + 1) (fxMul t y / ((i : Int) + 1))

/-- e^y = m × 2^k with m in fixed point near 1: the pair (m, k). -/
def fxExp (y : Int) : Int × Int :=
  let k := y / fxLn2
  let r := y - k * fxLn2
  (fxExpSeries r 110 0 fxOne, k)

/-- ln of a fixed-point number in [1, 2). -/
def fxLn (m : Int) : Int :=
  let z := fxDiv (m - fxOne) (m + fxOne)
  2 * fxOddSeries (fxMul z z) false 180 0 z

/-- sin (`odd` true) or cos of a fixed-point r with |r| ≤ π/4, by the Taylor series: term index `i`, current term. -/
def fxTrigSeries (r2 : Int) : Nat → Nat → Int → Int
  | 0, _, _ => 0
  | fuel + 1, i, t =>
    t - fxTrigSeries r2 fuel (i + 2) (fxMul t r2 / (((i : Int) + 1) * ((i : Int) + 2)))

/-- sin r. -/
def fxSin (r : Int) : Int := fxTrigSeries (fxMul r r) 60 1 r

/-- cos r. -/
def fxCos (r : Int) : Int := fxTrigSeries (fxMul r r) 60 0 fxOne

/-- Round a fixed-point approximation of an irrational value, scaled by 2^k, into FP32 under .rn (R124). -/
def fxRound (m : Int) (k : Int) : FRes :=
  if m = 0 then ⟨0, { unf := true }⟩
  else
    let r := fmtF32.roundMag .rn false (decide (m < 0)) m.natAbs (k - fxP) true
    ⟨r.code, arithEv r.ev⟩

/-- A NaN operand of a transcendental word (R122). -/
def transNan (sg : Bool) : FRes := ⟨nan32, { inv := sg }⟩

/-- The number of extra bits of a quotient or square root beyond the mantissa. -/
def quotBits : Nat := 64

/-- 1/x (R122, R124). -/
def vrcp (x : FVal) : FRes :=
  match x with
  | .nan sg => transNan sg
  | .inf neg => ⟨fmtF32.signBit neg, {}⟩
  | .fin neg m e =>
    if m = 0 then ⟨fmtF32.infCode neg, {}⟩
    else
      let k := Nat.log2 m + quotBits
      let q := 2 ^ k / m
      let r := fmtF32.roundMag .rn false neg q (-(k : Int) - e) (2 ^ k % m != 0)
      ⟨r.code, arithEv r.ev⟩

/-- m × 2^e written with an even exponent and at least 2 × 64 significant bits: the pair for a square root. -/
def sqrtArg (m : Nat) (e : Int) : Nat × Int :=
  let k : Nat := 2 * quotBits + (if e % 2 = 0 then 0 else 1)
  (m * 2 ^ k, e - k)

/-- √x under a rounding mode (R122, R124). -/
def vsqrt (mode : Rnd) (x : FVal) : FRes :=
  match x with
  | .nan sg => transNan sg
  | .inf neg => if neg then ⟨nan32, { inv := true }⟩ else ⟨fmtF32.infCode false, {}⟩
  | .fin neg m e =>
    if m = 0 then ⟨fmtF32.signBit neg, {}⟩
    else if neg then ⟨nan32, { inv := true }⟩
    else
      let (a, g) := sqrtArg m e
      let s := Nat.sqrt a
      let r := fmtF32.roundMag mode false false s (g / 2) (s * s != a)
      ⟨r.code, arithEv r.ev⟩

/-- 1/√x (R122, R124): floor of √(2^k / x) with its remainder. -/
def vrsq (x : FVal) : FRes :=
  match x with
  | .nan sg => transNan sg
  | .inf neg => if neg then ⟨nan32, { inv := true }⟩ else ⟨0, {}⟩
  | .fin neg m e =>
    if m = 0 then ⟨fmtF32.infCode neg, {}⟩
    else if neg then ⟨nan32, { inv := true }⟩
    else
      let k : Nat := 256 + (if e % 2 = 0 then 0 else 1)
      let a := 2 ^ k / m
      let s := Nat.sqrt a
      let exact := 2 ^ k % m == 0 && s * s == a
      let r := fmtF32.roundMag .rn false false s (-((k : Int) + e) / 2) (!exact)
      ⟨r.code, arithEv r.ev⟩

/-- The integer part, rounded down, of an exact value. -/
def Dy.floor (x : Dy) : Int := if 0 ≤ x.e then x.n * 2 ^ x.e.toNat else x.n / 2 ^ (-x.e).toNat

/-- The exact value is an integer. -/
def Dy.isInt (x : Dy) : Bool := decide (0 ≤ x.e) || x.n % 2 ^ (-x.e).toNat == 0

/-- 2^x (R122, R124). -/
def vexp2 (x : FVal) : FRes :=
  match x with
  | .nan sg => transNan sg
  | .inf neg => if neg then ⟨0, {}⟩ else ⟨fmtF32.infCode false, {}⟩
  | .fin neg m e =>
    let d := (FVal.fin neg m e).dy
    if m = 0 then ⟨0x3F800000, {}⟩
    else if Dy.lt ⟨127, 0⟩ d && !Dy.lt d ⟨128, 0⟩ then ⟨fmtF32.infCode false, { ovf := true }⟩
    else if !Dy.lt ⟨-150, 0⟩ d then ⟨0, { unf := true }⟩
    else
      let n := d.floor
      if d.isInt then
        let r := fmtF32.roundDy .rn false false ⟨1, n⟩
        ⟨r.code, arithEv r.ev⟩
      else
        let f := fxOf (Dy.add d ⟨-n, 0⟩)
        fxRound (fxExpSeries (fxMul f fxLn2) 110 0 fxOne) n

/-- log2 x (R122, R124). -/
def vlog2 (x : FVal) : FRes :=
  match x with
  | .nan sg => transNan sg
  | .inf neg => if neg then ⟨nan32, { inv := true }⟩ else ⟨fmtF32.infCode false, {}⟩
  | .fin neg m e =>
    if m = 0 then ⟨fmtF32.infCode true, {}⟩
    else if neg then ⟨nan32, { inv := true }⟩
    else
      let l := leadExp m e
      if m == 2 ^ Nat.log2 m then
        let r := fmtF32.roundDy .rn false false ⟨l, 0⟩
        ⟨r.code, {}⟩
      else
        let mant := fxOf ⟨m, e - l⟩
        fxRound (l * fxOne + fxDiv (fxLn mant) fxLn2) 0

/-- Argument reduction of R123: n mod 4 and the fixed-point r with x = n π/2 + r, |r| ≤ π/4. -/
def trigReduce (d : Dy) : Nat × Int :=
  let x := let k := d.e + piP
    if 0 ≤ k then d.n * 2 ^ k.toNat else d.n / 2 ^ (-k).toNat
  let n := (2 * x * 2 + piFx) / (2 * piFx)
  let r := x - (n * piFx) / 2
  ((n % 4).toNat, r / 2 ^ (piP - fxP))

/-- sin or cos of an exact value through its reduction. -/
def trigAt (shift : Nat) (d : Dy) : FRes :=
  let (n, r) := trigReduce d
  match (n + shift) % 4 with
  | 0 => fxRound (fxSin r) 0
  | 1 => fxRound (fxCos r) 0
  | 2 => fxRound (-fxSin r) 0
  | _ => fxRound (-fxCos r) 0

/-- A code with its sign bit inverted when asked. -/
def flipIf (b : Bool) (r : FRes) : FRes :=
  if b then ⟨if bitOf r.code 31 then r.code - 2 ^ 31 else r.code + 2 ^ 31, r.ev⟩ else r

/-- An argument so small that the function's value rounds to the argument itself. -/
def tinyArg (m : Nat) (e : Int) : Bool := decide (leadExp m e < -40)

/-- A tiny argument returned as it is: the result is inexact, and tiny when subnormal. -/
def passTiny (neg : Bool) (m : Nat) (e : Int) : FRes :=
  let r := fmtF32.roundDy .rn false neg (FVal.fin neg m e).dy
  ⟨r.code, { unf := decide (leadExp m e < -126) }⟩

/-- sin x (R122 to R124): odd, bit for bit. -/
def vsin (x : FVal) : FRes :=
  match x with
  | .nan sg => transNan sg
  | .inf _ => ⟨nan32, { inv := true }⟩
  | .fin neg m e =>
    if m = 0 then ⟨fmtF32.signBit neg, {}⟩
    else if tinyArg m e then passTiny neg m e
    else flipIf neg (trigAt 0 ⟨m, e⟩)

/-- cos x (R122 to R124): even, bit for bit. -/
def vcos (x : FVal) : FRes :=
  match x with
  | .nan sg => transNan sg
  | .inf _ => ⟨nan32, { inv := true }⟩
  | .fin _ m e =>
    if m = 0 || tinyArg m e then ⟨0x3F800000, {}⟩
    else trigAt 1 ⟨m, e⟩

/-- tanh x (R122, R124): odd, at most 1 in magnitude. -/
def vtanh (x : FVal) : FRes :=
  match x with
  | .nan sg => transNan sg
  | .inf neg => ⟨fmtF32.signBit neg + 0x3F800000, {}⟩
  | .fin neg m e =>
    if m = 0 then ⟨fmtF32.signBit neg, {}⟩
    else if tinyArg m e then passTiny neg m e
    else if 6 ≤ leadExp m e then ⟨fmtF32.signBit neg + 0x3F800000, {}⟩
    else
      let (a, k) := fxExp (2 * fxOf ⟨m, e⟩)
      let p := a * 2 ^ k.toNat
      flipIf neg (fxRound (fxDiv (p - fxOne) (p + fxOne)) 0)

/-- 1 / (1 + e^−x) (R122, R124). -/
def vsigm (x : FVal) : FRes :=
  match x with
  | .nan sg => transNan sg
  | .inf neg => ⟨if neg then 0 else 0x3F800000, {}⟩
  | .fin neg m e =>
    if m = 0 || tinyArg m e then ⟨0x3F000000, {}⟩
    else if 8 ≤ leadExp m e then if neg then ⟨0, { unf := true }⟩ else ⟨0x3F800000, {}⟩
    else
      let (a, k) := fxExp (-(fxOf ⟨m, e⟩))
      let ex := a / 2 ^ (-k).toNat
      let v := if neg then fxDiv ex (fxOne + ex) else fxDiv fxOne (fxOne + ex)
      fxRound v 0

end Sys2Proof.Machine
end

