-- ==== Sys2Proof/Machine/Vector.lean ====
section
/-! DEFINITION. Column V (07_vector.md): the meaning of every word of the vector engine. -/

namespace Sys2Proof.Machine

open Sys2Proof

/-! ## Lanes -/

/-- The enabled lanes of a mask, ascending (R221). -/
def Core.lanes (c : Core) (msk : Nat) : List Nat := (List.range 128).filter fun i => c.rm msk i

/-- The B operand of lane `i` (R62, R225). -/
def State.bop (s : State) (f : RRR) (i : Nat) : Lane :=
  if f.ub = 1 then (s.uniform f.uniNum 0).truncate 32 else s.core.rv f.b.toNat i

/-- The first lane of the segment of lane `i` (R222). -/
def seg0 (w i : Nat) : Nat := i - i % w

/-- A word that writes each enabled lane of v[D] with `g`, its events counted and its bound register checked (R221, R224,
R131). -/
def vecWord (h : Hdr) (f : RRR) (lat : Nat) (g : State → Nat → FRes) : State → State :=
  coreWord h fun s =>
    let rs := (s.core.lanes f.msk.toNat).map fun i => (i, g s i)
    s.writeBack lat [.v f.d.toNat (rs.map fun (i, r) => (i, BitVec.ofNat 32 r.code))] (countEv (rs.map Prod.snd)) (some f.d.toNat)

/-- A word that writes each enabled bit of m[D] with `g` (R221). -/
def maskWord (h : Hdr) (f : RRR) (lat : Nat) (g : State → Nat → Bool × NumEv) : State → State :=
  coreWord h fun s =>
    let rs := (s.core.lanes f.msk.toNat).map fun i => (i, g s i)
    s.writeBack lat [.m f.d.toNat (rs.map fun (i, b, _) => (i, b))] (countEv (rs.map fun (_, _, e) => ⟨0, e⟩))

/-- A one-operand FP32 word (R226, R227). -/
def vec1 (h : Hdr) (f : RRR) (lat : Nat) (g : Lane → FRes) : State → State :=
  vecWord h f lat fun s i => g (s.core.rv f.a.toNat i)

/-- A two-operand word (R227, R229). -/
def vec2 (h : Hdr) (f : RRR) (lat : Nat) (g : Lane → Lane → FRes) : State → State :=
  vecWord h f lat fun s i => g (s.core.rv f.a.toNat i) (s.bop f i)

/-- A result without events. -/
def exact (x : Lane) : FRes := ⟨x.toNat, {}⟩

/-! ## Floating-point arithmetic (R226, R227) -/

/-- VADD (R227). -/
def execVadd (h : Hdr) (f : RRR) (s : State) : Out := .next (vec2 h f 4 (fun x y => faddV (.ofCode f.rnd) (f32 x) (f32 y)) s)

/-- VSUB (R227): a NaN y is quietened with its sign unread, so the subtraction adds the negated value. -/
def execVsub (h : Hdr) (f : RRR) (s : State) : Out :=
  .next (vec2 h f 4 (fun x y => faddV (.ofCode f.rnd) (f32 x) (f32 y).negate) s)

/-- VMUL (R227). -/
def execVmul (h : Hdr) (f : RRR) (s : State) : Out := .next (vec2 h f 4 (fun x y => fmulV (.ofCode f.rnd) (f32 x) (f32 y)) s)

/-- VFMA (R227): one rounding. -/
def execVfma (h : Hdr) (f : RRR) (s : State) : Out :=
  .next (vecWord h f 6 (fun s i =>
    ffmaV (.ofCode f.rnd) (f32 (s.core.rv f.a.toNat i)) (f32 (s.bop f i)) (f32 (s.core.rv f.c.toNat i))) s)

/-- VMIN (R227). -/
def execVmin (h : Hdr) (f : RRR) (s : State) : Out := .next (vec2 h f 4 (fminmax false) s)

/-- VMAX (R227). -/
def execVmax (h : Hdr) (f : RRR) (s : State) : Out := .next (vec2 h f 4 (fminmax true) s)

/-- VABS and VNEG of one lane: bit 31 cleared or inverted, a NaN gives the canonical NaN (R227, R112). -/
def signLane (neg : Bool) (x : Lane) : FRes :=
  if (f32 x).isNan then ⟨nan32, { inv := (f32 x).isSnan }⟩
  else exact (if neg then x ^^^ 0x80000000 else x &&& 0x7FFFFFFF)

/-- VABS (R227). -/
def execVabs (h : Hdr) (f : RRR) (s : State) : Out := .next (vec1 h f 4 (signLane false) s)

/-- VNEG (R227). -/
def execVneg (h : Hdr) (f : RRR) (s : State) : Out := .next (vec1 h f 4 (signLane true) s)

/-- VCMP (R227, R113): only a signalling NaN raises the invalid event. -/
def execVcmp (h : Hdr) (f : RRR) (s : State) : Out :=
  .next (maskWord h f 4 (fun s i =>
    let x := f32 (s.core.rv f.a.toNat i)
    let y := f32 (s.bop f i)
    (fcmp (.ofCode f.cnd) x y, { inv := x.isSnan || y.isSnan })) s)

/-- VCLASS (R227). -/
def execVclass (h : Hdr) (f : RRR) (s : State) : Out := .next (vec1 h f 4 (fun x => ⟨fclass x, {}⟩) s)

/-- VRCP (R122, R124). -/
def execVrcp (h : Hdr) (f : RRR) (s : State) : Out := .next (vec1 h f 12 (fun x => vrcp (f32 x)) s)

/-- VRSQ (R122, R124). -/
def execVrsq (h : Hdr) (f : RRR) (s : State) : Out := .next (vec1 h f 12 (fun x => vrsq (f32 x)) s)

/-- VSQRT, rounded under RND (R122, R227). -/
def execVsqrt (h : Hdr) (f : RRR) (s : State) : Out := .next (vec1 h f 12 (fun x => vsqrt (.ofCode f.rnd) (f32 x)) s)

/-- VEXP2 (R122, R124). -/
def execVexp2 (h : Hdr) (f : RRR) (s : State) : Out := .next (vec1 h f 12 (fun x => vexp2 (f32 x)) s)

/-- VLOG2 (R122, R124). -/
def execVlog2 (h : Hdr) (f : RRR) (s : State) : Out := .next (vec1 h f 12 (fun x => vlog2 (f32 x)) s)

/-- VSIN (R122 to R124). -/
def execVsin (h : Hdr) (f : RRR) (s : State) : Out := .next (vec1 h f 12 (fun x => vsin (f32 x)) s)

/-- VCOS (R122 to R124). -/
def execVcos (h : Hdr) (f : RRR) (s : State) : Out := .next (vec1 h f 12 (fun x => vcos (f32 x)) s)

/-- VTANH (R122, R124). -/
def execVtanh (h : Hdr) (f : RRR) (s : State) : Out := .next (vec1 h f 12 (fun x => vtanh (f32 x)) s)

/-- VSIGM (R122, R124). -/
def execVsigm (h : Hdr) (f : RRR) (s : State) : Out := .next (vec1 h f 12 (fun x => vsigm (f32 x)) s)

/-! ## Integer arithmetic (R228, R229) -/

/-- The TY code of an unsigned word. -/
def isUi (f : RRR) : Bool := f.ty == 21

/-- A lane read as an integer: unsigned under .ui32, else signed (R229). -/
def laneInt (un : Bool) (x : Lane) : Int := if un then x.toNat else x.toInt

/-- The exact result e, saturated on request, as a lane (R229). -/
def laneOf (un sat : Bool) (e : Int) : FRes :=
  ⟨wrapTo 32 (if sat then (if un then clampInt 0 (2 ^ 32 - 1) e else clampInt (-(2 ^ 31)) (2 ^ 31 - 1) e) else e), {}⟩

/-- An integer lane word on exact integers (R229). -/
def intLane (f : RRR) (g : Int → Int → Int) (x y : Lane) : FRes :=
  laneOf (isUi f) (f.sat == 1) (g (laneInt (isUi f) x) (laneInt (isUi f) y))

/-- VIADD (R229). -/
def execViadd (h : Hdr) (f : RRR) (s : State) : Out := .next (vec2 h f 4 (intLane f (· + ·)) s)

/-- VISUB (R229). -/
def execVisub (h : Hdr) (f : RRR) (s : State) : Out := .next (vec2 h f 4 (intLane f (· - ·)) s)

/-- VIMUL (R229). -/
def execVimul (h : Hdr) (f : RRR) (s : State) : Out := .next (vec2 h f 4 (intLane f (· * ·)) s)

/-- VIMULH (R229): floor of the product by 2^32. -/
def execVimulh (h : Hdr) (f : RRR) (s : State) : Out := .next (vec2 h f 4 (intLane f (fun x y => x * y / 2 ^ 32)) s)

/-- VIMIN (R229). -/
def execVimin (h : Hdr) (f : RRR) (s : State) : Out := .next (vec2 h f 4 (intLane f min) s)

/-- VIMAX (R229). -/
def execVimax (h : Hdr) (f : RRR) (s : State) : Out := .next (vec2 h f 4 (intLane f max) s)

/-- VIABS (R229). -/
def execViabs (h : Hdr) (f : RRR) (s : State) : Out := .next (vec1 h f 4 (fun x => laneOf false (f.sat == 1) x.toInt.natAbs) s)

/-- VSHL (R229). -/
def execVshl (h : Hdr) (f : RRR) (s : State) : Out :=
  .next (vec2 h f 4 (fun x y => exact (if 32 ≤ y.toNat then 0 else x <<< y.toNat)) s)

/-- VSHR (R229). -/
def execVshr (h : Hdr) (f : RRR) (s : State) : Out :=
  .next (vec2 h f 4 (fun x y => exact (if 32 ≤ y.toNat then 0 else x >>> y.toNat)) s)

/-- VSRA (R229). -/
def execVsra (h : Hdr) (f : RRR) (s : State) : Out := .next (vec2 h f 4 (fun x y => exact (x.sshiftRight (min y.toNat 31))) s)

/-- VAND (R229). -/
def execVand (h : Hdr) (f : RRR) (s : State) : Out := .next (vec2 h f 4 (fun x y => exact (x &&& y)) s)

/-- VOR (R229). -/
def execVor (h : Hdr) (f : RRR) (s : State) : Out := .next (vec2 h f 4 (fun x y => exact (x ||| y)) s)

/-- VXOR (R229). -/
def execVxor (h : Hdr) (f : RRR) (s : State) : Out := .next (vec2 h f 4 (fun x y => exact (x ^^^ y)) s)

/-- VICMP (R229). -/
def execVicmp (h : Hdr) (f : RRR) (s : State) : Out :=
  .next (maskWord h f 4 (fun s i => (icmp (.ofCode f.cnd) 32 (s.core.rv f.a.toNat i).toNat (s.bop f i).toNat, {})) s)

/-- VCLZ (R229). -/
def execVclz (h : Hdr) (f : RRR) (s : State) : Out := .next (vec1 h f 4 (fun x => ⟨clzOf 32 x.toNat, {}⟩) s)

/-- VPOPC (R229). -/
def execVpopc (h : Hdr) (f : RRR) (s : State) : Out := .next (vec1 h f 4 (fun x => ⟨popOf 32 x.toNat, {}⟩) s)

/-! ## Conversion and MX blocks (R230 to R232) -/

/-- The low bits of a lane that hold an element of a type (R220). -/
def codeOf (t : Ty) (x : Lane) : Nat :=
  match t.fmt with
  | some m => x.toNat % 2 ^ m.w
  | none => match t with
    | .e8m0 => x.toNat % 256
    | .i8 => x.toNat % 256
    | .ui8 => x.toNat % 256
    | .i16 => x.toNat % 65536
    | .ui16 => x.toNat % 65536
    | _ => x.toNat

/-- A code of a type as its lane holds it (R220). -/
def laneCode (t : Ty) (code : Nat) : Nat :=
  match t.int with
  | some (w, sg) => laneOfInt w sg code
  | none => code

/-- VCVT (R231). -/
def execVcvt (h : Hdr) (f : RRR) (s : State) : Out :=
  .next (vec1 h f 4 (fun x =>
    let src := Ty.of (BitVec.ofNat 5 (f.aux.toNat / 16))
    let dst := Ty.of f.ty
    let r := convert src dst (.ofCode f.rnd) (f.sat == 1) (codeOf src x)
    ⟨laneCode dst r.code, r.ev⟩) s)

/-- The target format of VBQ: no type is the first of its list (R225, R230). -/
def blockTy (c : BitVec 5) : Ty := if c = 0 then .e4m3 else Ty.of c

/-- VBQ (R232): the codes to v[D] and every lane's block scale to v[C]. -/
def execVbq (h : Hdr) (f : RRR) (s : State) : Out :=
  .next (coreWord h (fun s =>
    let bs := (List.range 4).map fun k =>
      (k, vbqBlock (blockTy f.ty) (.ofCode f.rnd) ((List.range 32).map fun j => (s.core.rv f.a.toNat (32 * k + j)).toNat))
    let codes := bs.flatMap fun (k, _, rs) => (List.range 32).zip rs |>.map fun (j, r) => (32 * k + j, BitVec.ofNat 32 r.code)
    let scales := bs.flatMap fun (k, x, _) => (List.range 32).map fun j => (32 * k + j, BitVec.ofNat 32 x)
    let ev := countEv (bs.flatMap fun (_, _, rs) => rs)
    s.writeBack 6 [.v f.d.toNat codes, .v f.c.toNat scales] ev (some f.d.toNat)) s)

/-- VMXD (R232, R110): it raises no inexact-in-narrow-store event (R130; log entry 144). -/
def execVmxd (h : Hdr) (f : RRR) (s : State) : Out :=
  .next (vecWord h f 4 (fun s i =>
    let src := Ty.of (BitVec.ofNat 5 (f.aux.toNat / 16))
    let e := codeOf src (s.core.rv f.a.toNat i)
    if f.ty = 1 then mxToF32 src (.ofCode f.rnd) ((s.bop f i).toNat % 256) e
    else
      let r := convert src (Ty.of f.ty) (.ofCode f.rnd) false e
      ⟨r.code, { r.ev with inx := false }⟩) s)

/-! ## Movement (R233, R234) -/

/-- A movement word: each enabled lane takes a source lane as it is (R234). -/
def moveWord (h : Hdr) (f : RRR) (lat : Nat) (g : State → Nat → Lane) : State → State :=
  vecWord h f lat fun s i => exact (g s i)

/-- VMOV (R234). -/
def execVmov (h : Hdr) (f : RRR) (s : State) : Out := .next (moveWord h f 2 (fun s i => s.core.rv f.a.toNat i) s)

/-- VBCA (R234). -/
def execVbca (h : Hdr) (f : RRR) (s : State) : Out :=
  .next (moveWord h f 3 (fun s i => s.core.rv f.a.toNat (seg0 s.core.seg i + f.aux.toNat % 128 % s.core.seg)) s)

/-- VEXT (R234). -/
def execVext (h : Hdr) (f : RRR) (s : State) : Out :=
  .next (coreWord h (fun s =>
    let x := s.core.rv f.a.toNat (f.aux.toNat % 128)
    s.writeBack 3 [.a f.d.toNat (if f.ty = 21 then x.zeroExtend 64 else x.signExtend 64)]) s)

/-- VSEL (R234). -/
def execVsel (h : Hdr) (f : RRR) (s : State) : Out :=
  .next (moveWord h f 2 (fun s i => if s.core.rm f.c.toNat i then s.core.rv f.a.toNat i else s.bop f i) s)

/-- VSHF (R234): idx, xor or rot within the segment. -/
def execVshf (h : Hdr) (f : RRR) (s : State) : Out :=
  .next (moveWord h f 3 (fun s i =>
    let w := s.core.seg
    let o := i % w
    let b := (s.bop f i).toNat
    let j := if f.aux.toNat % 4 = 0 then b % w else if f.aux.toNat % 4 = 1 then o ^^^ (b % w) else (o + b) % w
    s.core.rv f.a.toNat (seg0 w i + j)) s)

/-- VQX (R234). -/
def execVqx (h : Hdr) (f : RRR) (s : State) : Out :=
  .next (moveWord h f 3 (fun s i => s.core.rv f.a.toNat (4 * (i / 4) + bitsOf f.aux.toNat (2 * (i % 4)) 2)) s)

/-- VSLD (R234). -/
def execVsld (h : Hdr) (f : RRR) (s : State) : Out :=
  .next (moveWord h f 3 (fun s i =>
    let w := s.core.seg
    let k := i % w + f.aux.toNat % 128 % w
    if k < w then s.core.rv f.a.toNat (seg0 w i + k) else s.core.rv f.b.toNat (seg0 w i + k - w)) s)

/-- VPART (R222, R234): W holds for every word issued in the next cycle or later. -/
def execVpart (h : Hdr) (f : RRI) (s : State) : Out :=
  .next (coreWord h (fun s => s.writeBack 1 [.seg f.imm.toNat]) s)

/-- VIOTA (R234). -/
def execViota (h : Hdr) (f : RRI) (s : State) : Out :=
  .next (coreWord h (fun s =>
    s.writeBack 2 [.v f.d.toNat ((List.range 128).map fun i => (i, f.imm + BitVec.ofInt 32 (f.md.toInt * i)))] {} (some f.d.toNat)) s)

/-- VSPLAT (R234). -/
def execVsplat (h : Hdr) (f : RRI) (s : State) : Out :=
  .next (coreWord h (fun s =>
    let x : Lane := (s.core.ra f.a.toNat).truncate 32 + f.imm
    s.writeBack 2 [.v f.d.toNat ((List.range 128).map fun i => (i, x))] {} (some f.d.toNat)) s)

/-! ## Reductions, votes and masks (R235 to R237) -/

/-- comb of R236 on two lane values. -/
def redComb (f : RRR) (x y : Nat) : FRes :=
  let op := f.aux.toNat % 16
  if f.ty = 1 then
    (if op = 0 then faddV (.ofCode f.rnd) (fmtF32.value x) (fmtF32.value y)
     else fminmax (op == 2) (BitVec.ofNat 32 x) (BitVec.ofNat 32 y))
  else
    let less := if isUi f then decide (x < y) else decide (signedOf x 32 < signedOf y 32)
    ⟨if op = 0 then (x + y) % 2 ^ 32
     else if op = 1 then (if less then x else y)
     else if op = 2 then (if less then y else x)
     else if op = 3 then x &&& y
     else if op = 4 then x ||| y
     else x ^^^ y, {}⟩

/-- comb with absent operands (R236). -/
def redOpt (f : RRR) (a b : Option FRes) : Option FRes :=
  match a, b with
  | some x, some y => let r := redComb f x.code y.code; some ⟨r.code, (x.ev.or y.ev).or r.ev⟩
  | some x, none => some x
  | none, y => y

/-- One level of the tree: neighbours combined. -/
def redPairs (f : RRR) : List (Option FRes) → List (Option FRes)
  | a :: b :: rest => redOpt f a b :: redPairs f rest
  | rest => rest

/-- The tree of R236, at most `fuel` levels. -/
def redTree (f : RRR) : Nat → List (Option FRes) → Option FRes
  | 0, xs => (xs.head?).join
  | n + 1, xs => redTree f n (redPairs f xs)

/-- The segments of width `w`: their first lanes. -/
def segStarts (w : Nat) : List Nat := (List.range (128 / w)).map (· * w)

/-- VRED (R236): each numeric event counts once for its segment. -/
def execVred (h : Hdr) (f : RRR) (s : State) : Out :=
  .next (coreWord h (fun s =>
    let c := s.core
    let rs := (segStarts c.seg).map fun s0 =>
      (s0, redTree f 7 ((List.range c.seg).map fun j =>
        if c.rm f.msk.toNat (s0 + j) then some (exact (c.rv f.a.toNat (s0 + j))) else none))
    let ls := rs.flatMap fun (s0, r) =>
      ((List.range c.seg).filter fun j => c.rm f.msk.toNat (s0 + j)).map fun j => (s0 + j, BitVec.ofNat 32 ((r.map (·.code)).getD 0))
    s.writeBack 8 [.v f.d.toNat ls] (countEv (rs.filterMap Prod.snd)) (some f.d.toNat)) s)

/-- The identity of an operation (R236). -/
def redIdentity (f : RRR) : Nat :=
  let op := f.aux.toNat % 16
  if op = 1 then (if f.ty = 1 then 0x7F800000 else if isUi f then 0xFFFFFFFF else 0x7FFFFFFF)
  else if op = 2 then (if f.ty = 1 then 0xFF800000 else if isUi f then 0 else 0x80000000)
  else if op = 3 then 0xFFFFFFFF
  else 0

/-- The lanes of one segment's scan (R236), with the running value. -/
def scanSeg (f : RRR) (c : Core) (acc : Option FRes) : List Nat → List (Nat × Lane) × Option FRes
  | [] => ([], acc)
  | i :: is =>
    if c.rm f.msk.toNat i then
      let new := redOpt f acc (some (exact (c.rv f.a.toNat i)))
      let res := if f.aux.getLsbD 4 then (acc.map (·.code)).getD (redIdentity f) else (new.map (·.code)).getD 0
      let (ls, last) := scanSeg f c new is
      ((i, BitVec.ofNat 32 res) :: ls, last)
    else scanSeg f c acc is

/-- VSCAN (R236). -/
def execVscan (h : Hdr) (f : RRR) (s : State) : Out :=
  .next (coreWord h (fun s =>
    let c := s.core
    let rs := (segStarts c.seg).map fun s0 => scanSeg f c none ((List.range c.seg).map (s0 + ·))
    s.writeBack 8 [.v f.d.toNat (rs.flatMap Prod.fst)] (countEv (rs.filterMap Prod.snd)) (some f.d.toNat)) s)

/-- The enabled lanes of the segment of lane `i`. -/
def Core.segLanes (c : Core) (msk i : Nat) : List Nat :=
  ((List.range c.seg).map (seg0 c.seg i + ·)).filter fun j => c.rm msk j

/-- VVOTE (R237): any, all or uni over the enabled lanes of the segment. -/
def execVvote (h : Hdr) (f : RRR) (s : State) : Out :=
  .next (maskWord h f 4 (fun s i =>
    let bs := (s.core.segLanes f.msk.toNat i).map fun j => s.core.rm f.a.toNat j
    (if f.aux.toNat % 4 = 0 then bs.any id else if f.aux.toNat % 4 = 1 then bs.all id else bs.all id || bs.all (!·), {})) s)

/-- VMPOP (R237): count, or rank below the lane. -/
def execVmpop (h : Hdr) (f : RRR) (s : State) : Out :=
  .next (vecWord h f 4 (fun s i =>
    let js := (s.core.segLanes f.msk.toNat i).filter fun j => s.core.rm f.a.toNat j
    ⟨(if f.aux.getLsbD 0 then js.filter (fun j => decide (j < i)) else js).length, {}⟩) s)

/-- MLOG (R237). -/
def execMlog (h : Hdr) (f : RRR) (s : State) : Out :=
  .next (maskWord h f 2 (fun s i => (lutVal f.aux.toNat (s.core.rm f.a.toNat i) (s.core.rm f.b.toNat i), {})) s)

/-- MMOVP (R237): any and all write p[D], splat writes m[D]. -/
def execMmovp (h : Hdr) (f : RRR) (s : State) : Out :=
  .next (coreWord h (fun s =>
    let ls := s.core.lanes f.msk.toNat
    if f.aux.toNat % 4 = 2 then s.writeBack 2 [.m f.d.toNat (ls.map fun i => (i, s.core.rp f.a.toNat))]
    else
      let bs := ls.map fun i => s.core.rm f.a.toNat i
      s.writeBack 2 [.p f.d.toNat (if f.aux.toNat % 4 = 0 then bs.any id else bs.all id)]) s)

/-! ## Local-store access (R238 to R243) -/

/-- The bytes of the whole access of a vector word (R239). -/
def vecBytes (t : Ty) : Nat := 64 * t.nibbles

/-- The byte address of half byte `k` of an access from `ea`, swizzled (R240). -/
def nibAddr (sw ea k : Nat) : Nat := swizzle sw (ea + k / 2)

/-- The byte addresses of lane `i`'s element, swizzled. -/
def laneAddrs (t : Ty) (sw ea i : Nat) : List Nat :=
  (List.range ((t.nibbles + 1) / 2)).map fun j => swizzle sw (ea + i * t.nibbles / 2 + j)

/-- The checks of R240 in order. -/
def State.vecCheck (s : State) (t : Ty) (sw ea : Nat) : Option Nat :=
  let as := (addrs ea (vecBytes t)).map (swizzle sw)
  if ea ≥ 2 ^ 63 || as.any fun a => decide (lsEnd ≤ a) then some 0
  else if ea % max 1 (t.nibbles / 2) ≠ 0 then some 1
  else if s.core.portFails s.gcc (bankWords as) || bankClash (bankWords as) then some 2
  else none

/-- The element code of lane `i` in memory (R239). -/
def loadCode (c : Core) (t : Ty) (sw ea i : Nat) : Nat :=
  if t.nibbles = 1 then
    let b := (Memory.byte c.ls (swizzle sw (ea + i / 2))).toNat
    if i % 2 = 0 then b % 16 else b / 16
  else leNat ((laneAddrs t sw ea i).map (Memory.byte c.ls))

/-- A loaded code as the lane it gives (R239). -/
def loadLane (t : Ty) (raw : Bool) (code : Nat) : Nat :=
  match t.int with
  | some (w, sg) => laneOfInt w sg code
  | none =>
    match t with
    | .none => code
    | .f32 => code
    | t =>
      let k := match t.fmt with
        | some m => code % 2 ^ m.w
        | none => code % 256
      if raw then k else widen32 t k

/-- VLD (R239, R240, R243). -/
def execVld (h : Hdr) (f : MEM) (s : State) : Out :=
  .next (coreWord h (fun s =>
    let t := Ty.of f.ty
    let sw := f.swz.toNat
    let ea := s.core.memBase f
    match s.vecCheck t sw ea with
    | some d => s.trapWord 0x0F d
    | none =>
      let as := (addrs ea (vecBytes t)).map (swizzle sw)
      let on := s.core.lanes f.msk.toNat
      let mine := on.flatMap (laneAddrs t sw ea)
      let s := s.usePort (bankWords as)
      if s.core.anyBad mine then s.countPoison.consumePoison as
      else
        let s := s.countCorrected as
        let c := s.core
        let s := s.here fun c => c.poisonUncorrectable as
        s.writeBack 6 [.v f.d.toNat (on.map fun i => (i, BitVec.ofNat 32 (loadLane t (f.aux.getLsbD 1) (loadCode c t sw ea i))))] {} (some f.d.toNat)) s)

/-- The code a VST stores for a lane, and its events (R239). -/
def storeCode (t : Ty) (raw sat : Bool) (x : Lane) : FRes :=
  match t.int with
  | some (w, sg) =>
    if sat && decide (w < 32) then
      let (lo, hi) := intRange w sg
      ⟨wrapTo w (clampInt lo hi (if sg then x.toInt else x.toNat)), {}⟩
    else ⟨x.toNat % 2 ^ w, {}⟩
  | none =>
    match t with
    | .none => exact x
    | .f32 => exact x
    | t => if raw then ⟨codeOf t x, {}⟩ else f32To t .rn sat x.toNat

/-- VST (R239, R240, R243). -/
def execVst (h : Hdr) (f : MEM) (s : State) : Out :=
  .next (coreWord h (fun s =>
    let t := Ty.of f.ty
    let sw := f.swz.toNat
    let ea := s.core.memBase f
    match s.vecCheck t sw ea with
    | some d => s.trapWord 0x0F d
    | none =>
      let as := (addrs ea (vecBytes t)).map (swizzle sw)
      let rs := (s.core.lanes f.msk.toNat).map fun i => (i, storeCode t (f.aux.getLsbD 1) (f.aux.getLsbD 0) (s.core.rv f.d.toNat i))
      let s := s.usePort (bankWords as)
      let s :=
        if t.nibbles = 1 then s.storeNow [] (rs.map fun (i, r) => (2 * swizzle sw (ea + i / 2) + i % 2, r.code))
        else s.storeNow (rs.flatMap fun (i, r) => (laneAddrs t sw ea i).zip (leBytes (t.nibbles / 2) r.code))
      s.writeBack 0 [] (countEv (rs.map Prod.snd))) s)

/-- The element type of VGATH and VSCAT: none is .i32 (R238). -/
def gatherTy (ty : BitVec 5) : Ty := if ty = 0 then .i32 else Ty.of ty

/-- The address of a lane of VGATH or VSCAT (R241). -/
def State.gatherAddr (s : State) (f : RRR) (i : Nat) : Nat :=
  swizzle (f.aux.toNat % 8) (s.core.ra f.a.toNat + (s.bop f i).signExtend 64 <<< (f.aux.toNat / 8 % 4)).toNat

/-- Place bank words by R242: each in the earliest cycle after the last one of its bank with fewer than 32 words. -/
def placeWords : List (Nat × Nat) → List (Nat × Nat) → List (Nat × Nat)
  | [], placed => placed
  | (_, w) :: ws, placed =>
    let lo := (placed.filter fun (_, v) => sameBank v w).foldl (fun m (k, _) => max m (k + 1)) 0
    let k := ((List.range 129).find? fun k => decide (lo ≤ k) && decide ((placed.filter fun (j, _) => j = k).length < 32)).getD lo
    placeWords ws (placed ++ [(k, w)])

/-- Bank words in order of rank within their bank, then bank number (R242). -/
def rankWords (ws : List Nat) : List (Nat × Nat) :=
  let ranked := (List.range ws.length).zip ws |>.map fun (j, w) => (((ws.take j).filter fun v => sameBank v w).length, w)
  ranked.mergeSort fun a b => decide (a.1 < b.1) || (a.1 == b.1 && decide (a.2 % 64 ≤ b.2 % 64))

/-- The checks of R241 and R242, and the placement of the word's bank words by cycle from issue; detail 0x3 comes before 0x2: log entry
145. -/
def State.gatherCheck (s : State) (t : Ty) (as : List Nat) : Nat ⊕ List (Nat × List Nat) :=
  let n := t.nibbles / 2
  if as.any fun a => !lsIn a n then .inl 0
  else if as.any fun a => a % n != 0 then .inl 1
  else
    let ranked := rankWords (bankWords as)
    if ranked.any fun (r, _) => decide (8 ≤ r) then .inl 3
    else
      let placed := placeWords ranked []
      let cycles := ((placed.map Prod.fst).eraseDups).map fun k => (k, (placed.filter fun (j, _) => j = k).map Prod.snd)
      if cycles.any fun (k, ws) => s.core.portFails (s.gcc + k) ws then .inl 2 else .inr cycles

/-- Fix the core-port accesses of a gather or scatter. -/
def State.useCycles (s : State) (cs : List (Nat × List Nat)) : State :=
  forEach cs (fun (k, ws) s => s.here fun c => c.portAdd s.gcc (s.gcc + k) ws) s

/-- VGATH (R241 to R243). -/
def execVgath (h : Hdr) (f : RRR) (s : State) : Out :=
  .next (coreWord h (fun s =>
    let t := gatherTy f.ty
    let n := t.nibbles / 2
    let on := s.core.lanes f.msk.toNat
    let as := on.map (s.gatherAddr f)
    match s.gatherCheck t as with
    | .inl d => s.trapWord 0x0F d
    | .inr cs =>
      let s := s.useCycles cs
      if s.core.anyBad as then s.countPoison.consumePoison as
      else
        let s := s.countCorrected as
        s.writeBack 10 [.v f.d.toNat (on.map fun i =>
          (i, BitVec.ofNat 32 (loadLane t false (Memory.nat s.core.ls (s.gatherAddr f i) n))))] {} (some f.d.toNat)) s)

/-- VSCAT (R241 to R243): lanes in ascending order, so the highest lane's bytes remain. -/
def execVscat (h : Hdr) (f : RRR) (s : State) : Out :=
  .next (coreWord h (fun s =>
    let t := gatherTy f.ty
    let n := t.nibbles / 2
    let on := s.core.lanes f.msk.toNat
    match s.gatherCheck t (on.map (s.gatherAddr f)) with
    | .inl d => s.trapWord 0x0F d
    | .inr cs =>
      (s.useCycles cs).storeNow (on.flatMap fun i => bytesAt (s.gatherAddr f i) n (s.core.rv f.d.toNat i).toNat)) s)

/-- VHINT (R76): as NOP. -/
def execVhint (_h : Hdr) (_n : BitVec 3) (_value : BitVec 50) (s : State) : Out := .next s

end Sys2Proof.Machine
end

