-- ==== Sys2Proof/Machine/Dispatch.lean ====
section
/-! DEFINITION. One arm per constructor of Instr. -/

namespace Sys2Proof.Machine

open Sys2Proof

/-- The meaning of every instruction and event. -/
def exec (i : Instr) (s : State) : Host.Outcome State Fault Refusal :=
  match i with
  | .nop c h => Sys2Proof.Machine.execNop c h s
  | .vhint h n value => Sys2Proof.Machine.execVhint h n value s
  | .br h f => Sys2Proof.Machine.execBr h f s
  | .brc h f => Sys2Proof.Machine.execBrc h f s
  | .loop h f => Sys2Proof.Machine.execLoop h f s
  | .call h f => Sys2Proof.Machine.execCall h f s
  | .ret h f => Sys2Proof.Machine.execRet h f s
  | .fbset h f => Sys2Proof.Machine.execFbset h f s
  | .fbabs h f => Sys2Proof.Machine.execFbabs h f s
  | .slack h f => Sys2Proof.Machine.execSlack h f s
  | .halt h => Sys2Proof.Machine.execHalt h s
  | .trap h f => Sys2Proof.Machine.execTrap h f s
  | .brk h f => Sys2Proof.Machine.execBrk h f s
  | .prept h f => Sys2Proof.Machine.execPrept h f s
  | .idemb h f => Sys2Proof.Machine.execIdemb h f s
  | .ideme h => Sys2Proof.Machine.execIdeme h s
  | .galign h f => Sys2Proof.Machine.execGalign h f s
  | .dccrd h f => Sys2Proof.Machine.execDccrd h f s
  | .crd h f => Sys2Proof.Machine.execCrd h f s
  | .cwr h f => Sys2Proof.Machine.execCwr h f s
  | .qvote h f => Sys2Proof.Machine.execQvote h f s
  | .uniformAdd h f => Sys2Proof.Machine.execUniformAdd h f s
  | .uniformSub h f => Sys2Proof.Machine.execUniformSub h f s
  | .uniformAddi h f => Sys2Proof.Machine.execUniformAddi h f s
  | .uniformMul h f => Sys2Proof.Machine.execUniformMul h f s
  | .uniformMulh h f => Sys2Proof.Machine.execUniformMulh h f s
  | .uniformMulhu h f => Sys2Proof.Machine.execUniformMulhu h f s
  | .uniformDiv h f => Sys2Proof.Machine.execUniformDiv h f s
  | .uniformDivu h f => Sys2Proof.Machine.execUniformDivu h f s
  | .uniformRem h f => Sys2Proof.Machine.execUniformRem h f s
  | .uniformRemu h f => Sys2Proof.Machine.execUniformRemu h f s
  | .uniformAnd h f => Sys2Proof.Machine.execUniformAnd h f s
  | .uniformOr h f => Sys2Proof.Machine.execUniformOr h f s
  | .uniformXor h f => Sys2Proof.Machine.execUniformXor h f s
  | .uniformAndn h f => Sys2Proof.Machine.execUniformAndn h f s
  | .uniformShl h f => Sys2Proof.Machine.execUniformShl h f s
  | .uniformShr h f => Sys2Proof.Machine.execUniformShr h f s
  | .uniformSra h f => Sys2Proof.Machine.execUniformSra h f s
  | .uniformRotl h f => Sys2Proof.Machine.execUniformRotl h f s
  | .uniformMin h f => Sys2Proof.Machine.execUniformMin h f s
  | .uniformMax h f => Sys2Proof.Machine.execUniformMax h f s
  | .uniformMinu h f => Sys2Proof.Machine.execUniformMinu h f s
  | .uniformMaxu h f => Sys2Proof.Machine.execUniformMaxu h f s
  | .uniformCmp h f => Sys2Proof.Machine.execUniformCmp h f s
  | .uniformPlog h f => Sys2Proof.Machine.execUniformPlog h f s
  | .uniformSel h f => Sys2Proof.Machine.execUniformSel h f s
  | .uniformMov h f => Sys2Proof.Machine.execUniformMov h f s
  | .uniformMovi h f => Sys2Proof.Machine.execUniformMovi h f s
  | .uniformMovhi h f => Sys2Proof.Machine.execUniformMovhi h f s
  | .uniformClz h f => Sys2Proof.Machine.execUniformClz h f s
  | .uniformPopc h f => Sys2Proof.Machine.execUniformPopc h f s
  | .uniformBrev h f => Sys2Proof.Machine.execUniformBrev h f s
  | .uniformBfx h f => Sys2Proof.Machine.execUniformBfx h f s
  | .uniformBfi h f => Sys2Proof.Machine.execUniformBfi h f s
  | .uniformAddsh h f => Sys2Proof.Machine.execUniformAddsh h f s
  | .add h f => Sys2Proof.Machine.execAdd h f s
  | .sub h f => Sys2Proof.Machine.execSub h f s
  | .addi h f => Sys2Proof.Machine.execAddi h f s
  | .mul h f => Sys2Proof.Machine.execMul h f s
  | .mulh h f => Sys2Proof.Machine.execMulh h f s
  | .mulhu h f => Sys2Proof.Machine.execMulhu h f s
  | .div h f => Sys2Proof.Machine.execDiv h f s
  | .divu h f => Sys2Proof.Machine.execDivu h f s
  | .rem h f => Sys2Proof.Machine.execRem h f s
  | .remu h f => Sys2Proof.Machine.execRemu h f s
  | .and h f => Sys2Proof.Machine.execAnd h f s
  | .or h f => Sys2Proof.Machine.execOr h f s
  | .xor h f => Sys2Proof.Machine.execXor h f s
  | .andn h f => Sys2Proof.Machine.execAndn h f s
  | .shl h f => Sys2Proof.Machine.execShl h f s
  | .shr h f => Sys2Proof.Machine.execShr h f s
  | .sra h f => Sys2Proof.Machine.execSra h f s
  | .rotl h f => Sys2Proof.Machine.execRotl h f s
  | .min h f => Sys2Proof.Machine.execMin h f s
  | .max h f => Sys2Proof.Machine.execMax h f s
  | .minu h f => Sys2Proof.Machine.execMinu h f s
  | .maxu h f => Sys2Proof.Machine.execMaxu h f s
  | .cmp h f => Sys2Proof.Machine.execCmp h f s
  | .plog h f => Sys2Proof.Machine.execPlog h f s
  | .sel h f => Sys2Proof.Machine.execSel h f s
  | .mov h f => Sys2Proof.Machine.execMov h f s
  | .movi h f => Sys2Proof.Machine.execMovi h f s
  | .movhi h f => Sys2Proof.Machine.execMovhi h f s
  | .clz h f => Sys2Proof.Machine.execClz h f s
  | .popc h f => Sys2Proof.Machine.execPopc h f s
  | .brev h f => Sys2Proof.Machine.execBrev h f s
  | .bfx h f => Sys2Proof.Machine.execBfx h f s
  | .bfi h f => Sys2Proof.Machine.execBfi h f s
  | .addsh h f => Sys2Proof.Machine.execAddsh h f s
  | .movk h f => Sys2Proof.Machine.execMovk h f s
  | .ld h f => Sys2Proof.Machine.execLd h f s
  | .st h f => Sys2Proof.Machine.execSt h f s
  | .amo h f => Sys2Proof.Machine.execAmo h f s
  | .acas h f => Sys2Proof.Machine.execAcas h f s
  | .vadd h f => Sys2Proof.Machine.execVadd h f s
  | .vsub h f => Sys2Proof.Machine.execVsub h f s
  | .vmul h f => Sys2Proof.Machine.execVmul h f s
  | .vfma h f => Sys2Proof.Machine.execVfma h f s
  | .vmin h f => Sys2Proof.Machine.execVmin h f s
  | .vmax h f => Sys2Proof.Machine.execVmax h f s
  | .vabs h f => Sys2Proof.Machine.execVabs h f s
  | .vneg h f => Sys2Proof.Machine.execVneg h f s
  | .vcmp h f => Sys2Proof.Machine.execVcmp h f s
  | .vclass h f => Sys2Proof.Machine.execVclass h f s
  | .vrcp h f => Sys2Proof.Machine.execVrcp h f s
  | .vrsq h f => Sys2Proof.Machine.execVrsq h f s
  | .vsqrt h f => Sys2Proof.Machine.execVsqrt h f s
  | .vexp2 h f => Sys2Proof.Machine.execVexp2 h f s
  | .vlog2 h f => Sys2Proof.Machine.execVlog2 h f s
  | .vsin h f => Sys2Proof.Machine.execVsin h f s
  | .vcos h f => Sys2Proof.Machine.execVcos h f s
  | .vtanh h f => Sys2Proof.Machine.execVtanh h f s
  | .vsigm h f => Sys2Proof.Machine.execVsigm h f s
  | .viadd h f => Sys2Proof.Machine.execViadd h f s
  | .visub h f => Sys2Proof.Machine.execVisub h f s
  | .vimul h f => Sys2Proof.Machine.execVimul h f s
  | .vimulh h f => Sys2Proof.Machine.execVimulh h f s
  | .vimin h f => Sys2Proof.Machine.execVimin h f s
  | .vimax h f => Sys2Proof.Machine.execVimax h f s
  | .viabs h f => Sys2Proof.Machine.execViabs h f s
  | .vshl h f => Sys2Proof.Machine.execVshl h f s
  | .vshr h f => Sys2Proof.Machine.execVshr h f s
  | .vsra h f => Sys2Proof.Machine.execVsra h f s
  | .vand h f => Sys2Proof.Machine.execVand h f s
  | .vor h f => Sys2Proof.Machine.execVor h f s
  | .vxor h f => Sys2Proof.Machine.execVxor h f s
  | .vicmp h f => Sys2Proof.Machine.execVicmp h f s
  | .vclz h f => Sys2Proof.Machine.execVclz h f s
  | .vpopc h f => Sys2Proof.Machine.execVpopc h f s
  | .vcvt h f => Sys2Proof.Machine.execVcvt h f s
  | .vbq h f => Sys2Proof.Machine.execVbq h f s
  | .vmxd h f => Sys2Proof.Machine.execVmxd h f s
  | .vmov h f => Sys2Proof.Machine.execVmov h f s
  | .vbca h f => Sys2Proof.Machine.execVbca h f s
  | .vext h f => Sys2Proof.Machine.execVext h f s
  | .vsel h f => Sys2Proof.Machine.execVsel h f s
  | .vshf h f => Sys2Proof.Machine.execVshf h f s
  | .vqx h f => Sys2Proof.Machine.execVqx h f s
  | .vsld h f => Sys2Proof.Machine.execVsld h f s
  | .vpart h f => Sys2Proof.Machine.execVpart h f s
  | .viota h f => Sys2Proof.Machine.execViota h f s
  | .vsplat h f => Sys2Proof.Machine.execVsplat h f s
  | .vred h f => Sys2Proof.Machine.execVred h f s
  | .vscan h f => Sys2Proof.Machine.execVscan h f s
  | .vvote h f => Sys2Proof.Machine.execVvote h f s
  | .vmpop h f => Sys2Proof.Machine.execVmpop h f s
  | .mlog h f => Sys2Proof.Machine.execMlog h f s
  | .mmovp h f => Sys2Proof.Machine.execMmovp h f s
  | .vld h f => Sys2Proof.Machine.execVld h f s
  | .vst h f => Sys2Proof.Machine.execVst h f s
  | .vgath h f => Sys2Proof.Machine.execVgath h f s
  | .vscat h f => Sys2Proof.Machine.execVscat h f s
  | .mtd h f => Sys2Proof.Machine.execMtd h f s
  | .mtz h f => Sys2Proof.Machine.execMtz h f s
  | .mma h f => Sys2Proof.Machine.execMma h f s
  | .mmax h f => Sys2Proof.Machine.execMmax h f s
  | .mmas h f => Sys2Proof.Machine.execMmas h f s
  | .mfwd h f => Sys2Proof.Machine.execMfwd h f s
  | .mtv h f => Sys2Proof.Machine.execMtv h f s
  | .mvt h f => Sys2Proof.Machine.execMvt h f s
  | .mtt h f => Sys2Proof.Machine.execMtt h f s
  | .mscl h f => Sys2Proof.Machine.execMscl h f s
  | .mtld h f => Sys2Proof.Machine.execMtld h f s
  | .mtst h f => Sys2Proof.Machine.execMtst h f s
  | .shpLoad h f => Sys2Proof.Machine.execShpLoad h f s
  | .shpEdit h f => Sys2Proof.Machine.execShpEdit h f s
  | .tfetch h f => Sys2Proof.Machine.execTfetch h f s
  | .tstore h f => Sys2Proof.Machine.execTstore h f s
  | .tgath h f => Sys2Proof.Machine.execTgath h f s
  | .tscat h f => Sys2Proof.Machine.execTscat h f s
  | .warm h f => Sys2Proof.Machine.execWarm h f s
  | .wchk h f => Sys2Proof.Machine.execWchk h f s
  | .walw h f => Sys2Proof.Machine.execWalw h f s
  | .wrd h f => Sys2Proof.Machine.execWrd h f s
  | .wccrd h f => Sys2Proof.Machine.execWccrd h f s
  | .mfence h f => Sys2Proof.Machine.execMfence h f s
  | .mcmdCopy h f => Sys2Proof.Machine.execMcmdCopy h f s
  | .mcmdFill h f => Sys2Proof.Machine.execMcmdFill h f s
  | .mcmdReduce h f => Sys2Proof.Machine.execMcmdReduce h f s
  | .mired h f => Sys2Proof.Machine.execMired h f s
  | .maadd h f => Sys2Proof.Machine.execMaadd h f s
  | .send h f => Sys2Proof.Machine.execSend h f s
  | .recv h f => Sys2Proof.Machine.execRecv h f s
  | .sendt h f => Sys2Proof.Machine.execSendt h f s
  | .recvt h f => Sys2Proof.Machine.execRecvt h f s
  | .fput h f => Sys2Proof.Machine.execFput h f s
  | .facc h f => Sys2Proof.Machine.execFacc h f s
  | .cbase h f => Sys2Proof.Machine.execCbase h f s
  | .crun h f => Sys2Proof.Machine.execCrun h f s
  | .cstat h f => Sys2Proof.Machine.execCstat h f s
  | .clauseStart id => Sys2Proof.Machine.execClauseStart id s
  | .registerWriteBack w => Sys2Proof.Machine.execRegisterWriteBack w s
  | .eventCounterWindow n => Sys2Proof.Machine.execEventCounterWindow n s
  | .tileGroupAccess g => Sys2Proof.Machine.execTileGroupAccess g s
  | .streamCycleArrival c => Sys2Proof.Machine.execStreamCycleArrival c s
  | .meshEntryArrival port e announced => Sys2Proof.Machine.execMeshEntryArrival port e announced s
  | .recvtEntryWrite port addr => Sys2Proof.Machine.execRecvtEntryWrite port addr s
  | .putPieceDelivery piece => Sys2Proof.Machine.execPutPieceDelivery piece s
  | .fetchSnapshot id => Sys2Proof.Machine.execFetchSnapshot id s
  | .fetchLanding id k => Sys2Proof.Machine.execFetchLanding id k s
  | .miredLanding id k => Sys2Proof.Machine.execMiredLanding id k s
  | .storeWriteCompletion id => Sys2Proof.Machine.execStoreWriteCompletion id s
  | .maaddEffect id => Sys2Proof.Machine.execMaaddEffect id s
  | .mcmdBlockEffect id b effect => Sys2Proof.Machine.execMcmdBlockEffect id b effect s
  | .mcmdCompletion id => Sys2Proof.Machine.execMcmdCompletion id s
  | .mfenceCompletion w => Sys2Proof.Machine.execMfenceCompletion w s
  | .moduleScheduleEntry m op => Sys2Proof.Machine.execModuleScheduleEntry m op s
  | .moduleScheduleDrain m => Sys2Proof.Machine.execModuleScheduleDrain m s
  | .lastCall id => Sys2Proof.Machine.execLastCall id s
  | .gangHold h => Sys2Proof.Machine.execGangHold h s
  | .holdQuantum k => Sys2Proof.Machine.execHoldQuantum k s
  | .holdEnd => Sys2Proof.Machine.execHoldEnd s
  | .gangResume => Sys2Proof.Machine.execGangResume s
  | .regionRestart => Sys2Proof.Machine.execRegionRestart s
  | .pointReport r => Sys2Proof.Machine.execPointReport r s
  | .reportTimeout kind k => Sys2Proof.Machine.execReportTimeout kind k s
  | .galignAlignment k scope => Sys2Proof.Machine.execGalignAlignment k scope s
  | .gangStop code news => Sys2Proof.Machine.execGangStop code news s
  | .planRecv plan entry => Sys2Proof.Machine.execPlanRecv plan entry s
  | .planSend plan entry k => Sys2Proof.Machine.execPlanSend plan entry k s
  | .planReduce plan entry k => Sys2Proof.Machine.execPlanReduce plan entry k s
  | .planForward plan entry k => Sys2Proof.Machine.execPlanForward plan entry k s
  | .planDeliver plan entry k => Sys2Proof.Machine.execPlanDeliver plan entry k s
  | .beatLanding msg => Sys2Proof.Machine.execBeatLanding msg s
  | .runCompletion plan => Sys2Proof.Machine.execRunCompletion plan s
  | .pnop strm => Sys2Proof.Machine.execPnop strm s
  | .launch strm p => Sys2Proof.Machine.execLaunch strm p s
  | .semwait strm p => Sys2Proof.Machine.execSemwait strm p s
  | .semwaitPoll strm => Sys2Proof.Machine.execSemwaitPoll strm s
  | .semwaitTimeout strm => Sys2Proof.Machine.execSemwaitTimeout strm s
  | .semsig strm addr value add fails => Sys2Proof.Machine.execSemsig strm addr value add fails s
  | .mapx strm c => Sys2Proof.Machine.execMapx strm c s
  | .planld strm taskid plan report => Sys2Proof.Machine.execPlanld strm taskid plan report s
  | .hcopy strm src dst bytes fails => Sys2Proof.Machine.execHcopy strm src dst bytes fails s
  | .qfence strm => Sys2Proof.Machine.execQfence strm s
  | .preempt strm p => Sys2Proof.Machine.execPreempt strm p s
  | .resume strm p => Sys2Proof.Machine.execResume strm p s
  | .wrdone addr => Sys2Proof.Machine.execWrdone addr s
  | .readyMessage m => Sys2Proof.Machine.execReadyMessage m s
  | .gangGoAbort gangTag go bad slow => Sys2Proof.Machine.execGangGoAbort gangTag go bad slow s
  | .retirementCommit row => Sys2Proof.Machine.execRetirementCommit row s
  | .identityFrame port => Sys2Proof.Machine.execIdentityFrame port s
  | .quiesceComplete port => Sys2Proof.Machine.execQuiesceComplete port s
  | .discard => Sys2Proof.Machine.execDiscard s
  | .dispatcherRead => Sys2Proof.Machine.execDispatcherRead s
  | .ingressBufferDrain => Sys2Proof.Machine.execIngressBufferDrain s
  | .moduleScheduleStall m bound => Sys2Proof.Machine.execModuleScheduleStall m bound s
  | .rowSparing m sector drow cause => Sys2Proof.Machine.execRowSparing m sector drow cause s
  | .moduleOffline m reports => Sys2Proof.Machine.execModuleOffline m reports s
  | .deliverAtArrival id => Sys2Proof.Machine.execDeliverAtArrival id s
  | .arrivalBoundReport l => Sys2Proof.Machine.execArrivalBoundReport l s
  | .holdRequest h n late => Sys2Proof.Machine.execHoldRequest h n late s
  | .slackArm amount since => Sys2Proof.Machine.execSlackArm amount since s
  | .elasticBufferMargin => Sys2Proof.Machine.execElasticBufferMargin s
  | .slackStarvation => Sys2Proof.Machine.execSlackStarvation s
  | .coreStop => Sys2Proof.Machine.execCoreStop s
  | .handlerEntry => Sys2Proof.Machine.execHandlerEntry s
  | .singleStepTrap => Sys2Proof.Machine.execSingleStepTrap s
  | .taskLaunch => Sys2Proof.Machine.execTaskLaunch s
  | .taskEnd => Sys2Proof.Machine.execTaskEnd s
  | .runPairingCheck plan peer => Sys2Proof.Machine.execRunPairingCheck plan peer s
  | .streamEnable strm => Sys2Proof.Machine.execStreamEnable strm s
  | .streamDoorbell strm tail => Sys2Proof.Machine.execStreamDoorbell strm tail s
  | .serrClear strm => Sys2Proof.Machine.execSerrClear strm s
  | .dispatchGrant => Sys2Proof.Machine.execDispatchGrant s
  | .pageWalkRetry => Sys2Proof.Machine.execPageWalkRetry s
  | .preemptPending => Sys2Proof.Machine.execPreemptPending s
  | .preemptDrainEnd => Sys2Proof.Machine.execPreemptDrainEnd s
  | .saveComplete => Sys2Proof.Machine.execSaveComplete s
  | .restoreLaunch => Sys2Proof.Machine.execRestoreLaunch s
  | .mpCoarseTune port => Sys2Proof.Machine.execMpCoarseTune port s
  | .mpLock port => Sys2Proof.Machine.execMpLock port s
  | .mpRotation port => Sys2Proof.Machine.execMpRotation port s
  | .mpEyeTraining port => Sys2Proof.Machine.execMpEyeTraining port s
  | .mpGoLive port => Sys2Proof.Machine.execMpGoLive port s
  | .mpStepComplete port r => Sys2Proof.Machine.execMpStepComplete port r s
  | .memoryPortDisable port => Sys2Proof.Machine.execMemoryPortDisable port s
  | .mpspareForce port => Sys2Proof.Machine.execMpspareForce port s
  | .flitCrcFailure place fails late flits => Sys2Proof.Machine.execFlitCrcFailure place fails late flits s
  | .ringLockLoss port ring late => Sys2Proof.Machine.execRingLockLoss port ring late s
  | .spareLive port => Sys2Proof.Machine.execSpareLive port s
  | .marginScan port r => Sys2Proof.Machine.execMarginScan port r s
  | .laserEnable n on => Sys2Proof.Machine.execLaserEnable n on s
  | .biasServoStep n bias pwr => Sys2Proof.Machine.execBiasServoStep n bias pwr s
  | .laserFailure n => Sys2Proof.Machine.execLaserFailure n s
  | .join node port frame => Sys2Proof.Machine.execJoin node port frame s
  | .leave => Sys2Proof.Machine.execLeave s
  | .referenceLoss => Sys2Proof.Machine.execReferenceLoss s
  | .nbindGo => Sys2Proof.Machine.execNbindGo s
  | .scaleUpEnable port on => Sys2Proof.Machine.execScaleUpEnable port on s
  | .quiesceRequest port on => Sys2Proof.Machine.execQuiesceRequest port on s
  | .scaleUpLaneFailure port => Sys2Proof.Machine.execScaleUpLaneFailure port s
  | .identityFrameReceipt port serial node pport => Sys2Proof.Machine.execIdentityFrameReceipt port serial node pport s
  | .keySwitch port => Sys2Proof.Machine.execKeySwitch port s
  | .keyRelease key => Sys2Proof.Machine.execKeyRelease key s
  | .packageReset cause r => Sys2Proof.Machine.execPackageReset cause r s
  | .pcieTrainingRetry ok => Sys2Proof.Machine.execPcieTrainingRetry ok s
  | .retirementPending row x => Sys2Proof.Machine.execRetirementPending row x s
  | .getVersion => Sys2Proof.Machine.execGetVersion s
  | .getCapabilities => Sys2Proof.Machine.execGetCapabilities s
  | .negotiateAlgorithms offered => Sys2Proof.Machine.execNegotiateAlgorithms offered s
  | .getDigests => Sys2Proof.Machine.execGetDigests s
  | .getCertificate slot => Sys2Proof.Machine.execGetCertificate slot s
  | .challenge slot => Sys2Proof.Machine.execChallenge slot s
  | .getMeasurements index signed => Sys2Proof.Machine.execGetMeasurements index signed s
  | .keyExchange slot => Sys2Proof.Machine.execKeyExchange slot s
  | .finish verified => Sys2Proof.Machine.execFinish verified s
  | .endSession => Sys2Proof.Machine.execEndSession s
  | .unsupportedRequest => Sys2Proof.Machine.execUnsupportedRequest s
  | .mctpControl command => Sys2Proof.Machine.execMctpControl command s
  | .fwload q ofs flags len data => Sys2Proof.Machine.execFwload q ofs flags len data s
  | .svncommit q svn => Sys2Proof.Machine.execSvncommit q svn s
  | .reset q kind r => Sys2Proof.Machine.execReset q kind r s
  | .setkey q port slot dir key => Sys2Proof.Machine.execSetkey q port slot dir key s
  | .regread q ofs => Sys2Proof.Machine.execRegread q ofs s
  | .dbginWrite row x => Sys2Proof.Machine.execDbginWrite row x s
  | .dbgoutRead row => Sys2Proof.Machine.execDbgoutRead row s
  | .wearSample dies => Sys2Proof.Machine.execWearSample dies s
  | .thermalWarning die => Sys2Proof.Machine.execThermalWarning die s
  | .thermalTrip die r => Sys2Proof.Machine.execThermalTrip die r s
  | .supplyTrip r => Sys2Proof.Machine.execSupplyTrip r s
  | .registerWrite reg x => Sys2Proof.Machine.execRegisterWrite reg x s
  | .slackHoldEnd => Sys2Proof.Machine.execSlackHoldEnd s
  | .exchangeDieForwarding x => Sys2Proof.Machine.execExchangeDieForwarding x s
  | .laneRetrainingComplete port ring => Sys2Proof.Machine.execLaneRetrainingComplete port ring s
  | .portTrainingComplete port lflt serial node pport => Sys2Proof.Machine.execPortTrainingComplete port lflt serial node pport s
  | .laserOk n => Sys2Proof.Machine.execLaserOk n s

end Sys2Proof.Machine
end

