-- ==== Sys2Proof/Machine/Run.lean ====
section
/-! DEFINITION. The later parts of instruction words that the table of operations does not list as events (Cont), each one
call of the operation that carries it out, and the placing of one instruction where the machine runs it next. -/

namespace Sys2Proof.Machine

open Sys2Proof

/-- Carry out a later part of a word. -/
def runCont (c : Cont) (s : State) : State :=
  match c with
  | .lsWrite bytes nibs => s.here fun c => (c.store bytes []).storeNibs nibs
  | .engWrite bytes poison => s.here fun c => c.store bytes poison
  | .rxFree port n => s.here fun c => c.modRx port fun b => { b with occupied := b.occupied - n }
  | .sendtRead port addr i u => s.sendtPiece port addr i u
  | .putRead src n done desc route lat order => s.putPiece src n done desc route lat order
  | .sourceRead id k => s.sourceRead id k
  | .trapAfter code info => s.trapAfter code info
  | .voteSample pn mode d handler wid acc => s.voteSample pn mode d handler wid acc
  | .crdSample sel d handler wid => s.crdSample sel d handler wid
  | .fetchFrom addr => s.fetchFrom addr
  | .badRead detail addr => s.trapDispatch 1 detail addr
  | .rowEnd => s.rowEnd
  | .freezeSched => s.freezeSched
  | .resumeRequest => (s.hereRow fun w => { w with wantsResume := true }).checkResume s.cur.slot
  | .chunkWrite _ addr beat => s.writeChunk addr beat
  | .deliverBeat addr beat bar plan entry => s.deliverBeat addr beat bar plan entry
  | .countByte _ w => s.here fun c => c.countBar w 1 false false false
  | .collectiveWrite bytes poison => s.here fun c => c.store bytes poison
  | .planFault _ detail entry => s.planFault detail entry
  | .release n => s.release n
  | .slackBegin budget => s.slackBegin budget
  | .evqFlush => s.evqFlush
  | .frontEnd strm => s.frontEnd strm
  | .launchLimit strm id => s.launchLimit strm id
  | .goJudge gangTag members cwd => s.goJudge gangTag members cwd
  | .retryRows => s.retryRows
  | .idle => s
  | .endFence => s.endFence
  | .stopReached code => s.stopReached code
  | .interrupt vector => s.interrupt vector
  | .cwrCore sel x => s.cwrCore sel x
  | .rowSwitch m k d c => s.rowSwitch m k d c
  | .pairing plan => s.pairing plan
  | .preemptNow => s.preemptNow
  | .preptTake lrec => s.preptTake lrec
  | .marginScan port => s.scanAgain port
  | .spareLive port => s.spareLive port
  | .retrained port ring => s.retrained port ring
  | .report strm addr bytes => s.putReport strm addr bytes
  | .imageWrite img => s.writeImage s.cur.slot img
  | .keptLate l => s.boundReport l

/-- The instruction that a module command is (R329): the OP byte of its block in the local store names it. -/
def State.resolve (s : State) (i : Instr) : Instr :=
  match i with
  | .mcmdCopy h f =>
    let op := Memory.nat s.core.ls (s.core.ra f.a.toNat).toNat 1
    if op = 2 then .mcmdFill h f else if op = 3 then .mcmdReduce h f else i
  | _ => i

/-- Row 0 of task slot 0 holds a stream of one clause, whose header and word are `w`'s two words, and that word is the next
work of the machine. -/
def State.placeWord (s : State) (w : Nat) : State :=
  let hdr : Word := BitVec.ofNat 64 w
  let k := clauseHdrOf hdr
  let c : Clause :=
    { id := s.next, addr := 0, cls := k.cls.toNat, cnt := 1, start := k.start.toNat, fb := some (s.taskAt 0).gcc, wait := 0,
      read := true, delivered := some (s.taskAt 0).gcc, handler := s.rows[0].handler }
  let e : Entry :=
    { gang := true, due := (s.taskAt 0).gcc, rank := 0, ord := 0, slot := 0, row := 0, core := 0,
      part := if k.cls = 0 then .seq else .core, work := .word s.next 0 }
  let s := s.modTask 0 fun t =>
    { t with live := true, nrows := max 1 t.nrows, members := max 1 t.members, holding := none, slackHold := false }
  let s := s.modRow 0 fun r =>
    { r with present := true, task := some 0, running := true, sigma := none, slen := 2,
             sram := Sparse.set 0 (Sparse.set 0 r.sram 0 hdr) 1 (BitVec.ofNat 64 (w / 2 ^ 64)), clauses := c :: r.clauses }
  let s := s.modCore 0 0 fun k => { k with sigma := none }
  { s with agenda := e :: s.agenda, next := s.next + 1 }

end Sys2Proof.Machine
end

