-- ==== Sys2Proof/Machine/Step.lean ====
section
/-! DEFINITION. One step of the machine: the next work that is due in this domain cycle, or, when nothing is due, the
passing of one domain cycle (R25). -/

namespace Sys2Proof.Machine

open Sys2Proof

/-- A word issues: it is read from the row's instruction SRAM, decoded and carried out (R23, R57). -/
def stepWord (s : State) : Host.Outcome State Fault Refusal :=
  match s.word? with
  | none => .fault .clauseGone
  | some (c, i, k, w) =>
    match decodeWord k w with
    | .error _ => .fault .wordChanged
    | .ok ins =>
      let t := s.beforeWord c i k w
      match exec (t.resolve ins) t with
      | .next u => .next (u.afterWord c i k s.cur)
      | .fault x => .fault x
      | .refused x => .refused x

/-- One step. -/
def step (s : State) : Host.Outcome State Fault Refusal :=
  match s.pick with
  | none => .next s.tick
  | some (e, rest) =>
    let s := { s with agenda := rest, cur := e }
    match e.work with
    | .ev i => exec i s
    | .cont c => .next (runCont c s)
    | .word _ _ => stepWord s

/-- The state with one instruction placed as the machine's next work: the low 64 bits of `w` are its clause header, the
next 64 its word. -/
def State.withFetchWord (s : State) (_nbits w : Nat) : State := s.placeWord w

end Sys2Proof.Machine
end

