-- ==== Sys2Proof/Safety.lean ====
section
/-! DEFINITION. What counts as a safe run: no step ends in a fault or a refusal, and the state keeps its form. -/

namespace Sys2Proof

open Sys2Proof.Machine

/-- The outcome is a next state. -/
def Completes (o : Host.Outcome State Fault Refusal) : Prop := ∃ t, o = .next t

/-- The module memory, as it stands and as it stood when a schedule stalled, the host memory and the local store of every core are in
their canonical form. -/
def MemoryForm (s : State) : Prop :=
  Memory.wf s.modMem = true ∧ (∀ b, s.modBase = some b → Memory.wf b.1 = true) ∧ Memory.wf s.host = true ∧
    ∀ r c : Fin 8, Memory.wf (s.coreAt r c).ls = true

end Sys2Proof
end

