-- ==== Sys2Proof/Certificates/Slice0/Obligations.lean ====
section
/-! DEFINITION. The statements about the model that the provers settle. Each cites the rules it formalises; `Sys2Proof.Claims`
holds the tables and phrases they share. -/

open Sys2Proof Sys2Proof.Machine

namespace Sys2Proof.Claims

/-! ## Phrases -/

/-- The outcome of an instruction is the next state `t`. -/
abbrev Gives (i : Instr) (s t : State) : Prop := exec i s = .next t

/-- The agenda holds work due at a GCC of the present task. -/
def DueAt (s : State) (g : Nat) (w : Work) : Prop := ∃ e ∈ s.agenda, e.gang = true ∧ e.slot = s.cur.slot ∧ e.due = g ∧ e.work = w

/-- The agenda holds work due at a DCC. -/
def DueAtDcc (s : State) (d : Nat) (w : Work) : Prop := ∃ e ∈ s.agenda, e.gang = false ∧ e.due = d ∧ e.work = w

/-- Two states agree in every register, memory, task and package field; they may differ in the agenda, in the model's counter and
in the cursor. -/
def SameMachine (s t : State) : Prop :=
  t.dcc = s.dcc ∧ t.rows = s.rows ∧ t.cores = s.cores ∧ t.tasks = s.tasks ∧ t.modMem = s.modMem ∧ t.modCls = s.modCls ∧ t.host = s.host
    ∧ t.pkg = s.pkg ∧ t.sent = s.sent ∧ t.modBase = s.modBase ∧ t.modLog = s.modLog

/-- The row and every register and byte of the cores are as before. -/
def SameRows (s t : State) : Prop := t.rows = s.rows ∧ t.cores = s.cores ∧ t.modMem = s.modMem ∧ t.host = s.host

/-! ## Tables of the integer words -/

/-- An integer word on two operands: its column-A form, its column-S form, its latency (R203, R205) and its result. -/
structure IntOp (w : Nat) where
  a : Hdr → RRR → Instr
  s : Hdr → SRR → Instr
  lat : Nat
  val : BitVec w → Word → BitVec w

/-- The results on 64-bit operands (R203, R205): no type or .i64. -/
def wideOps : List (IntOp 64) :=
  [ ⟨.add, .uniformAdd, 1, fun x y => x + y⟩,
    ⟨.sub, .uniformSub, 1, fun x y => x - y⟩,
    ⟨.mul, .uniformMul, 3, fun x y => x * y⟩,
    ⟨.mulh, .uniformMulh, 3, fun x y => (x.signExtend 128 * y.signExtend 128).extractLsb' 64 64⟩,
    ⟨.mulhu, .uniformMulhu, 3, fun x y => (x.zeroExtend 128 * y.zeroExtend 128).extractLsb' 64 64⟩,
    ⟨.div, .uniformDiv, 18, fun x y => if y = 0 then BitVec.allOnes 64 else x.sdiv y⟩,
    ⟨.divu, .uniformDivu, 18, fun x y => if y = 0 then BitVec.allOnes 64 else x / y⟩,
    ⟨.rem, .uniformRem, 18, fun x y => x.srem y⟩,
    ⟨.remu, .uniformRemu, 18, fun x y => x % y⟩,
    ⟨.and, .uniformAnd, 1, fun x y => x &&& y⟩,
    ⟨.or, .uniformOr, 1, fun x y => x ||| y⟩,
    ⟨.xor, .uniformXor, 1, fun x y => x ^^^ y⟩,
    ⟨.andn, .uniformAndn, 1, fun x y => x &&& ~~~y⟩,
    ⟨.shl, .uniformShl, 1, fun x y => if 64 ≤ y.toNat then 0 else x <<< y.toNat⟩,
    ⟨.shr, .uniformShr, 1, fun x y => if 64 ≤ y.toNat then 0 else x >>> y.toNat⟩,
    ⟨.sra, .uniformSra, 1, fun x y => x.sshiftRight (min y.toNat 63)⟩,
    ⟨.rotl, .uniformRotl, 1, fun x y => x.rotateLeft (y.toNat % 64)⟩,
    ⟨.min, .uniformMin, 1, fun x y => if x.slt y then x else y⟩,
    ⟨.max, .uniformMax, 1, fun x y => if x.slt y then y else x⟩,
    ⟨.minu, .uniformMinu, 1, fun x y => if x.ult y then x else y⟩,
    ⟨.maxu, .uniformMaxu, 1, fun x y => if x.ult y then y else x⟩ ]

/-- The results on 32-bit operands (R198, R203, R205): .i32 and .ui32. A shift takes its amount from all 64 bits. -/
def narrowOps : List (IntOp 32) :=
  [ ⟨.add, .uniformAdd, 1, fun x y => x + y.truncate 32⟩,
    ⟨.sub, .uniformSub, 1, fun x y => x - y.truncate 32⟩,
    ⟨.mul, .uniformMul, 3, fun x y => x * y.truncate 32⟩,
    ⟨.div, .uniformDiv, 18, fun x y => if y.truncate 32 = 0 then BitVec.allOnes 32 else x.sdiv (y.truncate 32)⟩,
    ⟨.divu, .uniformDivu, 18, fun x y => if y.truncate 32 = 0 then BitVec.allOnes 32 else x / y.truncate 32⟩,
    ⟨.rem, .uniformRem, 18, fun x y => x.srem (y.truncate 32)⟩,
    ⟨.remu, .uniformRemu, 18, fun x y => x % y.truncate 32⟩,
    ⟨.shl, .uniformShl, 1, fun x y => if 32 ≤ y.toNat then 0 else x <<< y.toNat⟩,
    ⟨.shr, .uniformShr, 1, fun x y => if 32 ≤ y.toNat then 0 else x >>> y.toNat⟩,
    ⟨.sra, .uniformSra, 1, fun x y => x.sshiftRight (min y.toNat 31)⟩,
    ⟨.rotl, .uniformRotl, 1, fun x y => x.rotateLeft (y.toNat % 32)⟩,
    ⟨.min, .uniformMin, 1, fun x y => if x.slt (y.truncate 32) then x else y.truncate 32⟩,
    ⟨.max, .uniformMax, 1, fun x y => if x.slt (y.truncate 32) then y.truncate 32 else x⟩,
    ⟨.minu, .uniformMinu, 1, fun x y => if x.ult (y.truncate 32) then x else y.truncate 32⟩,
    ⟨.maxu, .uniformMaxu, 1, fun x y => if x.ult (y.truncate 32) then y.truncate 32 else x⟩ ]

/-- A 32-bit result brought to 64 bits (R203): .i32 (code 20) extends the sign, .ui32 (code 21) zeros. -/
def widen (ty : BitVec 5) (x : BitVec 32) : Word := if ty = 20 then x.signExtend 64 else x.zeroExtend 64

/-- The words that saturate (R204), with the exact operation. -/
def satOps : List ((Hdr → RRR → Instr) × (Hdr → SRR → Instr) × Nat × (Int → Int → Int)) :=
  [(.add, .uniformAdd, 1, (· + ·)), (.sub, .uniformSub, 1, (· - ·)), (.mul, .uniformMul, 3, (· * ·))]

/-- The saturated result (R204): the exact result on the operands of the type, clamped to the type's range. -/
def saturated (ty : BitVec 5) (op : Int → Int → Int) (x y : Word) : Word :=
  if ty = 20 then BitVec.ofInt 64 (max (-(2 ^ 31)) (min (2 ^ 31 - 1) (op (x.truncate 32).toInt (y.truncate 32).toInt)))
  else if ty = 21 then BitVec.ofInt 64 (max 0 (min (2 ^ 32 - 1) (op ((x.truncate 32).toNat : Int) ((y.truncate 32).toNat : Int))))
  else BitVec.ofInt 64 (max (-(2 ^ 63)) (min (2 ^ 63 - 1) (op x.toInt y.toInt)))

/-- A bit-field or data-movement word on a and k registers (R203, R206 to R208): its two forms and its result under a type, a
bit position, a length and two operands. -/
structure FieldOp where
  a : Hdr → RRR → Instr
  s : Hdr → SRR → Instr
  val : BitVec 5 → Nat → Nat → Word → Word → Word

/-- An operation at width 32 under .i32 and .ui32, at width 64 otherwise, zero-extended (R198, R207). -/
def atWidth (g : {w : Nat} → BitVec w → BitVec w) (ty : BitVec 5) (x : Word) : Word :=
  if ty = 20 ∨ ty = 21 then (g (x.truncate 32)).zeroExtend 64 else g x

/-- The field results. `pos` is the C field and `len` one more than AUX[5:0] (R208); ADDSH shifts by AUX[5:0]. -/
def fieldOps : List FieldOp :=
  [ ⟨.mov, .uniformMov, fun _ _ _ x _ => x⟩,
    ⟨.clz, .uniformClz, fun ty _ _ x _ => atWidth BitVec.clz ty x⟩,
    ⟨.popc, .uniformPopc, fun ty _ _ x _ => atWidth BitVec.cpop ty x⟩,
    ⟨.brev, .uniformBrev, fun ty _ _ x _ => atWidth BitVec.reverse ty x⟩,
    ⟨.bfx, .uniformBfx, fun ty pos len x _ =>
      if ty = 22 then (x.extractLsb' pos len).signExtend 64 else (x.extractLsb' pos len).zeroExtend 64⟩,
    ⟨.bfi, .uniformBfi, fun _ pos len x y =>
      let mask := (BitVec.allOnes len).zeroExtend 64 <<< pos
      (x &&& ~~~mask) ||| (y <<< pos &&& mask)⟩,
    ⟨.addsh, .uniformAddsh, fun _ _ len x y => x + y <<< (len - 1)⟩ ]

/-- The integer comparisons by CND code (R66, R206). -/
def comparisons : List (BitVec 4 × ({w : Nat} → BitVec w → BitVec w → Bool)) :=
  [(1, fun x y => x == y), (2, fun x y => x != y), (3, fun x y => x.slt y), (4, fun x y => x.sle y), (5, fun x y => y.slt x),
   (6, fun x y => y.sle x), (7, fun x y => x.ult y), (8, fun x y => x.ule y)]

/-- A comparison at the width of a type. -/
def compared (g : {w : Nat} → BitVec w → BitVec w → Bool) (ty : BitVec 5) (x y : Word) : Bool :=
  if ty = 20 ∨ ty = 21 then g (x.truncate 32) (y.truncate 32) else g x y

/-- The types of the integer words: none, .i32, .ui32, .i64 (R198). -/
def WidthType (ty : BitVec 5) : Prop := ty = 0 ∨ ty = 20 ∨ ty = 21 ∨ ty = 22

/-! ## Scalar access to the local store -/

/-- The bytes of an element (R64, R201): 8- to 32-bit types by code, eight for none and .i64. -/
def elemBytes (ty : BitVec 5) : Nat := if ty = 16 ∨ ty = 17 then 1 else if ty = 18 ∨ ty = 19 then 2 else if ty = 20 ∨ ty = 21 then 4 else 8

/-- Data of an element brought to 64 bits (R212). -/
def loaded (ty : BitVec 5) (x : Nat) : Word :=
  if ty = 16 then (BitVec.ofNat 8 x).signExtend 64 else if ty = 18 then (BitVec.ofNat 16 x).signExtend 64
  else if ty = 20 then (BitVec.ofNat 32 x).signExtend 64 else BitVec.ofNat 64 x

/-- An access of `n` bytes at `ea` passes the checks of R211 and meets a clean word. -/
def Readable (s : State) (ea n : Nat) : Prop :=
  ea + n ≤ 0x1800000 ∧ ea % n = 0 ∧ s.core.portFails s.gcc [ea / 64] = false ∧ s.core.cls ea = .clean

/-- The new value of an AMO of `w` bits by its operation number (R214, R68). -/
def amoResult {w : Nat} (signed : Bool) (op : BitVec 3) (old d : BitVec w) : BitVec w :=
  let less := if signed then old.slt d else old.ult d
  if op = 0 then d else if op = 1 then old + d else if op = 2 then old &&& d else if op = 3 then old ||| d
  else if op = 4 then old ^^^ d else if op = 5 then (if less then old else d) else (if less then d else old)

/-! ## Column S -/

/-- The registers of a row other than its frame base and return stacks are as before, and so is every other row. -/
def SameRegs (s t : State) : Prop :=
  t.row.k = s.row.k ∧ t.row.q = s.row.q ∧ t.row.kh = s.row.kh ∧ t.row.qh = s.row.qh ∧ t.row.trapc = s.row.trapc ∧ t.row.tvec = s.row.tvec
    ∧ t.row.sstep = s.row.sstep ∧ t.row.trapfs = s.row.trapfs ∧ t.row.sram = s.row.sram ∧ t.row.region = s.row.region
    ∧ ∀ r, r ≠ s.cur.row → t.rows[r] = s.rows[r]

/-- What a frame-changing word does (R78, R162): the dispatcher resumes two cycles on at `target`, unless a later word of the
clause changes the frame or the row has halted; the frame base and the return stack become `fb` and `stack`; nothing else
changes. A target below word 0 is read as one beyond the stream. -/
structure FrameEffect (s t : State) (target : Int) (fb : Nat) (stack : List Nat) : Prop where
  fetch : s.lastFrameWord = true → (s.row.handler = true ∨ s.row.halted = none) →
    DueAt t (s.gcc + 2) (.cont (.fetchFrom (if target < 0 then 2 ^ 18 else target.toNat)))
  fb : t.row.fb = fb
  stack : t.row.stack = stack
  kept : ∀ e ∈ s.agenda, e ∈ t.agenda
  regs : SameRegs s t
  rest : t.cores = s.cores ∧ t.tasks = s.tasks ∧ t.dcc = s.dcc ∧ t.cur = s.cur ∧ t.modMem = s.modMem ∧ t.host = s.host ∧ t.pkg = s.pkg ∧ t.sent = s.sent

/-- A register of the row is written at a later cycle of the row. -/
def WritesAt (t : State) (g : Nat) (w : RegWrite) : Prop := ∃ id, DueAt t g (.ev (.registerWriteBack { wid := id, writes := [w] }))

/-- A core of the row is read or written at a cycle for the sequencer. -/
def DueAtCore (s : State) (c : Fin 8) (g : Nat) (w : Work) : Prop :=
  ∃ e ∈ s.agenda, e.gang = true ∧ e.slot = s.cur.slot ∧ e.row = s.cur.row ∧ e.core = c ∧ e.due = g ∧ e.work = w

/-- The report of a synchronisation word to the hold master (R446). -/
def reportOf (s : State) (kind : PointKind) (k arg : Nat) (on : Bool) : Work :=
  .ev (.pointReport { kind := kind, k := k, rank := s.task.rank, row := s.row.rowid, gcc := s.gcc, arg := arg, enabled := on })

/-! ## Column V -/

/-- The state after a vector word has put on the agenda one result per lane that its mask enables, due `lat` later, with the numeric
events to count then (R131, R221, R224). -/
def lanesWritten (s : State) (f : RRR) (lat : Nat) (g : Nat → FRes) : State :=
  s.writeBack lat [.v f.d.toNat ((s.core.lanes f.msk.toNat).map fun i => (i, BitVec.ofNat 32 (g i).code))]
    (countEv ((s.core.lanes f.msk.toNat).map g)) (some f.d.toNat)

/-- The same for a word whose results raise no event. -/
def quietLanes (s : State) (f : RRR) (lat : Nat) (g : Nat → Lane) : State :=
  s.writeBack lat [.v f.d.toNat ((s.core.lanes f.msk.toNat).map fun i => (i, g i))] {} (some f.d.toNat)

/-- The state after a word has put one mask bit per enabled lane on the agenda. -/
def bitsWritten (s : State) (f : RRR) (lat : Nat) (g : Nat → Bool) (ev : EvCount) : State :=
  s.writeBack lat [.m f.d.toNat ((s.core.lanes f.msk.toNat).map fun i => (i, g i))] ev

/-- Integer words on 32-bit lanes (R229), .i32 or none and, with `un`, .ui32, saturating with `sat`. -/
def laneOps : List ((Hdr → RRR → Instr) × (Bool → Bool → Lane → Lane → Lane)) :=
  let clamp := fun (un sat : Bool) (e : Int) => if !sat then BitVec.ofInt 32 e
    else if un then BitVec.ofInt 32 (max 0 (min (2 ^ 32 - 1) e)) else BitVec.ofInt 32 (max (-(2 ^ 31)) (min (2 ^ 31 - 1) e))
  [ (.viadd, fun un sat x y => clamp un sat (if un then x.toNat + y.toNat else x.toInt + y.toInt)),
    (.visub, fun un sat x y => clamp un sat (if un then x.toNat - y.toNat else x.toInt - y.toInt)),
    (.vimul, fun un sat x y => clamp un sat (if un then x.toNat * y.toNat else x.toInt * y.toInt)),
    (.vimulh, fun un _ x y => if un then (x.zeroExtend 64 * y.zeroExtend 64).extractLsb' 32 32
      else (x.signExtend 64 * y.signExtend 64).extractLsb' 32 32),
    (.vimin, fun un _ x y => if (if un then x.ult y else x.slt y) then x else y),
    (.vimax, fun un _ x y => if (if un then x.ult y else x.slt y) then y else x),
    (.viabs, fun _ sat x _ => if sat ∧ x = 0x80000000 then 0x7FFFFFFF else if x.msb then -x else x),
    (.vshl, fun _ _ x y => if 32 ≤ y.toNat then 0 else x <<< y),
    (.vshr, fun _ _ x y => if 32 ≤ y.toNat then 0 else x >>> y),
    (.vsra, fun _ _ x y => x.sshiftRight (min y.toNat 31)),
    (.vand, fun _ _ x y => x &&& y), (.vor, fun _ _ x y => x ||| y), (.vxor, fun _ _ x y => x ^^^ y),
    (.vclz, fun _ _ x _ => x.clz), (.vpopc, fun _ _ x _ => x.cpop) ]

/-- Floating-point words on one or two operands with their latency (R226, R227) and the operation of the number formats chapter
that gives value and events. -/
def floatOps : List ((Hdr → RRR → Instr) × Nat × (Rnd → Lane → Lane → FRes)) :=
  [ (.vadd, 4, fun m x y => faddV m (f32 x) (f32 y)), (.vsub, 4, fun m x y => faddV m (f32 x) (f32 y).negate),
    (.vmul, 4, fun m x y => fmulV m (f32 x) (f32 y)), (.vmin, 4, fun _ x y => fminmax false x y), (.vmax, 4, fun _ x y => fminmax true x y),
    (.vabs, 4, fun _ x _ => signLane false x), (.vneg, 4, fun _ x _ => signLane true x), (.vclass, 4, fun _ x _ => ⟨fclass x, {}⟩),
    (.vrcp, 12, fun _ x _ => vrcp (f32 x)), (.vrsq, 12, fun _ x _ => vrsq (f32 x)), (.vsqrt, 12, fun m x _ => vsqrt m (f32 x)),
    (.vexp2, 12, fun _ x _ => vexp2 (f32 x)), (.vlog2, 12, fun _ x _ => vlog2 (f32 x)), (.vsin, 12, fun _ x _ => vsin (f32 x)),
    (.vcos, 12, fun _ x _ => vcos (f32 x)), (.vtanh, 12, fun _ x _ => vtanh (f32 x)), (.vsigm, 12, fun _ x _ => vsigm (f32 x)) ]

/-- Movement words with their latency and the lane that each enabled lane takes (R234). -/
def moveOps : List ((Hdr → RRR → Instr) × Nat × (RRR → State → Nat → Lane)) :=
  [ (.vmov, 2, fun f s i => s.core.rv f.a.toNat i),
    (.vsel, 2, fun f s i => if s.core.rm f.c.toNat i then s.core.rv f.a.toNat i else s.bop f i),
    (.vbca, 3, fun f s i => s.core.rv f.a.toNat (i - i % s.core.seg + f.aux.toNat % 128 % s.core.seg)),
    (.vshf, 3, fun f s i =>
      let w := s.core.seg
      let b := (s.bop f i).toNat
      let mode := f.aux.toNat % 4
      s.core.rv f.a.toNat (i - i % w + if mode = 0 then b % w else if mode = 1 then i % w ^^^ (b % w) else (i % w + b) % w)),
    (.vqx, 3, fun f s i => s.core.rv f.a.toNat (4 * (i / 4) + (f.aux.toNat >>> (2 * (i % 4))) % 4)),
    (.vsld, 3, fun f s i =>
      let w := s.core.seg
      let k := i % w + f.aux.toNat % 128 % w
      if k < w then s.core.rv f.a.toNat (i - i % w + k) else s.core.rv f.b.toNat (i - i % w + k - w)) ]

/-- The operation of an integer reduction and its identity (R236). -/
def reduction (un : Bool) (op : Nat) : (Lane → Lane → Lane) × Lane :=
  if op = 0 then ((· + ·), 0)
  else if op = 1 then (if un then (fun x y => if x.ult y then x else y, 0xFFFFFFFF) else (fun x y => if x.slt y then x else y, 0x7FFFFFFF))
  else if op = 2 then (if un then (fun x y => if x.ult y then y else x, 0) else (fun x y => if x.slt y then y else x, 0x80000000))
  else if op = 3 then ((· &&& ·), 0xFFFFFFFF)
  else if op = 4 then ((· ||| ·), 0)
  else ((· ^^^ ·), 0)

/-- The lanes of the whole segments of width `w` that a mask enables, segment by segment. -/
def enabledBySegment (c : Core) (msk : Nat) : List (List Nat) :=
  (List.range (128 / c.seg)).map fun k => ((List.range c.seg).map fun j => k * c.seg + j).filter fun i => c.rm msk i

/-- A byte address of a vector access lies in clean words only. -/
def CleanBytes (s : State) (as : List Nat) : Prop := ∀ a ∈ as, s.core.cls a = .clean

/-! ## Columns M and X -/

/-- The agenda holds work of one core at a GCC of the present task. -/
def DueAtPlace (s : State) (r c : Fin 8) (g : Nat) (w : Work) : Prop :=
  ∃ e ∈ s.agenda, e.gang = true ∧ e.slot = s.cur.slot ∧ e.row = r ∧ e.core = c ∧ e.due = g ∧ e.work = w

/-- Some 8-byte word in spans of tiles (tile, first byte, end) is uncorrectable (R295). -/
def BadTileWord (s : State) (xs : List (Nat × Nat × Nat)) : Prop :=
  ∃ x ∈ xs, ∃ j, x.2.1 / 8 ≤ j ∧ 8 * j < x.2.2 ∧ Sparse.get .clean s.core.tileCls (2048 * x.1 + j) = .uncorrectable

/-- The state once the corrected words in the spans of tiles that a word reads are counted, each once (R295, R440). -/
def tilesCounted (s : State) (xs : List (Nat × Nat × Nat)) : State :=
  let n := ((tileWords xs).filter fun w => Sparse.get .clean s.core.tileCls w == .corrected).length
  if n = 0 then s else s.countCorr s.hcorrKey 0 n

/-- The word consumes poison at issue: TRAPC 0x08 (R295, R143). -/
abbrev TilesTrap (i : Instr) (s : State) (xs : List (Nat × Nat × Nat)) : Prop :=
  Gives i s ((tilesCounted s xs).countPoison.consumePoison [])

/-- A core apart from its receive buffers. -/
def sansRx (c : Core) : Core := { c with rx := [] }

/-- Only the receive buffers of the present core, the agenda and the counter may differ. -/
def OnlyReceives (s t : State) : Prop :=
  sansRx t.core = sansRx s.core ∧ (∀ r c, (r, c) ≠ (s.cur.row, s.cur.core) → t.coreAt r c = s.coreAt r c)
    ∧ t.rows = s.rows ∧ t.tasks = s.tasks ∧ t.modMem = s.modMem ∧ t.host = s.host ∧ t.pkg = s.pkg ∧ t.sent = s.sent

/-- A core apart from its record of scheduled accesses: every register, tile, barrier, window and byte. -/
def sansPorts (c : Core) : Core := { c with port := [], eng := [] }

/-- A state apart from what its own core schedules: only the agenda, the counter and the port records of the core may differ. -/
def OnlySchedules (s t : State) : Prop :=
  t.dcc = s.dcc ∧ t.rows = s.rows ∧ t.tasks = s.tasks ∧ t.modMem = s.modMem ∧ t.host = s.host ∧ t.pkg = s.pkg ∧ t.sent = s.sent ∧ t.cur = s.cur
    ∧ sansPorts t.core = sansPorts s.core ∧ (∀ r c, (r, c) ≠ (s.cur.row, s.cur.core) → t.coreAt r c = s.coreAt r c)
    ∧ ∀ e ∈ s.agenda, e ∈ t.agenda

/-- The elements of row `r` of a tile under its descriptor, as values (R273, R285). -/
def tileOperand (c : Core) (t : Nat) (d : Word) (r : Nat) : List FVal :=
  (rowCodes (tdType d) (tdCols d) ((List.range (tdRowBytes d)).map fun b => c.rt t (256 * r + b))).map (mmaValue (tdType d))

/-- The scale codes of row `r` of an operand (R275): its scale tile's bytes, or 127. -/
def tileScales (c : Core) (d : Word) (r : Nat) : List Nat :=
  (List.range 16).map fun j => if tdMx d then (c.rt (tdScl d) (256 * r + 16 * tdSofs d + j)).toNat else 127

/-- The integer that a code of .i8 or .ui8 stands for. -/
def byteInt (signed : Bool) (x : Byte) : Int := if signed then x.toInt else x.toNat

/-- The state after a trap is taken at the word, in the same terms for several words. -/
abbrev TrapsWith (i : Instr) (s : State) (code detail : Nat) : Prop := Gives i s (s.trapWord code detail)

/-! ## Column F -/

/-- A transfer word's request to its core (R299, R311 to R313). -/
def fetchAsk (s : State) (f : RRR) : XferAsk :=
  { x := { s.xferOf f .fetch with bar := if f.aux.getLsbD 3 then some f.d.toNat else none }
    landing := true, source := false, charge := shpBytes (Sparse.get 0 s.core.g f.c.toNat), r := true }

def gatherAsk (s : State) (f : RRR) : XferAsk :=
  let m := shpSize (Sparse.get 0 s.core.g f.c.toNat) 3
  { x := { s.xferOf f .gath with
             bar := some f.d.toNat, idx := s.core.indexList (s.listAddr f) (min m 128), bad := s.core.indexBad (s.listAddr f) (min m 128) }
    list := some (s.listAddr f), m := m, landing := true, source := true, charge := shpBytes (Sparse.get 0 s.core.g f.c.toNat), r := true }

def storeAsk (s : State) (f : RRR) : XferAsk :=
  { x := s.xferOf f .store, landing := false, source := true, charge := shpBytes (Sparse.get 0 s.core.g f.c.toNat), w := true }

def scatterAsk (s : State) (f : RRR) : XferAsk :=
  let m := shpSize (Sparse.get 0 s.core.g f.c.toNat) 3
  { x := { s.xferOf f .scat with idx := s.core.indexList (s.listAddr f) (min m 128) }
    list := some (s.listAddr f), m := m, landing := false, source := true, charge := shpBytes (Sparse.get 0 s.core.g f.c.toNat), w := true }

/-- The registers of the present core that a far-memory word never writes. -/
def SameCoreRegs (s t : State) : Prop :=
  t.core.a = s.core.a ∧ t.core.p = s.core.p ∧ t.core.v = s.core.v ∧ t.core.m = s.core.m ∧ t.core.tile = s.core.tile ∧ t.core.td = s.core.td
    ∧ t.core.g = s.core.g ∧ t.core.bnd = s.core.bnd ∧ t.core.ls = s.core.ls ∧ t.core.limit = s.core.limit

/-- The barriers of the present core other than `w` are as before. -/
def OtherBarriers (s t : State) (w : Nat) : Prop := ∀ n, n ≠ w → t.core.rw n = s.core.rw n

/-- The number of landing or source cycles of `n` bytes at `share` bytes a cycle. -/
def cyclesOf (n share : Nat) : Nat := (n + share - 1) / share


open Sys2Proof.Claims

/-! ## Encoding (R52 to R73, R81) -/

/-- Every well-formed instruction word decodes, in the column it is encoded for, to the instruction it stands for. The three
module commands share one opcode (R329), so FILL and REDUCE read back as the command. -/
def EncodedWordsDecode : Prop :=
  ∀ i c w, WellFormed i → encode i = some (c, w) →
    decodeWord c w = .ok (match i with
      | .mcmdFill h f => .mcmdCopy h f
      | .mcmdReduce h f => .mcmdCopy h f
      | i => i)

/-- A word that decodes is the encoding of what it decodes to: no bit of a word is without meaning. -/
def DecodedWordsEncode : Prop :=
  ∀ c w i, decodeWord c w = .ok i → encode i = some (c, w)

/-- Only well-formed instructions are decoded (R61 to R72, R81). -/
def DecodingRefusesIllFormedWords : Prop :=
  ∀ c w i, decodeWord c w = .ok i → WellFormed i

/-- An opcode that no instruction of a column has is refused with detail 0 (R81); every other word of that column that is refused
is refused with detail 1, 2 or 3. -/
def RefusedWordsNameTheirDetail : Prop :=
  ∀ c w d, decodeWord c w = .error d →
    (d = 0 ∧ ∀ i v, encode i = some (c, v) → opcOf v ≠ opcOf w) ∨ d = 1 ∨ d = 2 ∨ d = 3

/-- A clause header holds its fields (R52), and a header that carries the check bits of R53 fails none of the checks but those on
its class, its reserved bits and its flags (R54, R55, R81). -/
def ClauseHeaderFields : Prop :=
  (∀ h : ClauseHdr, clauseHdrOf (packClauseHdr h) = h)
    ∧ (∀ w : Word, packClauseHdr (clauseHdrOf w) = w)
    ∧ ∀ w : Word, headerFault (sealHdr w) ≠ some 5 ∧ (clauseHdrOf (sealHdr w)).start = (clauseHdrOf w).start
        ∧ (clauseHdrOf (sealHdr w)).cls = (clauseHdrOf w).cls ∧ (clauseHdrOf (sealHdr w)).cnt = (clauseHdrOf w).cnt

/-- Words written out from the encoding tables decode to the instructions they stand for (R57 to R73). -/
def WordsOfTheTables : Prop :=
  decodeWord .a 0x74B8_1000_0000_01C0#64 = .ok (.movi ⟨2, 7, 0⟩ ⟨1, 0, 7, 0⟩)
    ∧ decodeWord .a 0x4438_2040_0000_0140#64 = .ok (.addi ⟨0, 7, 0⟩ ⟨2, 1, 5, 0⟩)
    ∧ decodeWord .s 0x7438_1800_0000_00A0#64 = .ok (.uniformMovi ⟨0, 7, 0⟩ ⟨3, 0, 10, 0⟩)
    ∧ decodeWord .s 0x1238_0000_0000_0000#64 = .ok (.halt ⟨0, 7, 0⟩)
    ∧ decodeWord .v 0x0878_4146_1C20_3800#64 = .ok (.vfma ⟨1, 7, 0⟩ ⟨4, 5, 6, 7, 1, 0, 0, 0, 7, 0, 0, 0⟩)
    ∧ decodeWord .a 0xA038_3100_0010_04F8#64 = .ok (.ld ⟨0, 7, 0⟩ ⟨3, 4, 64, 0, 19, 7, 0⟩)

/-! ## Integer words (R177, R198, R203 to R206) -/

/-- Integer words of column A on 64-bit operands put their result on the agenda, due their latency later, and do nothing else. -/
def IntegerWideResults : Prop :=
  ∀ o ∈ wideOps, ∀ h f s, s.core.enabled h = true → f.sat = 0 → (f.ty = 0 ∨ f.ty = 22) →
    Gives (o.a h f) s (s.writeBack o.lat [.a f.d.toNat (o.val (s.core.ra f.a.toNat) (s.opB f))])

/-- The same words on 32-bit operands (.i32 and .ui32). -/
def IntegerNarrowResults : Prop :=
  ∀ o ∈ narrowOps, ∀ h f s, s.core.enabled h = true → f.sat = 0 → (f.ty = 20 ∨ f.ty = 21) →
    Gives (o.a h f) s (s.writeBack o.lat [.a f.d.toNat (widen f.ty (o.val ((s.core.ra f.a.toNat).truncate 32) (s.opB f)))])

/-- ADD, SUB and MUL with SAT, in column A and in column S. -/
def IntegerSaturation : Prop :=
  ∀ o ∈ satOps,
    (∀ h f s, s.core.enabled h = true → f.sat = 1 → (f.ty = 0 ∨ f.ty = 22 ∨ f.ty = 20 ∨ f.ty = 21) →
      Gives (o.1 h f) s (s.writeBack o.2.2.1 [.a f.d.toNat (saturated f.ty o.2.2.2 (s.core.ra f.a.toNat) (s.opB f))]))
    ∧ ∀ h f s, s.row.enabled h = true → f.aux.getLsbD 12 = true → (f.ty = 0 ∨ f.ty = 22 ∨ f.ty = 20 ∨ f.ty = 21) →
      Gives (o.2.1 h f) s (s.writeSeq o.2.2.1 [.k s.row.handler f.d.toNat (saturated f.ty o.2.2.2 (s.k f.a) (s.k f.b))])

/-- Uniform words give column A's results on k registers (R177). -/
def UniformResults : Prop :=
  (∀ o ∈ wideOps, ∀ h f s, s.row.enabled h = true → f.aux.getLsbD 12 = false → (f.ty = 0 ∨ f.ty = 22) →
      Gives (o.s h f) s (s.writeSeq o.lat [.k s.row.handler f.d.toNat (o.val (s.k f.a) (s.k f.b))]))
    ∧ ∀ o ∈ narrowOps, ∀ h f s, s.row.enabled h = true → f.aux.getLsbD 12 = false → (f.ty = 20 ∨ f.ty = 21) →
      Gives (o.s h f) s (s.writeSeq o.lat [.k s.row.handler f.d.toNat (widen f.ty (o.val ((s.k f.a).truncate 32) (s.k f.b)))])

/-- Words on bits and fields, in column A and in column S (R203, R206 to R208, R177). -/
def FieldResults : Prop :=
  ∀ o ∈ fieldOps,
    (∀ h f s, s.core.enabled h = true → WidthType f.ty →
      Gives (o.a h f) s (s.writeBack 1 [.a f.d.toNat (o.val f.ty f.c.toNat (f.aux.toNat % 64 + 1) (s.core.ra f.a.toNat) (s.opB f))]))
    ∧ ∀ h f s, s.row.enabled h = true → WidthType f.ty →
      Gives (o.s h f) s (s.writeSeq 1 [.k s.row.handler f.d.toNat (o.val f.ty f.c.toNat (f.aux.toNat % 64 + 1) (s.k f.a) (s.k f.b))])

/-- Comparisons, predicate logic and selection (R206, R177). -/
def PredicateResults : Prop :=
  (∀ o ∈ comparisons, ∀ h f s, s.core.enabled h = true → WidthType f.ty → f.cnd = o.1 →
      Gives (.cmp h f) s (s.writeBack 1 [.p f.d.toNat (compared o.2 f.ty (s.core.ra f.a.toNat) (s.opB f))]))
    ∧ (∀ o ∈ comparisons, ∀ h f s, s.row.enabled h = true → WidthType f.ty → f.cnd = o.1 →
      Gives (.uniformCmp h f) s (s.writeSeq 1 [.q s.row.handler (f.d.toNat - 96) (compared o.2 f.ty (s.k f.a) (s.k f.b))]))
    ∧ (∀ h f s, s.core.enabled h = true →
      Gives (.plog h f) s (s.writeBack 1 [.p f.d.toNat (f.aux.getLsbD (2 * (s.core.rp f.a.toNat).toNat + (s.core.rp f.b.toNat).toNat))]))
    ∧ (∀ h f s, s.row.enabled h = true →
      Gives (.uniformPlog h f) s (s.writeSeq 1 [.q s.row.handler (f.d.toNat - 96) (f.aux.getLsbD (2 * (s.q f.a).toNat + (s.q f.b).toNat))]))
    ∧ (∀ h f s, s.core.enabled h = true →
      Gives (.sel h f) s (s.writeBack 1 [.a f.d.toNat (if s.core.rp f.c.toNat then s.core.ra f.a.toNat else s.opB f)]))
    ∧ ∀ h f s, s.row.enabled h = true →
      Gives (.uniformSel h f) s (s.writeSeq 1 [.k s.row.handler f.d.toNat (if s.q f.c then s.k f.a else s.k f.b)])

/-- Words with an immediate, and MOVK (R204, R209, R210, R177). -/
def ImmediateResults : Prop :=
  (∀ h f s, s.core.enabled h = true →
      Gives (.movi h f) s (s.writeBack 1 [.a f.d.toNat (if f.md.getLsbD 0 then f.imm.zeroExtend 64 else f.imm.signExtend 64)])
      ∧ Gives (.movhi h f) s (s.writeBack 1 [.a f.d.toNat (f.imm ++ (s.core.ra f.a.toNat).truncate 32)])
      ∧ Gives (.addi h f) s (s.writeBack 1 [.a f.d.toNat (if f.md.getLsbD 0 then saturated 0 (· + ·) (s.core.ra f.a.toNat) (f.imm.signExtend 64)
          else s.core.ra f.a.toNat + f.imm.signExtend 64)]))
    ∧ (∀ h f s, s.row.enabled h = true →
      Gives (.uniformMovi h f) s (s.writeSeq 1 [.k s.row.handler f.d.toNat (if f.md.getLsbD 0 then f.imm.zeroExtend 64 else f.imm.signExtend 64)])
      ∧ Gives (.uniformMovhi h f) s (s.writeSeq 1 [.k s.row.handler f.d.toNat (f.imm ++ (s.k f.a).truncate 32)])
      ∧ Gives (.uniformAddi h f) s (s.writeSeq 1 [.k s.row.handler f.d.toNat (if f.md.getLsbD 0 then saturated 0 (· + ·) (s.k f.a) (f.imm.signExtend 64)
          else s.k f.a + f.imm.signExtend 64)]))
    ∧ ∀ h f s, s.core.enabled h = true →
      Gives (.movk h f) s (s.writeBack 1 [.a f.d.toNat (s.uniform f.uniNum (if f.aux.getLsbD 0 then s.cur.core.1 else 0))])

/-- Loads, stores and atomic words of column A in range, aligned, without a bank clash and on a clean word (R211 to R215). -/
def ScalarMemoryResults : Prop :=
  ∀ h (f : MEM) s, s.core.enabled h = true → Readable s (s.core.memAddr f) (elemBytes f.ty) →
    let ea := s.core.memAddr f
    let n := elemBytes f.ty
    let old := Memory.nat s.core.ls ea n
    let t := s.usePort [ea / 64]
    Gives (.ld h f) s (t.writeBack 5 [.a f.d.toNat (loaded f.ty old)])
    ∧ Gives (.st h f) s (t.storeNow (bytesAt ea n (s.core.ra f.d.toNat).toNat))
    ∧ ((f.ty = 20 ∨ f.ty = 21) → Gives (.amo h f) s
        ((t.storeNow (bytesAt ea 4 (amoResult (w := 32) (f.ty = 20) f.aux (BitVec.ofNat 32 old) ((s.core.ra f.d.toNat).truncate 32)).toNat)).writeBack 8
          [.a f.d.toNat (loaded f.ty old)]))
    ∧ ((f.ty = 0 ∨ f.ty = 22) → Gives (.amo h f) s
        ((t.storeNow (bytesAt ea 8 (amoResult (w := 64) true f.aux (BitVec.ofNat 64 old) (s.core.ra f.d.toNat)).toNat)).writeBack 8
          [.a f.d.toNat (loaded f.ty old)]))
    ∧ ((f.ty = 0 ∨ f.ty = 20 ∨ f.ty = 21 ∨ f.ty = 22) →
        let eq := decide (old = (s.core.ra f.d.toNat).toNat % 2 ^ (8 * n))
        Gives (.acas h f) s
          ((if eq then t.storeNow (bytesAt ea n (s.core.ra (f.d.toNat + 1)).toNat) else t).writeBack 8
            [.a f.d.toNat (loaded f.ty old), .p f.aux.toNat eq]))

/-- The local-store words of column A that fail a check, or read a poisoned word, trap at the word and make no access (R134,
R211, R216). -/
def ScalarMemoryTraps : Prop :=
  ∀ h (f : MEM) s, s.core.enabled h = true →
    let ea := s.core.memAddr f
    let n := elemBytes f.ty
    let word := fun i => i = Instr.ld h f ∨ i = Instr.st h f ∨ i = Instr.amo h f ∨ i = Instr.acas h f
    (0x1800000 < ea + n → ∀ i, word i → Gives i s (s.trapWord 0x0F 0))
    ∧ (ea + n ≤ 0x1800000 → ea % n ≠ 0 → ∀ i, word i → Gives i s (s.trapWord 0x0F 1))
    ∧ (ea + n ≤ 0x1800000 → ea % n = 0 → s.core.portFails s.gcc [ea / 64] = true → ∀ i, word i → Gives i s (s.trapWord 0x0F 2))
    ∧ (ea + n ≤ 0x1800000 → ea % n = 0 → s.core.portFails s.gcc [ea / 64] = false → (s.core.cls ea = .poisoned ∨ s.core.cls ea = .uncorrectable) →
        ∀ i, word i → i ≠ .st h f → Gives i s ((s.usePort [ea / 64]).countPoison.consumePoison [ea]))

/-- A word of columns A, V, M, F and X whose predicate reads false changes nothing (R59), but that MTLD and MTST claim the core's
port all the same (R278); in column S the words that end a clause's fetch and the words that count for a gang go on to report or to
fetch. -/
def DisabledWordsDoNothing : Prop :=
  (∀ h (f : MEM) s, s.core.enabled h = false →
    let d := s.core.rtd f.d.toNat
    let m := Ty.of f.ty
    let rb := tdRowBytes d
    let ob := if m = .none then rb else tileBytes m (tdCols d)
    let groups := fun n => tileGroups (s.core.memBase f) (if f.aux = 0 then n else 2 ^ (f.aux.toNat + 8)) f.swz.toNat n (tdRows d)
    Gives (.mtld h f) s (s.useBanks (if tdType d = .none then [] else groupBanks s.gcc (groups rb)))
    ∧ (mtstPair (tdType d) m = true → ¬(m = .e2m1 ∧ tdCols d % 2 = 1) →
        Gives (.mtst h f) s (s.useBanks (groupBanks (s.gcc + 4) (groups ob))))
    ∧ (mtstPair (tdType d) m = false → Gives (.mtst h f) s s))
  ∧ ∀ i c w s, encode i = some (c, w) →
    (c ≠ .s → s.core.enabled (hdrOf w) = false → (∀ h f, i ≠ .mtld h f ∧ i ≠ .mtst h f) → Gives i s s)
    ∧ (c = .s → s.row.enabled (hdrOf w) = false → frameChanging w = false → opcOf w ≠ 8 → opcOf w ≠ 0xC → Gives i s s)
    ∧ (c = .s → s.row.enabled (hdrOf w) = false → frameChanging w = true → opcOf w ≠ 0xF →
        ∃ t, Gives i s t ∧ FrameEffect s t s.afterClause s.row.fb s.row.stack)

/-! ## The sequencer (R159 to R176) -/

/-- Branches, loops, calls, returns and frame words. -/
def FrameWords : Prop :=
  ∀ h s, s.row.enabled h = true →
    (∀ f : BRF, ∀ i, i = .br h f ∨ i = .brc h f →
      ∃ t, Gives i s t ∧ FrameEffect s t (s.headAddr + f.tgt.toInt) ((s.row.fb + f.fbo.toNat) % 2 ^ 64) s.row.stack)
    ∧ (∀ f : BRF, s.row.stack.length < (if s.row.handler then 4 else 16) →
      ∃ t, Gives (.call h f) s t
        ∧ FrameEffect s t (s.headAddr + f.tgt.toInt) ((s.row.fb + f.fbo.toNat) % 2 ^ 64) (s.afterClause :: s.row.stack))
    ∧ (∀ (f : BRF) a rest, s.row.stack = a :: rest →
      ∃ t, Gives (.ret h f) s t ∧ FrameEffect s t a ((s.row.fb + f.fbo.toNat) % 2 ^ 64) rest)
    ∧ (∀ f : SRI, ∃ t, Gives (.fbset h f) s t
        ∧ FrameEffect s t s.afterClause ((s.row.fb + ((s.k f.a).toNat + f.imm.toNat)) % 2 ^ 64) s.row.stack)
    ∧ (∀ f : SRR, ∃ t, Gives (.fbabs h f) s t ∧ FrameEffect s t s.afterClause ((s.k f.a + s.k f.b).toNat) s.row.stack)
    ∧ ∀ f : SLP, s.k f.kc = 1 → ∃ t, Gives (.loop h f) s t ∧ FrameEffect s t s.afterClause s.row.fb s.row.stack
        ∧ WritesAt t (s.gcc + 1) (.k s.row.handler f.kc.toNat 0)

/-- LOOP counts down and goes on at its target while the count is not zero (R162). -/
def LoopRepeats : Prop :=
  ∀ h (f : SLP) s, s.row.enabled h = true → s.k f.kc ≠ 1 →
    ∃ t, Gives (.loop h f) s t ∧ FrameEffect s t (s.headAddr + f.tgt.toInt) ((s.row.fb + f.fbo.toNat) % 2 ^ 64) s.row.stack
      ∧ WritesAt t (s.gcc + 1) (.k s.row.handler f.kc.toNat (s.k f.kc - 1))

/-- CALL with a full return stack and RET with an empty one trap at the word (R163, R162). -/
def ReturnStackTraps : Prop :=
  ∀ h (f : BRF) s, s.row.enabled h = true →
    (s.row.stack.length = (if s.row.handler then 4 else 16) → Gives (.call h f) s (s.trapSeq 1 9))
    ∧ (s.row.stack = [] → Gives (.ret h f) s (s.trapSeq 1 0xA))

/-- HALT of a task (R166): the row's fetching ends, clauses that start later are discarded, and the end of the row is awaited; the
core registers stay. In a handler it ends the handler (R188). -/
def HaltEndsTheStream : Prop :=
  ∀ h s, s.row.enabled h = true →
    (s.row.handler = true → Gives (.halt h) s s.endHandler)
    ∧ (s.row.handler = false → ∃ t, Gives (.halt h) s t ∧ t.row.halted = some s.gcc ∧ t.row.rpos = none
        ∧ DueAt t s.gcc (reportOf s .halt 0 0 true) ∧ DueAt t (s.gcc + 1) (.cont .rowEnd)
        ∧ (∀ c ∈ s.row.clauses, ∀ x, c.startGcc = some x → s.gcc < x → { c with dropped := true } ∈ t.row.clauses)
        ∧ (∀ c ∈ s.row.clauses, ∀ x, c.startGcc = some x → x ≤ s.gcc → c ∈ t.row.clauses)
        ∧ t.cores = s.cores ∧ t.row.k = s.row.k ∧ t.row.fb = s.row.fb ∧ t.row.rstack = s.row.rstack)

/-- SLACK outside a handler (R165, R446): it reports its budget, zero when not enabled, restarts the starvation count of 2^22 cycles
and, with a budget, begins the slack hold after the words of its cycle; in a handler it does nothing. -/
def SlackReports : Prop :=
  ∀ h (f : SRI) s,
    (s.row.handler = true → Gives (.slack h f) s s)
    ∧ (s.row.handler = false → ∃ t, Gives (.slack h f) s t ∧ t.row.nSlack = s.row.nSlack + 1 ∧ t.row.slackAt = s.gcc
        ∧ DueAt t s.gcc (reportOf s .slack (s.row.nSlack + 1) (if s.row.enabled h then f.imm.toNat else 0) (s.row.enabled h))
        ∧ DueAt t (s.gcc + 2 ^ 22) (.ev .slackStarvation)
        ∧ (s.row.enabled h = true → f.imm ≠ 0 → DueAt t s.gcc (.cont (.slackBegin f.imm.toNat)))
        ∧ t.cores = s.cores ∧ t.tasks = s.tasks ∧ t.row.k = s.row.k ∧ t.row.fb = s.row.fb)

/-- GALIGN (R164, R446): it reports its scope, and while it is enabled the frame stays open until the answer comes; where it is not
enabled, the dispatcher resumes behind its clause two cycles on (R78). -/
def GalignReports : Prop :=
  ∀ h (f : SRR) s, ∃ t, Gives (.galign h f) s t ∧ t.row.nGalign = s.row.nGalign + 1
    ∧ DueAt t s.gcc (reportOf s .galign (s.row.nGalign + 1) (f.aux.toNat % 2) (s.row.enabled h))
    ∧ (s.row.enabled h = true → t.row.frameOpen = true ∧ t.row.galign = some (s.row.nGalign + 1, s.gcc, f.d.toNat))
    ∧ (s.row.enabled h = false → t.row.frameOpen = s.row.frameOpen ∧ t.row.galign = s.row.galign
        ∧ (s.lastFrameWord = true → (s.row.handler = true ∨ s.row.halted = none) → DueAt t (s.gcc + 2) (.cont (.fetchFrom s.afterClause))))
    ∧ t.row.fb = s.row.fb ∧ t.row.k = s.row.k ∧ t.cores = s.cores ∧ t.tasks = s.tasks

/-- PREPT (R168, R391, R392, R446): it reports, and none of its other effects comes before every word of its cycle has issued; with a
request pending then, it stops the row behind its row cycle, at cycle n + 1 in the sequencer and n + 1 + 2c in core c; otherwise it
has no other effect, and none at all in a handler. -/
def PreptStopsForAPreemption : Prop :=
  ∀ h (f : SRI) s,
    (s.row.handler = true → Gives (.prept h f) s s)
    ∧ (s.row.handler = false → ∃ t, Gives (.prept h f) s t ∧ t.row.nPrept = s.row.nPrept + 1
        ∧ DueAt t s.gcc (reportOf s .prept (s.row.nPrept + 1) 0 (s.row.enabled h))
        ∧ t.row.prept = s.row.prept ∧ t.cores = s.cores ∧ t.tasks = s.tasks ∧ t.row.sigma = s.row.sigma
        ∧ (s.row.enabled h = true → s.task.preempt ≠ none → DueAt t s.gcc (.cont (.preptTake f.imm.toNat)))
        ∧ ((s.row.enabled h = false ∨ s.task.preempt = none) → ∀ e ∈ t.agenda, e ∉ s.agenda → e.work ≠ .cont (.preptTake f.imm.toNat)))
    ∧ ∀ n, let t := runCont (.preptTake n) s
        (s.task.preemptTakes = true → t.row.prept = some n ∧ t.row.sigma = lower s.row.sigma (s.gcc + 1)
            ∧ ∀ c : Fin 8, (t.coreAt s.cur.row c).sigma = lower (s.coreAt s.cur.row c).sigma (s.gcc + 1 + 2 * c.1))
        ∧ (s.task.preemptTakes = false → t = s)

/-- TRAP and, with SSTEP.BKEN, BRK raise their trap in the cycle after their own (R167); without it BRK does nothing. -/
def TrapAndBreakpoint : Prop :=
  ∀ h (f : SRI) s, s.row.enabled h = true →
    (∃ t, Gives (.trap h f) s t ∧ FrameEffect s t s.afterClause s.row.fb s.row.stack ∧ DueAt t (s.gcc + 1) (.cont (.trapAfter 0x0C f.imm.toNat)))
    ∧ (s.row.sstep.getLsbD 1 = true → ∃ t, Gives (.brk h f) s t ∧ SameMachine s t ∧ DueAt t (s.gcc + 1) (.cont (.trapAfter 0x0D f.imm.toNat)))
    ∧ (s.row.sstep.getLsbD 1 = false → Gives (.brk h f) s s)

/-- IDEMB snapshots the uniform state under its tag and entry, closing a region that is open; IDEME closes the open region (R171). What an IDEMB
in a handler snapshots is log entry 121 and no part of this. -/
def RegionsOpenAndClose : Prop :=
  ∀ h (f : SRI) s, s.row.enabled h = true →
    (s.row.handler = false → ∃ t g, Gives (.idemb h f) s t ∧ t.row.region = some g ∧ g.tag = f.imm.toNat ∧ g.addr = s.headAddr ∧ g.k = s.row.k ∧ g.q = s.row.q
        ∧ g.rstack = s.row.rstack ∧ g.fb = s.row.fb ∧ (∀ c x, s.clause? = some c → c.startGcc = some x → g.entry = x)
        ∧ t.row.k = s.row.k ∧ t.row.q = s.row.q ∧ t.row.fb = s.row.fb
        ∧ ∀ c : Fin 8, (t.coreAt s.cur.row c).ls = (s.coreAt s.cur.row c).ls ∧ (t.coreAt s.cur.row c).a = (s.coreAt s.cur.row c).a)
    ∧ ∃ t, Gives (.ideme h) s t ∧ t.row.region = none ∧ t.cores = s.cores ∧ t.row.k = s.row.k ∧ t.row.fb = s.row.fb

/-- Reads and writes of counts, control registers and core predicates (R161, R174 to R176). -/
def SequencerReadsAndWrites : Prop :=
  ∀ h s, s.row.enabled h = true →
    (∀ f : SRR, Gives (.dccrd h f) s (s.writeSeq 1
        [.k s.row.handler f.d.toNat (BitVec.ofNat 64 s.dcc), .k s.row.handler (f.d.toNat + 1) (BitVec.ofNat 64 s.gcc)]))
    ∧ (∀ f : SCR, f.sel.toNat / 256 = 15 →
        Gives (.crd h f) s (s.writeSeq 2 [.k s.row.handler f.d.toNat (s.rowCtl (f.sel.toNat % 256))])
        ∧ (f.sel.toNat % 256 ≠ 0x0E → Gives (.cwr h f) s (s.writeSeq 1 [.rowCtl (f.sel.toNat % 256) (s.k f.d)]))
        ∧ (f.sel.toNat % 256 = 0x0E → Gives (.cwr h f) s ((s.writeSeq 1 [.rowCtl 0x0E (s.k f.d)]).addSeq 1 39 0 (.cont (.interrupt 65)))))
    ∧ (∀ (f : SCR) (c : Fin 8), f.sel.toNat / 256 = c.1 →
        (∃ t, Gives (.crd h f) s t ∧ SameMachine s t
          ∧ DueAtCore t c (s.gcc + 2 * c.1) (.cont (.crdSample (f.sel.toNat % 256) f.d.toNat s.row.handler s.next)))
        ∧ ∃ t, Gives (.cwr h f) s t ∧ SameMachine s t ∧ DueAtCore t c (s.gcc + 2 * c.1) (.cont (.cwrCore (f.sel.toNat % 256) (s.k f.d))))
    ∧ ∀ f : SRR, ∃ t, Gives (.qvote h f) s t ∧ SameMachine s t
        ∧ DueAtCore t 0 s.gcc (.cont (.voteSample (f.a.toNat % 8) (f.aux.toNat % 4) f.d.toNat s.row.handler s.next 0))

/-- Where a CRD or CWR of a core register and a QVOTE end (R161, R175, R176): the core reads its own register, or has it written a cycle
later; the vote goes from core to core, and a result reaches the sequencer 20 row cycles after the word. -/
def CoreReadsReturnToTheSequencer : Prop :=
  (∀ sel d b wid (s : State), WritesAt (s.crdSample sel d b wid) (s.gcc + (20 - 2 * s.cur.core.1)) (.k b d (s.core.ctl s.cur.core.1 s.row.prow sel))
      ∧ SameMachine s (s.crdSample sel d b wid))
    ∧ (∀ sel x (s : State), s.cur.gang = true → SameMachine s (s.cwrCore sel x)
        ∧ DueAtCore (s.cwrCore sel x) s.cur.core (s.gcc + 1) (.ev (.registerWriteBack { wid := s.next, writes := [.coreCtl sel x] })))
    ∧ (∀ pn mode d b wid acc (s : State), SameMachine s (s.voteSample pn mode d b wid acc))
    ∧ (∀ pn mode d b wid acc (s : State), s.cur.gang = true → s.cur.core < 7 →
        DueAtCore (s.voteSample pn mode d b wid acc) (s.cur.core + 1) (s.gcc + 2)
          (.cont (.voteSample pn mode d b wid (acc + if s.core.rp pn then 2 ^ s.cur.core.1 else 0))))
    ∧ ∀ pn d b wid acc (s : State), s.cur.core = 7 →
        let bits := acc + if s.core.rp pn then 2 ^ 7 else 0
        WritesAt (s.voteSample pn 0 d b wid acc) (s.gcc + 6) (.q b (d - 96) (decide (bits ≠ 0)))
        ∧ WritesAt (s.voteSample pn 1 d b wid acc) (s.gcc + 6) (.q b (d - 96) (decide (bits = 255)))
        ∧ WritesAt (s.voteSample pn 2 d b wid acc) (s.gcc + 6) (.k b d (BitVec.ofNat 64 bits))

/-! ## The vector engine (R221 to R243) -/

/-- Integer words on lanes. -/
def VectorIntegerResults : Prop :=
  (∀ o ∈ laneOps, ∀ h f s, s.core.enabled h = true →
      Gives (o.1 h f) s (quietLanes s f 4 fun i => o.2 (f.ty = 21) (f.sat = 1) (s.core.rv f.a.toNat i) (s.bop f i)))
    ∧ ∀ o ∈ comparisons, ∀ h f s, s.core.enabled h = true → f.cnd = o.1 →
      Gives (.vicmp h f) s (bitsWritten s f 4 (fun i => o.2 (s.core.rv f.a.toNat i) (s.bop f i)) {})

/-- Floating-point words on lanes, with the events their results raise (R226, R227, R130). -/
def VectorFloatResults : Prop :=
  (∀ o ∈ floatOps, ∀ h f s, s.core.enabled h = true →
      Gives (o.1 h f) s (lanesWritten s f o.2.1 fun i => o.2.2 (.ofCode f.rnd) (s.core.rv f.a.toNat i) (s.bop f i)))
    ∧ (∀ h f s, s.core.enabled h = true →
      Gives (.vfma h f) s (lanesWritten s f 6 fun i =>
        ffmaV (.ofCode f.rnd) (f32 (s.core.rv f.a.toNat i)) (f32 (s.bop f i)) (f32 (s.core.rv f.c.toNat i))))
    ∧ ∀ h f s, s.core.enabled h = true →
      Gives (.vcmp h f) s (bitsWritten s f 4 (fun i => fcmp (.ofCode f.cnd) (f32 (s.core.rv f.a.toNat i)) (f32 (s.bop f i)))
        { inv := ((s.core.lanes f.msk.toNat).filter fun i => (f32 (s.core.rv f.a.toNat i)).isSnan || (f32 (s.bop f i)).isSnan).length })

/-- A NaN operand gives the canonical NaN, and only a signalling one raises the invalid event; a fused multiply-add raises it for 0 times
infinity too, whatever its addend (R112). -/
def NanOperandsGiveTheCanonicalNan : Prop :=
  (∀ o ∈ floatOps, ∀ h f, o.1 h f ≠ .vclass h f → ∀ m x y, (f32 x).isNan = true → (f32 y).isNan = false →
      (o.2.2 m x y).code = 0x7FC00000 ∧ (o.2.2 m x y).ev = { inv := (f32 x).isSnan })
    ∧ (∀ m x y, ((f32 x).isNan = true ∨ (f32 y).isNan = true) →
        let nan : FRes := ⟨0x7FC00000, { inv := (f32 x).isSnan || (f32 y).isSnan }⟩
        faddV m (f32 x) (f32 y) = nan ∧ faddV m (f32 x) (f32 y).negate = nan ∧ fmulV m (f32 x) (f32 y) = nan
          ∧ fminmax false x y = nan ∧ fminmax true x y = nan)
    ∧ ∀ m x y z, ((f32 x).isNan = true ∨ (f32 y).isNan = true ∨ (f32 z).isNan = true) →
        let zeroInf := ((∃ n, f32 x = .inf n) ∧ (f32 y).isZero = true) ∨ ((∃ n, f32 y = .inf n) ∧ (f32 x).isZero = true)
        (ffmaV m (f32 x) (f32 y) (f32 z)).code = 0x7FC00000
          ∧ (zeroInf → (ffmaV m (f32 x) (f32 y) (f32 z)).ev = { inv := true })
          ∧ (¬zeroInf → (ffmaV m (f32 x) (f32 y) (f32 z)).ev = { inv := (f32 x).isSnan || (f32 y).isSnan || (f32 z).isSnan })

/-- Words that move lanes (R234). -/
def VectorMoves : Prop :=
  (∀ o ∈ moveOps, ∀ h f s, s.core.enabled h = true → Gives (o.1 h f) s (quietLanes s f o.2.1 (o.2.2 f s)))
    ∧ (∀ h f s, s.core.enabled h = true →
      let x := s.core.rv f.a.toNat (f.aux.toNat % 128)
      Gives (.vext h f) s (s.writeBack 3 [.a f.d.toNat (if f.ty = 21 then x.zeroExtend 64 else x.signExtend 64)]))
    ∧ ∀ h (f : RRI) s, s.core.enabled h = true →
      Gives (.vpart h f) s (s.writeBack 1 [.seg f.imm.toNat])
      ∧ Gives (.viota h f) s (s.writeBack 2
          [.v f.d.toNat ((List.range 128).map fun i => (i, f.imm + f.md.signExtend 32 * BitVec.ofNat 32 i))] {} (some f.d.toNat))
      ∧ Gives (.vsplat h f) s (s.writeBack 2
          [.v f.d.toNat ((List.range 128).map fun i => (i, (s.core.ra f.a.toNat + f.imm.signExtend 64).truncate 32))] {} (some f.d.toNat))

/-- Integer reductions and scans give the fold of the segment's enabled lanes, whatever the order of the tree (R236). -/
def IntegerReductions : Prop :=
  ∀ h f s, s.core.enabled h = true → f.ty ≠ 1 →
    let c := s.core
    let r := reduction (f.ty = 21) (f.aux.toNat % 16)
    let fold := fun is : List Nat => is.foldl (fun x i => r.1 x (c.rv f.a.toNat i)) r.2
    let segs := enabledBySegment c f.msk.toNat
    (c.seg ≤ 128 → Gives (.vred h f) s (s.writeBack 8 [.v f.d.toNat (segs.flatMap fun is => is.map fun i => (i, fold is))] {} (some f.d.toNat)))
    ∧ Gives (.vscan h f) s (s.writeBack 8 [.v f.d.toNat (segs.flatMap fun is => is.map fun i =>
        (i, fold (is.filter fun j => if f.aux.getLsbD 4 then decide (j < i) else decide (j ≤ i))))] {} (some f.d.toNat))

/-- FP32 reductions follow the tree of R236, scans the order of the lanes; each raises an event once for its segment. -/
def FloatReductions : Prop :=
  ∀ h f s, s.core.enabled h = true → f.ty = 1 →
    let c := s.core
    (∃ t rs, Gives (.vred h f) s t
        ∧ rs = (List.range (128 / c.seg)).map (fun k => redTree f 7 ((List.range c.seg).map fun j =>
            if c.rm f.msk.toNat (k * c.seg + j) then some (exact (c.rv f.a.toNat (k * c.seg + j))) else none))
        ∧ t = s.writeBack 8 [.v f.d.toNat ((enabledBySegment c f.msk.toNat).zip rs |>.flatMap fun (is, r) =>
            is.map fun i => (i, BitVec.ofNat 32 ((r.map (·.code)).getD 0)))] (countEv (rs.filterMap id)) (some f.d.toNat))
    ∧ ∃ t rs, Gives (.vscan h f) s t
        ∧ rs = (List.range (128 / c.seg)).map (fun k => scanSeg f c none ((List.range c.seg).map fun j => k * c.seg + j))
        ∧ t = s.writeBack 8 [.v f.d.toNat (rs.flatMap Prod.fst)] (countEv (rs.filterMap Prod.snd)) (some f.d.toNat)

/-- Votes, counts and mask logic (R237). -/
def VotesAndMasks : Prop :=
  ∀ h f s, s.core.enabled h = true →
    let c := s.core
    let on := fun i => ((List.range c.seg).map fun j => i - i % c.seg + j).filter fun j => c.rm f.msk.toNat j
    let bit := fun i => c.rm f.a.toNat i
    let mode := f.aux.toNat % 4
    Gives (.vvote h f) s (bitsWritten s f 4 (fun i =>
        if mode = 0 then (on i).any bit else if mode = 1 then (on i).all bit else (on i).all bit || !(on i).any bit) {})
    ∧ Gives (.vmpop h f) s (lanesWritten s f 4 fun i =>
        ⟨((on i).filter fun j => bit j && (!f.aux.getLsbD 0 || decide (j < i))).length, {}⟩)
    ∧ Gives (.mlog h f) s (bitsWritten s f 2 (fun i => f.aux.getLsbD (2 * (bit i).toNat + (c.rm f.b.toNat i).toNat)) {})
    ∧ Gives (.mmovp h f) s
        (if mode = 2 then bitsWritten s f 2 (fun _ => c.rp f.a.toNat) {}
         else s.writeBack 2 [.p f.d.toNat (if mode = 0 then (c.lanes f.msk.toNat).any bit else (c.lanes f.msk.toNat).all bit)])

/-- Conversions, block quantisation and block scaling (R231, R232): VMXD counts no inexact event (R130). -/
def VectorConversions : Prop :=
  ∀ h f s, s.core.enabled h = true →
    let src := Ty.of (BitVec.ofNat 5 (f.aux.toNat / 16))
    let dst := Ty.of f.ty
    let x := fun i => codeOf src (s.core.rv f.a.toNat i)
    Gives (.vcvt h f) s (lanesWritten s f 4 fun i =>
        let r := convert src dst (.ofCode f.rnd) (f.sat = 1) (x i)
        ⟨laneCode dst r.code, r.ev⟩)
    ∧ Gives (.vmxd h f) s (lanesWritten s f 4 fun i =>
        if f.ty = 1 then mxToF32 src (.ofCode f.rnd) ((s.bop f i).toNat % 256) (x i)
        else { convert src dst (.ofCode f.rnd) false (x i) with ev := { (convert src dst (.ofCode f.rnd) false (x i)).ev with inx := false } })
    ∧ ∃ t, Gives (.vbq h f) s t ∧ ∃ codes scales ev, t = s.writeBack 6 [.v f.d.toNat codes, .v f.c.toNat scales] ev (some f.d.toNat)
        ∧ codes.map Prod.fst = List.range 128 ∧ scales.map Prod.fst = List.range 128
        ∧ ∀ k < 4, ∀ j < 32,
          let block := vbqBlock (blockTy f.ty) (.ofCode f.rnd) ((List.range 32).map fun j => (s.core.rv f.a.toNat (32 * k + j)).toNat)
          scales[32 * k + j]? = some (32 * k + j, BitVec.ofNat 32 block.1)
          ∧ codes[32 * k + j]? = block.2[j]?.map fun r => (32 * k + j, BitVec.ofNat 32 r.code)

/-- Vector loads and stores of contiguous and of gathered elements, in range, aligned, without a bank clash, on clean words (R239 to
R243). -/
def VectorMemoryResults : Prop :=
  (∀ h (f : MEM) s, s.core.enabled h = true →
      let ty := Ty.of f.ty
      let sw := f.swz.toNat
      let ea := s.core.memBase f
      let as := (addrs ea (64 * ty.nibbles)).map (swizzle sw)
      let on := s.core.lanes f.msk.toNat
      s.vecCheck ty sw ea = none →
      (CleanBytes s as → Gives (.vld h f) s ((s.usePort (bankWords as)).writeBack 6 [.v f.d.toNat (on.map fun i =>
          (i, BitVec.ofNat 32 (loadLane ty (f.aux.getLsbD 1) (loadCode s.core ty sw ea i))))] {} (some f.d.toNat)))
      ∧ (let r := fun i => storeCode ty (f.aux.getLsbD 1) (f.aux.getLsbD 0) (s.core.rv f.d.toNat i)
         Gives (.vst h f) s (((s.usePort (bankWords as)).storeNow
            (if ty.nibbles = 1 then [] else on.flatMap fun i => (laneAddrs ty sw ea i).zip (leBytes (ty.nibbles / 2) (r i).code))
            (if ty.nibbles = 1 then on.map fun i => (2 * swizzle sw (ea + i / 2) + i % 2, (r i).code) else [])).writeBack 0 []
              (countEv (on.map r)))))
    ∧ ∀ h (f : RRR) s cs, s.core.enabled h = true →
      let ty := gatherTy f.ty
      let on := s.core.lanes f.msk.toNat
      s.gatherCheck ty (on.map (s.gatherAddr f)) = .inr cs →
      (CleanBytes s (on.map (s.gatherAddr f)) → Gives (.vgath h f) s ((s.useCycles cs).writeBack 10 [.v f.d.toNat (on.map fun i =>
          (i, BitVec.ofNat 32 (loadLane ty false (Memory.nat s.core.ls (s.gatherAddr f i) (ty.nibbles / 2)))))] {} (some f.d.toNat)))
      ∧ Gives (.vscat h f) s ((s.useCycles cs).storeNow (on.flatMap fun i =>
          bytesAt (s.gatherAddr f i) (ty.nibbles / 2) (s.core.rv f.d.toNat i).toNat))

/-- Vector accesses that fail a check trap at the word, with no access made (R240 to R242). -/
def VectorMemoryTraps : Prop :=
  (∀ h (f : MEM) s d, s.core.enabled h = true → s.vecCheck (Ty.of f.ty) f.swz.toNat (s.core.memBase f) = some d →
      Gives (.vld h f) s (s.trapWord 0x0F d) ∧ Gives (.vst h f) s (s.trapWord 0x0F d))
    ∧ (∀ h (f : RRR) s d, s.core.enabled h = true →
      s.gatherCheck (gatherTy f.ty) ((s.core.lanes f.msk.toNat).map (s.gatherAddr f)) = .inl d →
      Gives (.vgath h f) s (s.trapWord 0x0F d) ∧ Gives (.vscat h f) s (s.trapWord 0x0F d))
    ∧ (∀ s ty ea, lsEnd < ea + 64 * ty.nibbles → 0 < ty.nibbles → State.vecCheck s ty 0 ea = some 0)
    ∧ ∀ s ty ea, ea + 64 * ty.nibbles ≤ lsEnd → 0 < ty.nibbles → ea % max 1 (ty.nibbles / 2) ≠ 0 → State.vecCheck s ty 0 ea = some 1

/-! ## The matrix engine (R271 to R296) -/

/-- MTD takes a valid descriptor and traps on an invalid one; MTZ clears a tile (R274, R279, R280). -/
def TileDescriptors : Prop :=
  ∀ h f s, s.core.enabled h = true →
    (tdValid (s.opB f) = true → Gives (.mtd h f) s (s.writeBack 1 [.td f.d.toNat (s.opB f)]))
    ∧ (tdValid (s.opB f) = false → TrapsWith (.mtd h f) s 1 0xB)
    ∧ Gives (.mtz h f) s (s.writeBack 1 [.tile f.d.toNat ((List.range 16384).map fun i => (i, 0))])

/-- MTLD reads group j of eight rows in its cycle t + j and writes the tile 8 cycles after the last (R281); what no row of the local
store fills is cleared. A failed check and a raw tile trap (R279, R281). -/
def TileLoads : Prop :=
  ∀ h (f : MEM) s, s.core.enabled h = true →
    let d := s.core.rtd f.d.toNat
    let rb := tdRowBytes d
    let nr := tdRows d
    let ea := s.core.memBase f
    let stride := if f.aux = 0 then rb else 2 ^ (f.aux.toNat + 8)
    let n := (nr + 7) / 8
    let check := s.tileCheck ea stride rb nr (groupBanks s.gcc (tileGroups ea stride f.swz.toNat rb nr))
    (tdType d = .none → TrapsWith (.mtld h f) s 1 0xB)
    ∧ (∀ e, tdType d ≠ .none → check = some e → TrapsWith (.mtld h f) s 0x0F e)
    ∧ (tdType d ≠ .none → check = none → ∃ t, Gives (.mtld h f) s t ∧ OnlySchedules s t
        ∧ (∀ j < n, ∃ g, DueAtPlace t s.cur.row s.cur.core (s.gcc + j) (.ev (.tileGroupAccess g)) ∧ g.store = false ∧ g.tile = f.d.toNat
            ∧ g.done = 8 + n - j
            ∧ (∀ r < nr, r / 8 = j → ∀ b < rb, (swizzle f.swz.toNat (ea + r * stride + b), 256 * r + b) ∈ g.loads)
            ∧ ∀ x ∈ g.loads, ∃ r < nr, r / 8 = j ∧ ∃ b < rb, x = (swizzle f.swz.toNat (ea + r * stride + b), 256 * r + b))
        ∧ ∀ r < 64, ∀ b < 256, (nr ≤ r ∨ rb ≤ b) → ∃ j < n, ∃ g,
            DueAtPlace t s.cur.row s.cur.core (s.gcc + j) (.ev (.tileGroupAccess g)) ∧ 256 * r + b ∈ g.clear)

/-- MTST stores group j of eight rows in cycle t + 4 + j, converted to its memory type (R282); an uncorrectable word in the rows described
traps first, and corrected ones are counted (R295, R179). -/
def TileStores : Prop :=
  ∀ h (f : MEM) s, s.core.enabled h = true →
    let d := s.core.rtd f.d.toNat
    let spans := (List.range (tdRows d)).map fun r => (f.d.toNat, 256 * r, 256 * r + tdRowBytes d)
    let u := tilesCounted s spans
    let m := Ty.of f.ty
    let nr := tdRows d
    let ob := if m = .none then tdRowBytes d else tileBytes m (tdCols d)
    let ea := s.core.memBase f
    let stride := if f.aux = 0 then ob else 2 ^ (f.aux.toNat + 8)
    let check := s.tileCheck ea stride ob nr (groupBanks (s.gcc + 4) (tileGroups ea stride f.swz.toNat ob nr))
    let ok := mtstPair (tdType d) m && !(m == .e2m1 && tdCols d % 2 == 1)
    let row := fun r => (storeRow d m (s.core.tileBound f.d.toNat)
      ((List.range (tdRowBytes d)).map fun i => s.core.rtOld s.gcc f.d.toNat (256 * r + i))).1
    (ok = false → TrapsWith (.mtst h f) s 1 0xB)
    ∧ (ok = true → BadTileWord s spans → TilesTrap (.mtst h f) s spans)
    ∧ (∀ e, ok = true → ¬BadTileWord s spans → check = some e → Gives (.mtst h f) s (u.trapWord 0x0F e))
    ∧ (ok = true → ¬BadTileWord s spans → check = none → ∃ t, Gives (.mtst h f) s t ∧ OnlySchedules u t
        ∧ ∀ j < (nr + 7) / 8, ∃ g, DueAtPlace t s.cur.row s.cur.core (s.gcc + 4 + j) (.ev (.tileGroupAccess g)) ∧ g.store = true
            ∧ (∀ r < nr, r / 8 = j → ∀ b < ob, (swizzle f.swz.toNat (ea + r * stride + b), (row r).getD b 0) ∈ g.stores)
            ∧ ∀ x ∈ g.stores, ∃ r < nr, r / 8 = j ∧ ∃ b < ob, x = (swizzle f.swz.toNat (ea + r * stride + b), (row r).getD b 0))

/-- What the groups of MTLD and MTST do at their cycles (R281, R282, R284). -/
def TileGroups : Prop :=
  ∀ g s,
    (g.store = true → Gives (.tileGroupAccess g) s (s.here fun c => c.store g.stores []))
    ∧ (g.store = false → CleanBytes s (g.loads.map Prod.fst) → Gives (.tileGroupAccess g) s
        (s.addCore g.done 3 g.wid (.ev (.registerWriteBack
          { wid := g.wid, nth := g.nth
            writes := [.tile g.tile (g.loads.map (fun x => (x.2, Memory.byte s.core.ls x.1)) ++ g.clear.map fun o => (o, 0))] }))))
    ∧ (g.store = false → (∃ a ∈ g.loads.map Prod.fst, s.core.cls a = .poisoned ∨ s.core.cls a = .uncorrectable) →
        Gives (.tileGroupAccess g) s (s.poisonAfter g.wid g.nth (g.loads.map Prod.fst)))

/-- MMA and MMAX read their operands at issue and put the product of every row of A with every row of B on the agenda, to meet the
accumulator 12 cycles on, and no other output (R285, R286); operands whose descriptors do not fit trap (R279), and so does an
uncorrectable word among those they describe, scales and the accumulator of MMA with them (R295; log entry 165). -/
def Products : Prop :=
  ∀ h f s, s.core.enabled h = true → ∀ zero : Bool,
    let c := s.core
    let a := c.rtd f.a.toNat
    let b := c.rtd f.b.toNat
    let spans := operandSpans f.a.toNat a ++ operandSpans f.b.toNat b ++ if zero then [] else operandSpans f.d.toNat (c.rtd f.d.toNat)
    let out := fun x y => (256 * x + 4 * y, groupSums (tileOperand c f.a.toNat a x) (tileOperand c f.b.toNat b y) (tileScales c a x) (tileScales c b y))
    let n := f.aux.toNat % 8 + 1
    let i := if zero then Instr.mmax h f else .mma h f
    (mmaOk a b (c.rtd f.d.toNat) n = false → TrapsWith i s 1 0xB)
    ∧ (mmaOk a b (c.rtd f.d.toNat) n = true → BadTileWord s spans → TilesTrap i s spans)
    ∧ (mmaOk a b (c.rtd f.d.toNat) n = true → ¬BadTileWord s spans → ∃ t w j, Gives i s t ∧ SameMachine (tilesCounted s spans) t
        ∧ DueAtPlace t s.cur.row s.cur.core (s.gcc + 12) (.ev (.registerWriteBack w)) ∧ w.job = some j
        ∧ j.tile = f.d.toNat ∧ j.zero = zero ∧ j.done = n - 1
        ∧ (∀ x < tdRows a, ∀ y < tdRows b, out x y ∈ j.outs) ∧ ∀ o ∈ j.outs, ∃ x < tdRows a, ∃ y < tdRows b, o = out x y)

/-- The accumulator is read, every output summed into it and the result, these bytes and no other, written with the job's last cycle (R119,
R120, R286). -/
def AccumulatorReads : Prop :=
  ∀ w j s, w.job = some j → ∃ t v bs, Gives (.registerWriteBack w) s t ∧ SameMachine s t
    ∧ DueAtPlace t s.cur.row s.cur.core (s.gcc + j.done) (.ev (.registerWriteBack v)) ∧ v.writes = [.tile j.tile bs]
    ∧ (let byte := fun (o : Nat) gs (k : Nat) => (o + k, BitVec.ofNat 8 ((accumulate j.isInt
          (if j.zero then 0 else leNat [s.core.rt j.tile o, s.core.rt j.tile (o + 1), s.core.rt j.tile (o + 2), s.core.rt j.tile (o + 3)]) gs).code
            / 256 ^ k))
       (∀ o gs, (o, gs) ∈ j.outs → ∀ k < 4, byte o gs k ∈ bs) ∧ ∀ x ∈ bs, ∃ o gs, (o, gs) ∈ j.outs ∧ ∃ k < 4, x = byte o gs k)

/-- An integer product adds the exact sum of the products of its elements, modulo 2^32, whatever its groups (R118, R120). -/
def IntegerProductsAreExact : Prop :=
  ∀ (sa sb : Bool) (xs ys : List Byte) (acc : Nat) (ka kb : List Nat), xs.length = ys.length → (∀ k ∈ ka, k = 127) → (∀ k ∈ kb, k = 127) →
    let ty := fun signed : Bool => if signed then Ty.i8 else .ui8
    let r := accumulate true acc (groupSums (xs.map fun x => mmaValue (ty sa) x.toNat) (ys.map fun y => mmaValue (ty sb) y.toNat) ka kb)
    (r.code : Int) = (acc + ((xs.zip ys).map fun p => byteInt sa p.1 * byteInt sb p.2).sum) % 2 ^ 32 ∧ r.ev = {}

/-- A stream begins at its head with the head's own tile, or with the header that has just arrived; with no header it traps, and
with nowhere to forward to as well (R287 to R290). What the descriptors of A and D rule out by themselves comes first (R279, R285), an
uncorrectable word among the tile words read last (R295; log entry 165). -/
def StreamsBegin : Prop :=
  ∀ h f s, s.core.enabled h = true →
    let c := s.core
    let head := c.rp f.c.toNat
    let fwd := c.rp (f.aux.toNat / 8 % 8)
    let n := f.aux.toNat % 8 + 1
    let east := s.neighbour s.cur.row s.cur.core 0
    let own := mmaOwnOk (c.rtd f.a.toNat) (c.rtd f.d.toNat) n
    let spans := fun b : Word => operandSpans f.a.toNat (c.rtd f.a.toNat)
      ++ (if head then ((List.range 64).map fun r => (f.b.toNat, 256 * r, 256 * r + 32 * n)) ++ operandSpans f.b.toNat b else [])
      ++ if f.aux.getLsbD 6 then [] else operandSpans f.d.toNat (c.rtd f.d.toNat)
    let whole := if head then [(f.a.toNat, 0, 16384)] else []
    (own = false → TrapsWith (.mmas h f) s 1 0xB)
    ∧ (own = true → s.header head false f.b.toNat = none → TrapsWith (.mmas h f) s 5 3)
    ∧ (s.header head true f.a.toNat = none → TrapsWith (.mfwd h f) s 5 3)
    ∧ (∀ y, s.header head false f.b.toNat = some y → mmaOk (c.rtd f.a.toNat) y.desc (c.rtd f.d.toNat) n = false → TrapsWith (.mmas h f) s 1 0xB)
    ∧ (∀ y, s.header head false f.b.toNat = some y → mmaOk (c.rtd f.a.toNat) y.desc (c.rtd f.d.toNat) n = true → fwd = true → east = none →
        TrapsWith (.mmas h f) s 5 2)
    ∧ (∀ y, s.header head false f.b.toNat = some y → mmaOk (c.rtd f.a.toNat) y.desc (c.rtd f.d.toNat) n = true → (fwd = false ∨ east ≠ none) →
        BadTileWord s (spans y.desc) → TilesTrap (.mmas h f) s (spans y.desc))
    ∧ (∀ y, s.header head true f.a.toNat = some y → tdValid y.desc = true → tdType y.desc ≠ .none → (fwd = false ∨ east ≠ none) →
        BadTileWord s whole → TilesTrap (.mfwd h f) s whole)
    ∧ (∀ y, s.header head false f.b.toNat = some y → mmaOk (c.rtd f.a.toNat) y.desc (c.rtd f.d.toNat) n = true → (fwd = false ∨ east ≠ none) →
        ¬BadTileWord s (spans y.desc) →
        ∃ t u, Gives (.mmas h f) s t ∧ t.core.stream = some u ∧ u.tile = f.d.toNat ∧ u.zero = f.aux.getLsbD 6 ∧ u.n = n ∧ u.header = some y
          ∧ u.head = head ∧ u.fwd = fwd ∧ t.core.tile = c.tile ∧ t.core.td = c.td ∧ t.core.ls = c.ls ∧ t.rows = s.rows
          ∧ (head = true → ∀ i < n, DueAtPlace t s.cur.row s.cur.core (s.gcc + i + 1)
              (.ev (.streamCycleArrival { c.streamSlice false f.b.toNat y.desc (i + 1) with own := true })))
          ∧ (fwd = true → ∀ r x, east = some (r, x) → DueAtPlace t r x (s.gcc + 2) (.ev (.streamCycleArrival y))))
    ∧ ∀ y, s.header head true f.a.toNat = some y → tdValid y.desc = true → tdType y.desc ≠ .none → (fwd = false ∨ east ≠ none) → ¬BadTileWord s whole →
        ∃ t u id nth, Gives (.mfwd h f) s t ∧ t.core.stream = some u ∧ u.tile = f.d.toNat ∧ u.n = 8 ∧ u.mfwd = true ∧ u.header = some y
          ∧ t.core.tile = c.tile ∧ t.core.td = c.td ∧ t.rows = s.rows
          ∧ DueAtPlace t s.cur.row s.cur.core (s.gcc + 1)
              (.ev (.registerWriteBack { wid := id, writes := [.td f.d.toNat y.desc], nth := nth }))
          ∧ (head = true → ∀ i < 8, DueAtPlace t s.cur.row s.cur.core (s.gcc + i + 1)
              (.ev (.streamCycleArrival { c.streamSlice true f.a.toNat y.desc (i + 1) with own := true })))
          ∧ (fwd = true → ∀ r x, east = some (r, x) → DueAtPlace t r x (s.gcc + 2) (.ev (.streamCycleArrival y)))

/-- A header waits for its word in its cycle; a slice in its turn is kept, forwarded two cycles on, and for MFWD written to its rows
of the tile in the next cycle, after that cycle's reads (R287 to R291; log entry 105); a slice that no stream of the core expects is discarded, as are those of a western
neighbour at a head. -/
def StreamCycles : Prop :=
  ∀ y s,
    (y.idx = 0 → Gives (.streamCycleArrival y) s (s.here fun c => { c with strHeader := some y, strAt := s.gcc }))
    ∧ (y.idx ≠ 0 → s.core.stream = none → Gives (.streamCycleArrival y) s s)
    ∧ (∀ u, y.idx ≠ 0 → s.core.stream = some u → (u.mfwd ≠ y.mfwd ∨ u.head ≠ y.own ∨ y.idx ≠ u.slices.length + 1) → Gives (.streamCycleArrival y) s s)
    ∧ ∀ u, y.idx ≠ 0 → s.core.stream = some u → u.mfwd = y.mfwd → u.head = y.own → y.idx = u.slices.length + 1 → u.dead = false → y.bad = false →
        ∃ t, Gives (.streamCycleArrival y) s t
          ∧ t.core.stream = (if y.idx < u.n then some { u with slices := u.slices ++ [y.bytes] } else none)
          ∧ t.core.tile = s.core.tile ∧ t.rows = s.rows
          ∧ (u.fwd = true → ∀ r x, s.neighbour s.cur.row s.cur.core 0 = some (r, x) → DueAtPlace t r x (s.gcc + 2)
              (.ev (.streamCycleArrival { y with own := false })))
          ∧ (u.mfwd = true → DueAtPlace t s.cur.row s.cur.core (s.gcc + 1) (.ev (.registerWriteBack
              { wid := u.wid, nth := u.nth, writes := [.tile u.tile (((List.range 2048).map (2048 * (y.idx - 1) + ·)).zip y.bytes)] })))
          ∧ (u.mfwd = false → y.idx = u.n → ∃ w j, DueAtPlace t s.cur.row s.cur.core (s.gcc + (13 - u.n)) (.ev (.registerWriteBack w))
              ∧ w.job = some j ∧ j.tile = u.tile ∧ j.zero = u.zero ∧ j.done = u.n - 1)

/-- Moves between tiles and vectors, transposition and scaling (R292 to R294). An uncorrectable word among the tile words read traps at
the word, and corrected ones are counted (R295). -/
def TileMoves : Prop :=
  ∀ h f s, s.core.enabled h = true →
    let c := s.core
    let r := 2 * (f.aux.toNat % 32)
    let n := f.aux.toNat / 32 % 8 + 1
    (let spans := [(f.a.toNat, 256 * r, 256 * (r + 2 * n))]
     (BadTileWord s spans → TilesTrap (.mtv h f) s spans)
     ∧ (¬BadTileWord s spans → Gives (.mtv h f) s ((tilesCounted s spans).writeBack 4 ((List.range n).map fun m =>
        .v (f.d.toNat + m) ((List.range 128).map fun l =>
        let o := 256 * (r + 2 * m) + 4 * l
        (l, c.rt f.a.toNat (o + 3) ++ c.rt f.a.toNat (o + 2) ++ c.rt f.a.toNat (o + 1) ++ c.rt f.a.toNat o))))))
    ∧ (∃ bs, Gives (.mvt h f) s (s.writeBack 2 [.tile f.d.toNat bs]) ∧ bs.length = 512 * n
        ∧ ∀ m < n, ∀ l < 128, ∀ b < 4, (256 * (r + 2 * m) + 4 * l + b,
            (c.rv (if f.aux.getLsbD 8 then f.a.toNat else f.a.toNat + m) l).extractLsb' (8 * b) 8) ∈ bs)
    ∧ (let z := tileNibs (tdType (c.rtd f.a.toNat)) / 2
       let hh := f.aux.toNat % 4
       let g := f.aux.toNat / 4 % 4
       let bad := tdType (c.rtd f.a.toNat) = .none ∨ z = 0 ∨ 4 / z ≤ hh ∨ 4 / z ≤ g
       let spans := (List.range 64).map fun i => (f.a.toNat, 256 * i + 64 * z * hh, 256 * i + 64 * z * (hh + 1))
       (bad → TrapsWith (.mtt h f) s 1 0xB)
       ∧ (¬bad → BadTileWord s spans → TilesTrap (.mtt h f) s spans)
       ∧ (¬bad → ¬BadTileWord s spans → ∃ bs, Gives (.mtt h f) s ((tilesCounted s spans).writeBack 8 [.tile f.d.toNat bs]) ∧ bs.length = 64 * 64 * z
          ∧ ∀ i < 64, ∀ j < 64, ∀ b < z, (256 * j + z * (64 * g + i) + b, c.rt f.a.toNat (256 * i + z * (64 * hh + j) + b)) ∈ bs))
    ∧ (let a := c.rtd f.a.toNat
       let d := c.rtd f.d.toNat
       let fits := tdType a = .f32 ∧ tdType d = .f32 ∧ tdRows a = tdRows d ∧ tdCols a = tdCols d
       let spans := operandSpans f.a.toNat a
       (¬fits → TrapsWith (.mscl h f) s 1 0xB)
       ∧ (fits → BadTileWord s spans → TilesTrap (.mscl h f) s spans)
       ∧ (fits → ¬BadTileWord s spans → ∃ bs ev, Gives (.mscl h f) s ((tilesCounted s spans).writeBack 6 [.tile f.d.toNat bs] ev)
          ∧ ∀ i < tdRows a, ∀ j < tdCols a, j < 64 →
            let x := c.rt f.a.toNat (256 * i + 4 * j + 3) ++ c.rt f.a.toNat (256 * i + 4 * j + 2) ++ c.rt f.a.toNat (256 * i + 4 * j + 1)
              ++ c.rt f.a.toNat (256 * i + 4 * j)
            let row := if f.aux.getLsbD 1 then c.rv f.b.toNat (64 + i) else 0x3F800000
            let col := if f.aux.getLsbD 0 then c.rv f.b.toNat j else 0x3F800000
            ∀ b < 4, (256 * i + 4 * j + b, BitVec.ofNat 8 ((fmul3 (.ofCode f.rnd) (f32 x) (f32 row) (f32 col)).code / 256 ^ b)) ∈ bs))

/-! ## Mesh links and puts (R244 to R263) -/

/-- SEND and RECV (R246 to R248, R253, R254): entries reach the neighbour two cycles on and hold a place there; RECV takes the oldest
entries and frees their places four cycles on. A closed port, a full buffer and an entry that is not there trap. -/
def MeshSendAndReceive : Prop :=
  ∀ h f s, s.core.enabled h = true →
    (let dest := s.neighbour s.cur.row s.cur.core f.d.toNat
     let q := opposite f.d.toNat
     let es := s.sendEntries f
     (dest = none → TrapsWith (.send h f) s 5 2)
     ∧ (∀ r c, dest = some (r, c) → 128 < ((s.coreAt r c).rxb q).occupied + es.length → TrapsWith (.send h f) s 5 1)
     ∧ ∀ r c, dest = some (r, c) → ((s.coreAt r c).rxb q).occupied + es.length ≤ 128 →
        ∃ t, Gives (.send h f) s t ∧ t.core = s.core ∧ t.rows = s.rows ∧ t.tasks = s.tasks
          ∧ ((t.coreAt r c).rxb q).occupied = ((s.coreAt r c).rxb q).occupied + es.length
          ∧ ((t.coreAt r c).rxb q).entries = ((s.coreAt r c).rxb q).entries ∧ (t.coreAt r c).ls = (s.coreAt r c).ls
          ∧ ∀ e ∈ es, DueAtPlace t r c (s.gcc + 2) (.ev (.meshEntryArrival q e [])))
    ∧ (let port := f.a.toNat
       let n := f.aux.toNat % 4 + 1
       let es := (s.core.rxb port).entries.take n
       let opened := s.neighbour s.cur.row s.cur.core port ≠ none
       (¬opened → TrapsWith (.recv h f) s 5 2)
       ∧ (opened → es.length < n → TrapsWith (.recv h f) s 5 0)
       ∧ (opened → es.length = n → (∃ e ∈ es, e.poison ≠ []) → Gives (.recv h f) s (s.countPoison.trapWord 8 0))
       ∧ (opened → es.length = n → (∀ e ∈ es, e.poison = []) →
          Gives (.recv h f) s (((s.here fun c => c.modRx port fun b => { b with entries := b.entries.drop n }).addCore 4 2 0 (.cont (.rxFree port n))).writeBack 2
            (((List.range n).zip es).map fun x =>
              if f.aux.getLsbD 8 then .a f.d.toNat (BitVec.ofNat 64 (leNat (x.2.bytes.take 8))) else .v (f.d.toNat + x.1) (lanesOf x.2.bytes)))))

/-- SENDT and RECVT (R248, R255, R256): pieces are read, or entries written, one a cycle from the word's own on; the places
of all entries of a RECVT become free 4 cycles on. The checks come in the order of R255 and R256, and the first that fails traps. Log entry
122 says which entries on their way a RECVT counts on. -/
def MeshTransfers : Prop :=
  ∀ h f s, s.core.enabled h = true →
    let x := (s.opB f).toNat
    let u := f.aux.toNat % 128 + 1
    let k : EngClaim := ⟨s.gcc, x, 512 * u, 512, 0⟩
    (0x1800000 < x + 512 * u → TrapsWith (.sendt h f) s 0x0F 0 ∧ TrapsWith (.recvt h f) s 0x0F 0)
    ∧ (x + 512 * u ≤ 0x1800000 → x % 64 ≠ 0 → TrapsWith (.sendt h f) s 0x0F 1 ∧ TrapsWith (.recvt h f) s 0x0F 1)
    ∧ (x + 512 * u ≤ 0x1800000 → x % 64 = 0 →
        (s.neighbour s.cur.row s.cur.core f.d.toNat = none → TrapsWith (.sendt h f) s 5 2)
        ∧ (∀ r c, s.neighbour s.cur.row s.cur.core f.d.toNat = some (r, c) →
            (128 < ((s.coreAt r c).rxb (opposite f.d.toNat)).occupied + u → TrapsWith (.sendt h f) s 5 1)
            ∧ (((s.coreAt r c).rxb (opposite f.d.toNat)).occupied + u ≤ 128 → s.core.engFails k = true → TrapsWith (.sendt h f) s 0x0F 4))
        ∧ (s.neighbour s.cur.row s.cur.core f.a.toNat = none → TrapsWith (.recvt h f) s 5 2)
        ∧ (s.neighbour s.cur.row s.cur.core f.a.toNat ≠ none → s.recvtReady f.a.toNat u = true → s.core.engFails k = true → TrapsWith (.recvt h f) s 0x0F 4)
        ∧ (∀ r c, s.neighbour s.cur.row s.cur.core f.d.toNat = some (r, c) → ((s.coreAt r c).rxb (opposite f.d.toNat)).occupied + u ≤ 128 →
          s.core.engFails k = false → ∃ t, Gives (.sendt h f) s t ∧ t.core = s.core.engAdd s.gcc k
            ∧ ((t.coreAt r c).rxb (opposite f.d.toNat)).occupied = ((s.coreAt r c).rxb (opposite f.d.toNat)).occupied + u
            ∧ DueAtPlace t s.cur.row s.cur.core s.gcc (.cont (.sendtRead f.d.toNat x 0 u)))
        ∧ (s.neighbour s.cur.row s.cur.core f.a.toNat ≠ none → s.recvtReady f.a.toNat u = true → s.core.engFails k = false →
          ∃ t, Gives (.recvt h f) s t ∧ OnlySchedules s t ∧ DueAtPlace t s.cur.row s.cur.core (s.gcc + 4) (.cont (.rxFree f.a.toNat u))
            ∧ ∀ i < u, DueAtPlace t s.cur.row s.cur.core (s.gcc + i) (.ev (.recvtEntryWrite f.a.toNat (x + 512 * i))))
        ∧ (s.neighbour s.cur.row s.cur.core f.a.toNat ≠ none → s.recvtReady f.a.toNat u = false → TrapsWith (.recvt h f) s 5 0))

/-- A piece that SENDT reads reaches the neighbour two cycles on as one entry, poisoned words with it; the first piece announces the others,
and the next piece is read a cycle on (R255, R143). -/
def MeshPieces : Prop :=
  ∀ port x i u s,
    let t := runCont (.sendtRead port x i u) s
    let e : MeshEntry := ⟨Memory.bytes s.core.ls (x + 512 * i) 512, (List.range 64).filter fun j => (s.core.cls (x + 512 * i + 8 * j)).bad⟩
    (∀ r c, s.neighbour s.cur.row s.cur.core port = some (r, c) →
        DueAtPlace t r c (s.gcc + 2) (.ev (.meshEntryArrival (opposite port) e (if i = 0 then (List.range (u - 1)).map (1 + ·) else [0]))))
    ∧ (i + 1 < u → DueAtPlace t s.cur.row s.cur.core (s.gcc + 1) (.cont (.sendtRead port x (i + 1) u)))
    ∧ t.core.ls = s.core.ls ∧ t.core.a = s.core.a ∧ t.core.v = s.core.v ∧ t.core.p = s.core.p ∧ t.core.tile = s.core.tile ∧ t.rows = s.rows

/-- Arrivals at a receive buffer and the writes of RECVT (R247, R256): an arriving entry is the youngest; a written entry was the
oldest, and its bytes and poison go to the local store in the same cycle. Nothing but the buffers changes. That a write waits for an entry that a
stop has kept back is the model's choice: log entry 157. -/
def MeshArrivals : Prop :=
  (∀ port e ann s, ∃ t, Gives (.meshEntryArrival port e ann) s t ∧ (t.core.rxb port).entries = (s.core.rxb port).entries ++ [e]
      ∧ (t.core.rxb port).occupied = (s.core.rxb port).occupied ∧ (∀ p, p ≠ port → t.core.rxb p = s.core.rxb p)
      ∧ OnlyReceives s t ∧ t.agenda = s.agenda)
    ∧ (∀ port addr s, (s.core.rxb port).entries = [] → ∃ t, Gives (.recvtEntryWrite port addr) s t ∧ SameMachine s t
        ∧ DueAtPlace t s.cur.row s.cur.core (s.gcc + 1) (.ev (.recvtEntryWrite port addr)))
    ∧ ∀ port addr s e es, (s.core.rxb port).entries = e :: es → s.cur.due = s.gcc → s.cur.gang = true →
      ∃ t, Gives (.recvtEntryWrite port addr) s t ∧ (t.core.rxb port).entries = es ∧ (∀ p, p ≠ port → t.core.rxb p = s.core.rxb p) ∧ OnlyReceives s t
        ∧ DueAtPlace t s.cur.row s.cur.core s.gcc
            (.cont (.engWrite (((List.range 512).map (addr + ·)).zip e.bytes) (e.poison.map fun j => addr + 8 * j)))

/-- FACC sets a put window (R258, R259); FPUT, once accepted, reads its source from its own cycle on, for delivery after the route's
latency and the two core terms (R261), and traps on the faults of R261 in their order. -/
def PutWords : Prop :=
  ∀ h f s, s.core.enabled h = true →
    (let base := (s.core.ra f.a.toNat).toNat
     let len := (s.opB f).toNat
     (base % 64 ≠ 0 ∨ len % 64 ≠ 0 ∨ len = 0 → TrapsWith (.facc h f) s 0x0F 1)
     ∧ (base % 64 = 0 → len % 64 = 0 → len ≠ 0 → 0x1800000 < base + len → TrapsWith (.facc h f) s 0x0F 0)
     ∧ (base % 64 = 0 → len % 64 = 0 → len ≠ 0 → base + len ≤ 0x1800000 →
        Gives (.facc h f) s (s.writeBack 1 [.window (f.aux.toNat % 4) base len (f.aux.getLsbD 8) f.c.toNat])))
    ∧ (let src := (s.core.ra f.a.toNat).toNat
       let n := 64 * (f.aux.toNat % 64 + 1)
       let d := s.opB f
       let e := Sparse.get 0 s.task.routes (d.toNat / 2 ^ 52)
       let lat := routeLfix e + 2 * (7 - s.cur.core.1) + 2 * (7 - d.toNat / 2 ^ 44 % 8)
       (∀ code detail, s.fputFault src n d = some (code, detail) → TrapsWith (.fput h f) s code detail)
       ∧ (s.fputFault src n d = none → ∃ t id, Gives (.fput h f) s t ∧ t.core = s.core.engAdd s.gcc ⟨s.gcc, src, n, 128, 0⟩ ∧ t.rows = s.rows
          ∧ DueAtPlace t s.cur.row s.cur.core s.gcc (.cont (.putRead src n 0 d e lat id))))

/-- What comes over a port waits for its delivery cycle at its place among the work of that cycle, of this or of another member (R31, R262,
R360); what comes over a quarantined port is late from then on (R421, R422). Which cycle that is says the piece's entry: log entry 152. -/
structure Buffered (i : Instr) (s t : State) (rank ord : Nat) (via : Option (Nat × Nat)) (id : Nat) : Prop where
  same : SameMachine s t
  waits : ∃ e ∈ t.agenda, e.gang = true ∧ e.due = (if s.cur.gang then s.cur.due else s.arg 0 s.gcc) ∧ e.rank = rank ∧ e.ord = ord
    ∧ e.slot = s.cur.slot ∧ e.row = s.cur.row ∧ e.core = s.cur.core ∧ e.work = .ev i
  late : s.cur.gang = false → s.opens via = false → DueAtDcc t s.dcc (.cont (.keptLate ⟨id, s.arg 0 s.gcc, none⟩))

/-- A put piece that finds room is mapped by the window into the local store at its delivery, and counts at the window's barrier; one
that does not is lost and says so there (R136, R258, R262). -/
def PutPieces : Prop :=
  (∀ p s, (s.cur.gang = false ∨ s.cur.rank ≠ 28 ∨ s.cur.ord ≠ pieceOrd p) →
      ∃ t, Gives (.putPieceDelivery p) s t ∧ Buffered (.putPieceDelivery p) s t 28 (pieceOrd p) p.via p.id)
  ∧ ∀ p s, s.cur.gang = true → s.cur.rank = 28 → s.cur.ord = pieceOrd p →
    let w := s.core.rwin p.win
    let n := p.bytes.length
    let place := fun j => w.base + (p.ofs + j) % w.len
    let bytes := ((List.range n).map place).zip p.bytes
    let refused := 3 ≤ (s.core.ingressNow s.gcc).1 ∨ s.core.putRoom < (s.core.ingressWait s.gcc bytes).length
    (refused → ∃ t, Gives (.putPieceDelivery p) s t ∧ t.core.ls = s.core.ls ∧ t.rows = s.rows
        ∧ (w.ben = true → 0 < n → (t.core.rw w.w).lost = true ∧ (t.core.rw w.w).pend = (s.core.rw w.w).pend - n))
    ∧ (¬refused → n ≤ w.len → ∃ t, Gives (.putPieceDelivery p) s t ∧ t.rows = s.rows
        ∧ (∀ j, ∀ h : j < n, Memory.byte t.core.ls (place j) = p.bytes[j])
        ∧ (∀ a, (∀ j < n, a ≠ place j) → Memory.byte t.core.ls a = Memory.byte s.core.ls a)
        ∧ (w.ben = true → 0 < n → (t.core.rw w.w).pend = (s.core.rw w.w).pend - n ∧ ((t.core.rw w.w).lost = (s.core.rw w.w).lost)))

/-- The ingress buffer writes its oldest words to free banks; the bytes were visible before (R136). -/
def IngressDrains : Prop :=
  ∀ s, ∃ t, Gives .ingressBufferDrain s t ∧ t.core.ls = s.core.ls ∧ t.core.a = s.core.a ∧ t.core.tile = s.core.tile ∧ t.rows = s.rows
    ∧ t.core.ingress.Sublist s.core.ingress
    ∧ (s.core.ingress ≠ [] → s.core.eng = [] → s.core.ingressAt ≠ s.gcc → t.core.ingress.length < s.core.ingress.length)
    ∧ (t.core.ingress ≠ [] → DueAtPlace t s.cur.row s.cur.core (s.gcc + 1) (.ev .ingressBufferDrain))

/-! ## The window (R297 to R317) -/

/-- SHP loads a shape of the image, and edits one field of a shape (R298, R310); a value out of range traps. -/
def ShapeWords : Prop :=
  (∀ h f s, s.core.enabled h = true →
      Gives (.shpLoad h f) s (s.writeBack 1 [.g f.d.toNat (s.task.shapes.getD (f.aux.toNat % 256) 0)])
      ∧ (let v := (s.opB f).toInt
         let dim := f.aux.toNat % 4
         let stride := f.aux.getLsbD 2
         let ok := (stride = false ∧ 0 ≤ v ∧ v < 2 ^ 24) ∨ (stride = true ∧ dim = 0 ∧ -(2 ^ 31) ≤ v ∧ v < 2 ^ 31)
           ∨ (stride = true ∧ dim ≠ 0 ∧ -(2 ^ 39) ≤ v ∧ v < 2 ^ 39)
         (ok → Gives (.shpEdit h f) s (s.writeBack 1 [.g f.d.toNat (shpEdited (Sparse.get 0 s.core.g f.a.toNat) dim stride v)]))
         ∧ (¬ok → TrapsWith (.shpEdit h f) s 7 5)))
    ∧ ∀ (g : BitVec 256) dim v, dim < 4 →
      (0 ≤ v → v < 2 ^ 24 → (shpSize (shpEdited g dim false v) dim : Int) = v ∧ (∀ k < 4, k ≠ dim → shpSize (shpEdited g dim false v) k = shpSize g k)
        ∧ ∀ k < 4, shpStr (shpEdited g dim false v) k = shpStr g k)
      ∧ (-(2 ^ (if dim = 0 then 31 else 39)) ≤ v → v < 2 ^ (if dim = 0 then 31 else 39) → shpStr (shpEdited g dim true v) dim = v
        ∧ (∀ k < 4, shpSize (shpEdited g dim true v) k = shpSize g k) ∧ ∀ k < 4, k ≠ dim → shpStr (shpEdited g dim true v) k = shpStr g k)

/-- The traps of a word with an index list that come before the list is read (R311, R327). -/
abbrev BeforeTheList (code d : Nat) : Prop := (code = 0x0F ∧ d < 2) ∨ code = 0x13 ∨ (code = 7 ∧ d = 5)

/-- Fetches and gathers that pass the checks of R311: the snapshot 2048 and the first landing 8192 cycles on, the allowance charged and
the lanes taken (R302, R303, R312); a transfer of no bytes does nothing, and a failed check traps, the classes of the index list acting
where the list has been read (R141). -/
def FetchWords : Prop :=
  ∀ h f s, s.core.enabled h = true → ∀ gather : Bool,
    let a := if gather then gatherAsk s f else fetchAsk s f
    let i := if gather then Instr.tgath h f else .tfetch h f
    let last := s.gcc + 8192 + cyclesOf a.x.n s.core.share
    (a.x.n = 0 → Gives i s s)
    ∧ (∀ code d, a.x.n ≠ 0 → s.xferFault a 0 = some (code, d) → Gives i s ((if BeforeTheList code d then s else s.readList a).trapWord code d))
    ∧ (a.x.n ≠ 0 → s.xferFault a 0 = none → ∃ t, Gives i s t ∧ SameCoreRegs s t ∧ t.rows = s.rows ∧ t.modMem = s.modMem ∧ t.host = s.host
        ∧ (∃ x ∈ t.task.xfers, x.id = s.next ∧ x.kind = a.x.kind ∧ x.shape = Sparse.get 0 s.core.g f.c.toNat ∧ x.base = s.opB f ∧ x.n = a.x.n
            ∧ x.la = (s.core.ra f.a.toNat).toNat ∧ x.bar = a.x.bar ∧ x.idx = a.x.idx)
        ∧ DueAt t (s.gcc + 2048) (.ev (.fetchSnapshot s.next)) ∧ DueAtPlace t s.cur.row s.cur.core (s.gcc + 8192) (.ev (.fetchLanding s.next 0))
        ∧ t.core.infl = s.core.infl + a.x.n ∧ t.core.lfree = last ∧ t.core.sfree = (if gather then s.gcc + 2 else s.core.sfree) ∧ t.core.w = s.core.w)

/-- Stores and scatters that pass the checks: source reads from cycle t, or t + 1 for a scatter, and write completion 4096 cycles
after the last of them (R302, R303, R313). One that fails a check traps, the classes of the index list acting where the list has been
read (R141). -/
def StoreWords : Prop :=
  ∀ h f s, s.core.enabled h = true → ∀ scatter : Bool,
    let a := if scatter then scatterAsk s f else storeAsk s f
    let i := if scatter then Instr.tscat h f else .tstore h f
    let u := if scatter then 1 else 0
    let wcc := s.gcc + 4096 + u + cyclesOf a.x.n s.core.share
    (a.x.n = 0 → Gives i s s)
    ∧ (∀ code d, a.x.n ≠ 0 → s.xferFault a u = some (code, d) → Gives i s ((if BeforeTheList code d then s else s.readList a).trapWord code d))
    ∧ (a.x.n ≠ 0 → s.xferFault a u = none → ∃ t, Gives i s t ∧ SameCoreRegs s t ∧ t.rows = s.rows ∧ t.modMem = s.modMem
        ∧ (∃ x ∈ t.task.xfers, x.id = s.next ∧ x.kind = a.x.kind ∧ x.shape = Sparse.get 0 s.core.g f.c.toNat ∧ x.base = s.opB f ∧ x.n = a.x.n
            ∧ x.idx = a.x.idx ∧ x.wcc = wcc)
        ∧ DueAtPlace t s.cur.row s.cur.core (s.gcc + u) (.cont (.sourceRead s.next 0)) ∧ DueAt t wcc (.ev (.storeWriteCompletion s.next))
        ∧ DueAtPlace t s.cur.row s.cur.core wcc (.cont (.release a.x.n))
        ∧ t.core.infl = s.core.infl + a.x.n ∧ t.core.lfree = s.core.lfree ∧ t.core.sfree = s.gcc + u + cyclesOf a.x.n s.core.share + 1
        ∧ t.core.lwcc = max s.core.lwcc wcc ∧ t.core.last = wcc ∧ t.core.w = s.core.w)

/-- Arming, checking and reading barriers and the allowance (R303 to R306, R314 to R316). -/
def BarrierWords : Prop :=
  ∀ h s, s.core.enabled h = true →
    (∀ f : RRI,
      let v := (s.core.ra f.a.toNat).toNat + f.imm.toNat
      let b := s.core.rw f.d.toNat
      let add := f.md.getLsbD 0
      let set := fun b => s.here fun c => { c with w := Sparse.set {} c.w f.d.toNat b }
      (add = false → v < 2 ^ 32 → Gives (.warm h f) s (set { arm := true, pend := v }))
      ∧ (add = true → b.pend + v < 2 ^ 32 → Gives (.warm h f) s (set { b with pend := b.pend + v }))
      ∧ (2 ^ 32 ≤ (if add then b.pend + v else v) → TrapsWith (.warm h f) s 7 4)
      ∧ (f.md.getLsbD 0 = true → Gives (.wchk h f) s (s.writeBack 1
          [.p f.d.toNat ((List.range 16).all fun n => !f.imm.getLsbD n || (s.core.rw n).fault.isNone)]))
      ∧ (f.md.getLsbD 0 = false → (∀ n < 16, f.imm.getLsbD n = true → (s.core.rw n).fault = none) → Gives (.wchk h f) s s)
      ∧ (f.md.getLsbD 0 = false → ∀ n < 16, ∀ d, f.imm.getLsbD n = true → (s.core.rw n).fault = some d →
          (∀ k < n, f.imm.getLsbD k = true → (s.core.rw k).fault = none) → Gives (.wchk h f) s (s.trapWord 4 d n)))
    ∧ ∀ f : RRR,
      Gives (.walw h f) s (s.writeBack 1 [.limit (min (s.opB f).toNat 0x400000 / 64 * 64)])
      ∧ Gives (.wrd h f) s (s.writeBack 1 [.a f.d.toNat (s.core.rw f.a.toNat).word])
      ∧ Gives (.wccrd h f) s (s.writeBack 1 [.a f.d.toNat (BitVec.ofNat 64 (if f.aux.getLsbD 0 then s.core.last else s.core.lwcc))])

/-- MFENCE arms its barrier with one byte and its completion C is fixed at once (R153, R154, R317): C := max(f + L_s, E + 1), exactly where no
other member of a gang is covered, and no less where one is (log entry 7). The byte counts at C − 1, and at f where C is f (log entry 35). -/
def Fences : Prop :=
  (∀ h (f : RRI) s, s.core.enabled h = true →
      let scope := f.md.toNat % 8
      let c := s.task.fenceEnd scope (coreKey s.cur.row s.cur.core) s.gcc
      let ls := if scope = 0 then 0 else if scope = 1 then 16 else if scope = 2 then 64 else if scope = 3 then s.task.llead else s.task.llead + 1024
      let covers := fun (y : Nat × Nat × Nat) => y.2.1 < s.gcc
        ∧ (2 ≤ scope ∨ (scope = 1 ∧ y.1 / 8 = s.cur.row.1) ∨ y.1 = coreKey s.cur.row s.cur.core)
      s.gcc + ls ≤ c ∧ (∀ y ∈ s.task.effects, covers y → y.2.2 < c)
      ∧ ((scope < 3 ∨ s.task.members ≤ 1) →
          ((∀ y ∈ s.task.effects, ¬covers y) → c = max (s.gcc + ls) (s.gcc + 1))
          ∧ ∀ y ∈ s.task.effects, covers y → (∀ z ∈ s.task.effects, covers z → z.2.2 ≤ y.2.2) → c = max (s.gcc + ls) (y.2.2 + 1))
      ∧ ∃ t, Gives (.mfence h f) s t ∧ SameCoreRegs s t ∧ t.rows = s.rows ∧ t.tasks = s.tasks
        ∧ t.core.rw f.d.toNat = { arm := true, pend := 1 } ∧ OtherBarriers s t f.d.toNat
        ∧ DueAtPlace t s.cur.row s.cur.core (s.gcc + (c - 1 - s.gcc)) (.ev (.mfenceCompletion f.d.toNat))
        ∧ (s.gcc < c → DueAtPlace t s.cur.row s.cur.core (c - 1) (.ev (.mfenceCompletion f.d.toNat))))
    ∧ ∀ w s, ∃ t, Gives (.mfenceCompletion w) s t ∧ SameCoreRegs s t ∧ t.rows = s.rows ∧ t.tasks = s.tasks ∧ t.agenda = s.agenda
        ∧ (t.core.rw w).pend = (s.core.rw w).pend - 1 ∧ OtherBarriers s t w

/-- What the barrier words and a fence do where they are enabled and no check fails (R304, R306 to R309, R313 to R317): a WALW, WRD or
WCCRD has its result, and a WCHK in test mode its predicate, a cycle on. -/
def BarrierWordsTakeEffect : Prop :=
  (∀ h s, s.core.enabled h = true →
    (∀ f : RRI, f.md.getLsbD 0 = false → (s.core.ra f.a.toNat).toNat + f.imm.toNat < 2 ^ 32 → ∃ t, Gives (.warm h f) s t ∧ t.rows = s.rows
        ∧ (t.core.rw f.d.toNat).arm = true ∧ (t.core.rw f.d.toNat).pend = (s.core.ra f.a.toNat).toNat + f.imm.toNat)
    ∧ (∀ f : RRI, (∀ n < 16, f.imm.getLsbD n = true → (s.core.rw n).fault = none) →
        Gives (.wchk h f) s (if f.md.getLsbD 0 then s.writeBack 1 [.p f.d.toNat true] else s))
    ∧ (∀ f : RRR, Gives (.walw h f) s (s.writeBack 1 [.limit (min (s.opB f).toNat 0x400000 / 64 * 64)]))
    ∧ (∀ f : RRR, Gives (.wrd h f) s (s.writeBack 1 [.a f.d.toNat (s.core.rw f.a.toNat).word]))
    ∧ (∀ f : RRR, Gives (.wccrd h f) s (s.writeBack 1 [.a f.d.toNat (BitVec.ofNat 64 (if f.aux.getLsbD 0 then s.core.last else s.core.lwcc))]))
    ∧ ∀ f : RRI, ∃ t, Gives (.mfence h f) s t ∧ t.rows = s.rows ∧ (t.core.rw f.d.toNat).arm = true ∧ (t.core.rw f.d.toNat).pend = 1)
    ∧ ∀ w s, ∃ t, Gives (.mfenceCompletion w) s t ∧ t.rows = s.rows ∧ (t.core.rw w).pend = (s.core.rw w).pend - 1

/-- A landing cycle writes its bytes, releases them, counts them, and is followed by the next or ends the transfer (R303, R305, R312,
R331). -/
def Landings : Prop :=
  ∀ id k s x, s.xfer? id = some x → 0 < x.s → k * x.s < x.n → ∀ pooled : Bool,
    let i := if pooled then Instr.miredLanding id k else .fetchLanding id k
    let hi := min ((k + 1) * x.s) x.n
    let place := fun j => swizzle x.sw (x.la + j)
    x.sw < 8 → ∃ t, Gives i s t ∧ t.rows = s.rows ∧ t.core.a = s.core.a ∧ t.core.v = s.core.v ∧ t.core.tile = s.core.tile
      ∧ (∀ j, k * x.s ≤ j → j < hi → Memory.byte t.core.ls (place j) = Sparse.get 0 x.data j)
      ∧ (∀ a, (∀ j, k * x.s ≤ j → j < hi → a ≠ place j) → Memory.byte t.core.ls a = Memory.byte s.core.ls a)
      ∧ t.core.infl = s.core.infl - (hi - k * x.s)
      ∧ (∀ w, x.bar = some w → (t.core.rw w).pend = (s.core.rw w).pend - (hi - k * x.s) ∧ OtherBarriers s t w)
      ∧ (x.bar = none → t.core.w = s.core.w)
      ∧ (hi < x.n → DueAtPlace t s.cur.row s.cur.core (s.gcc + 1) (.ev (if pooled then .miredLanding id (k + 1) else .fetchLanding id (k + 1))))
      ∧ (hi = x.n → t.xfer? id = none)

/-! ## The modules (R323 to R342) -/

/-- MIRED and MAADD that pass the checks of R327, with rows to work on (R328, R331, R332); an empty table does nothing. -/
def TableWords : Prop :=
  ∀ h f s, s.core.enabled h = true →
    let g := Sparse.get 0 s.core.g f.c.toNat
    let m := shpSize g 3
    let l := s.listAddr f
    (shpSize g 0 = 0 ∨ m = 0 → Gives (.mired h f) s s ∧ Gives (.maadd h f) s s)
    ∧ (shpSize g 0 ≠ 0 → m ≠ 0 →
      (let x := s.tableXfer f .mired
       (∀ code d, s.tableFault x l m true = some (code, d) →
          Gives (.mired h f) s ((if BeforeTheList code d then s else s.engineRead (addrs l (4 * m))).trapWord code d))
       ∧ (s.tableFault x l m true = none → ∃ t, Gives (.mired h f) s t ∧ SameCoreRegs s t ∧ t.rows = s.rows ∧ t.modMem = s.modMem
          ∧ (∃ y ∈ t.task.xfers, y.id = s.next ∧ y.kind = .mired ∧ y.idx = x.idx ∧ y.bar = some f.d.toNat ∧ y.n = m / 2 ^ (f.aux.toNat % 8) * shpSize g 0 * 4
              ∧ (coreKey s.cur.row s.cur.core, s.gcc, y.wcc) ∈ t.task.effects ∧ y.wcc = s.gcc + 8192 + cyclesOf x.n s.core.share)
          ∧ DueAt t (s.gcc + 2048) (.ev (.fetchSnapshot s.next)) ∧ DueAtPlace t s.cur.row s.cur.core (s.gcc + 8192) (.ev (.miredLanding s.next 0))
          ∧ t.core.infl = s.core.infl + x.n ∧ t.core.lfree = s.gcc + 8192 + cyclesOf x.n s.core.share ∧ t.core.sfree = s.gcc + 2))
      ∧ (let x := s.tableXfer f .maadd
         let wcc := s.gcc + 4097 + cyclesOf x.n s.core.share
         (∀ code d, s.tableFault x l m false = some (code, d) →
            Gives (.maadd h f) s ((if BeforeTheList code d then s else s.engineRead (addrs l (4 * m))).trapWord code d))
         ∧ (s.tableFault x l m false = none → ∃ t, Gives (.maadd h f) s t ∧ SameCoreRegs s t ∧ t.rows = s.rows ∧ t.modMem = s.modMem
            ∧ (∃ y ∈ t.task.xfers, y.id = s.next ∧ y.kind = .maadd ∧ y.idx = x.idx)
            ∧ DueAtPlace t s.cur.row s.cur.core (s.gcc + 1) (.cont (.sourceRead s.next 0)) ∧ DueAt t wcc (.ev (.maaddEffect s.next))
            ∧ t.core.infl = s.core.infl + x.n ∧ t.core.lwcc = max s.core.lwcc wcc ∧ t.core.last = wcc)))

/-- A module command whose block, lanes, allowance and extents are in order (R327 to R330): its first block is read 4096 cycles on and
it completes 64 cycles for every 16 KiB later. A block that R329 refuses traps, its words read (R141). -/
def ModuleCommands : Prop :=
  ∀ h f s, s.core.enabled h = true → ∀ i, i = Instr.mcmdCopy h f ∨ i = Instr.mcmdFill h f ∨ i = Instr.mcmdReduce h f →
    let a := (s.core.ra f.a.toNat).toNat
    let bs := Memory.bytes s.core.ls a 64
    let x := s.blockXfer f bs
    let done := s.gcc + 4096 + 64 * ((x.len + 16383) / 16384)
    (0x1800000 < a + 64 → TrapsWith i s 0x0F 0)
    ∧ (a + 64 ≤ 0x1800000 → a % 64 ≠ 0 → TrapsWith i s 0x0F 1)
    ∧ (a + 64 ≤ 0x1800000 → a % 64 = 0 → (∃ x ∈ addrs a 64, s.core.cls x = .poisoned ∨ s.core.cls x = .uncorrectable) →
        Gives i s ((s.engineRead (addrs a 64)).trapWord 0x13 5))
    ∧ (∀ d, a + 64 ≤ 0x1800000 → a % 64 = 0 → (∀ x ∈ addrs a 64, s.core.cls x ≠ .poisoned ∧ s.core.cls x ≠ .uncorrectable) →
        blockFault bs = some d → Gives i s ((s.engineRead (addrs a 64)).trapWord 0x13 d))
    ∧ (a + 64 ≤ 0x1800000 → a % 64 = 0 → CleanBytes s (addrs a 64) →
        (∀ d, blockFault bs = some d → TrapsWith i s 0x13 d)
        ∧ (blockFault bs = none → s.core.share ≠ 0 → s.core.sfree ≤ s.gcc → s.core.infl + 64 ≤ s.core.limit → s.core.oneModule x.cmdAsks = none →
            s.core.engFails ⟨s.gcc, a, 64, 512, 0⟩ = false → ∃ t, Gives i s t ∧ SameCoreRegs s t ∧ t.rows = s.rows ∧ t.modMem = s.modMem
            ∧ (∃ y ∈ t.task.xfers, y.id = s.next ∧ y.kind = x.kind ∧ y.len = x.len ∧ y.dst = x.dst ∧ y.src = x.src ∧ y.wcc = done)
            ∧ DueAt t (s.gcc + 4096) (.ev (.mcmdBlockEffect s.next 0 false)) ∧ DueAtPlace t s.cur.row s.cur.core done (.ev (.mcmdCompletion ⟨s.next, x.bar⟩))
            ∧ t.core.infl = s.core.infl + 64 ∧ t.core.lwcc = max s.core.lwcc done ∧ t.core.last = done ∧ t.core.sfree = s.gcc + 2))

/-- Where transfers meet their modules (R323, R324, R330): snapshot, write completion, MAADD effect and block put an entry before every
module that the transfer still waits for, in this cycle; a transfer that is gone does nothing. -/
def TransfersMeetTheirModules : Prop :=
  ∀ id s,
    let meets := fun (t : State) (m : Nat) (op : ModOp) => { s.cur with work := .ev (.moduleScheduleEntry m op) } ∈ t.agenda
    (s.xfer? id = none → Gives (.fetchSnapshot id) s s ∧ Gives (.storeWriteCompletion id) s s ∧ Gives (.maaddEffect id) s s
      ∧ ∀ b e, Gives (.mcmdBlockEffect id b e) s s)
    ∧ ∀ x, s.xfer? id = some x →
      (∃ t, Gives (.fetchSnapshot id) s t ∧ SameMachine s t ∧ ∀ m ∈ x.waits, meets t m (.snapshot id))
      ∧ (∃ t, Gives (.storeWriteCompletion id) s t ∧ SameMachine s t ∧ ∀ m ∈ x.waits, meets t m (.store id))
      ∧ (x.waits ≠ [] → ∃ t, Gives (.maaddEffect id) s t ∧ SameMachine s t ∧ ∀ m ∈ x.waits, meets t m (.maadd id))
      ∧ ∀ b, (∃ t, Gives (.mcmdBlockEffect id b true) s t ∧ SameMachine s t ∧ ∀ m ∈ x.waits, meets t m (.blockEffect id b))
        ∧ ∃ t, Gives (.mcmdBlockEffect id b false) s t ∧ SameMachine s t ∧ (∀ m ∈ x.waits, meets t m (.blockRead id b))
          ∧ (∃ e ∈ t.agenda, e.due = s.cur.due + 64 ∧ e.work = .ev (.mcmdBlockEffect id b true))
          ∧ (16384 * (b + 1) < x.len → ∃ e ∈ t.agenda, e.due = s.cur.due + 64 ∧ e.work = .ev (.mcmdBlockEffect id (b + 1) false))

/-- What a module does for a gang whose schedule there is in time, with a port that carries traffic toward it (R148, R149, R324, R336,
R407): a store writes the bytes of the transfer to their places, and nothing else; a snapshot takes the bytes as they stand; a stalled
schedule takes the entry in. -/
def ModulesServe : Prop :=
  ∀ m id s x, s.xfer? id = some x →
    (∀ op st, opId op = id → s.task.stallAt m = some st → s.lackingAt m op = [] →
        ∃ t st', Gives (.moduleScheduleEntry m op) s t ∧ t.modMem = s.modMem ∧ t.cores = s.cores
          ∧ t.task.stallAt m = some st' ∧ st'.queue = st.queue ++ [⟨s.gcc, s.nowKey, op⟩])
    ∧ (s.task.stallAt m = none → s.pkg.offline.contains m = false → s.portless m = false → s.modBase = none
        → (s.taskList.all fun t => t.stalls.isEmpty) = true →
        (s.lackingAt m (.store id) = [] → ∃ t, Gives (.moduleScheduleEntry m (.store id)) s t ∧ t.cores = s.cores ∧ t.rows = s.rows ∧ t.host = s.host
          ∧ (∀ j < x.n, ∀ a, s.located x j = some (m, a) → (∀ k < x.n, k ≠ j → s.located x k ≠ some (m, a)) →
              Memory.byte t.modMem (modAddr m a) = Sparse.get 0 x.data j)
          ∧ ∀ y, (∀ j < x.n, ∀ a, s.located x j = some (m, a) → y ≠ modAddr m a) → Memory.byte t.modMem y = Memory.byte s.modMem y)
        ∧ (x.kind ≠ .mired → s.lackingAt m (.snapshot id) = [] → ∃ t y, Gives (.moduleScheduleEntry m (.snapshot id)) s t ∧ t.modMem = s.modMem ∧ t.cores = s.cores
          ∧ t.xfer? id = some y ∧ ∀ j < x.n, ∀ a, s.located x j = some (m, a) → Sparse.get 0 y.data j = Memory.byte s.modMem (modAddr m a)))

/-- A completed command releases its charge and counts a byte at its barrier (R328, R330). The switch of a DRAM row to its spare
changes no register and no byte, takes a row of the pool of the stack, the DRAM row modulo 8 by the model's choice (log entries 51 and 52),
while there is one, and is put on record; so is a module that is lost (R339, R340, R342). -/
def ModuleEvents : Prop :=
  (∀ id bar s, ∃ t, Gives (.mcmdCompletion ⟨id, bar⟩) s t ∧ SameCoreRegs s t ∧ t.rows = s.rows ∧ t.tasks = s.tasks ∧ t.core.infl = s.core.infl - 64
      ∧ (∀ w, bar = some w → (t.core.rw w).pend = (s.core.rw w).pend - 1 ∧ OtherBarriers s t w) ∧ (bar = none → t.core.w = s.core.w))
    ∧ (∀ m sector drow cause s, ∃ t, Gives (.rowSparing m sector drow cause) s t ∧ t.rows = s.rows ∧ t.cores = s.cores ∧ t.host = s.host ∧ t.tasks = s.tasks
        ∧ (s.modBase = none → t.modMem = s.modMem) ∧ s.pkg.evqNew.length < t.pkg.evqNew.length
        ∧ (cause < 2 → 0 < s.spares m (drow % 8) → t.spares m (drow % 8) + 1 = s.spares m (drow % 8)))
    ∧ ∀ m reports s, ∃ t, Gives (.moduleOffline m reports) s t ∧ SameRows s t ∧ t.tasks = s.tasks ∧ m ∈ t.pkg.offline
        ∧ ∀ n, n ≠ m → (n ∈ t.pkg.offline ↔ n ∈ s.pkg.offline)

/-- A schedule that misses something stalls at its GCC, and for each missing thing asks for a hold of the first GCC that allows L_lead domain
cycles of notice; a drain stands at a GCC for which something is missing and while the modules stand still (R182, R445), goes on by one GCC in
each domain cycle, over the cycles that a resume has put between (R184), and ends the stall where it has come to the gang's GCC (R335, R336). -/
def SchedulesStallAndDrain : Prop :=
  (∀ m bound s, s.task.stallAt m = none → ∃ t st k, Gives (.moduleScheduleStall m bound) s t ∧ t.task.stallAt m = some st ∧ st.w = s.gcc ∧ st.pos = s.gcc
      ∧ st.queue = [] ∧ st.missing = [k] ∧ k.mark = ⟨s.next, s.gcc, bound⟩ ∧ k.since = s.dcc ∧ k.hold = s.holdPoint s.cur.slot
      ∧ t.modMem = s.modMem ∧ t.cores = s.cores ∧ t.rows = s.rows)
    ∧ (∀ m bound s st, s.task.stallAt m = some st → (∀ k ∈ st.missing, k.mark.id ≠ s.next) →
        ∃ t st' k, Gives (.moduleScheduleStall m bound) s t ∧ t.task.stallAt m = some st' ∧ st'.missing = st.missing ++ [k] ∧ st'.queue = st.queue
          ∧ st'.w = st.w ∧ k.mark = ⟨s.next, s.gcc, bound⟩ ∧ k.hold = s.holdPoint s.cur.slot ∧ t.modMem = s.modMem ∧ t.cores = s.cores)
    ∧ (∀ m s, s.task.stallAt m = none → Gives (.moduleScheduleDrain m) s s)
    ∧ ∀ m s st, s.task.stallAt m = some st → s.pkg.offline.contains m = false →
      (st.lacks = true → ∃ t st', Gives (.moduleScheduleDrain m) s t ∧ t.task.stallAt m = some st' ∧ st'.draining = false ∧ st'.queue = st.queue
          ∧ st'.pos = st.pos ∧ t.modMem = s.modMem ∧ t.cores = s.cores)
      ∧ (s.task.frozen = true → ∃ t st', Gives (.moduleScheduleDrain m) s t ∧ t.task.stallAt m = some st' ∧ st'.draining = false ∧ st'.queue = st.queue
          ∧ st'.pos = st.pos ∧ t.modMem = s.modMem ∧ t.cores = s.cores)
      ∧ (st.lacks = false → s.portless m = false → s.task.frozen = false →
        (st.queue = [] → st.waiters = [] → s.gcc ≤ st.pos → ∃ t, Gives (.moduleScheduleDrain m) s t ∧ t.task.stallAt m = none
          ∧ t.modMem = s.modMem ∧ t.cores = s.cores ∧ t.rows = s.rows)
        ∧ (st.queue = [] → st.pos < s.gcc → s.task.ending = none → ∃ t st', Gives (.moduleScheduleDrain m) s t ∧ t.task.stallAt m = some st'
          ∧ ((∀ x ∈ st.gaps, x.1 ≠ st.pos + 1) → st'.pos = st.pos + 1) ∧ (∀ d, st.gaps = [(st.pos + 1, d)] → st'.pos = st.pos + 1 + d) ∧ t.modMem = s.modMem ∧ t.cores = s.cores))

/-! ## Collective plans (R346 to R368) -/

/-- CBASE writes a base register, CSTAT reads a run record (R354, R357). -/
def CollectiveRegisters : Prop :=
  ∀ h f s, s.core.enabled h = true →
    Gives (.cbase h f) s (s.writeBack 1 [.bt (f.aux.toNat % 16) (s.opB f)])
    ∧ (let r := s.task.record (f.aux.toNat % 64)
       let field := f.aux.toNat / 64 % 4
       let x := if field = 0 then (if r.run then 2 ^ 63 else 0) + 2 ^ 62 + r.runs % 2 ^ 24 else if field = 1 then r.c else if field = 2 then r.p0 else r.e
       ((s.task.plan? (f.aux.toNat % 64)).isSome = true → Gives (.cstat h f) s (s.writeBack 4 [.a f.d.toNat (BitVec.ofNat 64 x)]))
       ∧ (s.task.plan? (f.aux.toNat % 64) = none → Gives (.cstat h f) s (s.writeBack 4 [.a f.d.toNat 0])))

/-- CRUN starts a run of a resident plan L_lead + 64 + a[A] cycles on (R355): every entry at its offset, the completion one cycle after
its end, and in a gang of several members the judgement of its pairing 64 cycles before its start (R356); an absent or active plan and
an offset of 2^24 trap. -/
def RunsStart : Prop :=
  ∀ h (f : RRI) s, s.core.enabled h = true →
    let n := f.imm.toNat % 64
    let a := (s.core.ra f.a.toNat).toNat
    let busy := (s.task.runs.any fun u => u.plan == n) && Sparse.get 0 s.task.crunAt n != s.gcc + 1
    (s.task.plan? n = none → TrapsWith (.crun h f) s 0x12 0)
    ∧ (s.task.plan? n ≠ none → busy = true → TrapsWith (.crun h f) s 0x12 1)
    ∧ (s.task.plan? n ≠ none → busy = false → 2 ^ 24 ≤ a → TrapsWith (.crun h f) s 0x12 2)
    ∧ ∀ p, s.task.plan? n = some p → busy = false → a < 2 ^ 24 →
      let es := p.mine s.task.rank
      let p0 := s.gcc + s.task.llead + 64 + a
      let u : Run := { plan := n, row := s.cur.row, core := s.cur.core, g := s.gcc, p0 := p0, e := runEnd es
                       bases := s.captureBases s.cur.slot es, bar := if f.md.getLsbD 0 then some f.d.toNat else none }
      (basesOk u es = false → TrapsWith (.crun h f) s 0x12 3)
      ∧ (basesOk u es = true → Sparse.get 0 s.task.crunAt n ≠ s.gcc + 1 → usesFail (s.task.activeUses ++ s.otherUses ++ runUses s.task.routes p0 es) = false →
          s.putMeets s.cur.slot u es = false → (s.claimRun s.cur.slot (runClaims u es)).isSome = true →
          ∃ t, Gives (.crun h f) s t ∧ t.rows = s.rows ∧ SameCoreRegs s t
            ∧ (t.task.record n).run = true ∧ (t.task.record n).p0 = p0 ∧ (t.task.record n).e = runEnd es ∧ (t.task.record n).c = p0 + runEnd es + 1
            ∧ DueAt t (p0 + runEnd es + 1) (.ev (.runCompletion n)) ∧ (1 < s.task.members → DueAt t (p0 - 64) (.cont (.pairing n)))
            ∧ ∀ k e, (k, e) ∈ es → DueAt t (p0 + e.off) (.ev (if e.kind = 1 then .planRecv n k else if e.kind = 2 then .planSend n k 0
                else if e.kind = 3 then .planReduce n k 0 else if e.kind = 4 then .planForward n k 0 else .planDeliver n k 0)))

/-- The chunk operations of an active run (R358 to R361): a RECV arms its counter and binds its tag; the others check their counters,
read their beat, and go on with the next. -/
def ChunkOperations : Prop :=
  ∀ plan n s u e, s.task.run? plan = some u → s.task.entry? plan n = some e →
    let ctr := fun (v : Run) c => Sparse.get {} v.ctrs c
    ((ctr u e.cntA).pend ≠ 0 → Gives (.planRecv plan n) s (s.planFaultAt s.gcc plan 6 n))
    ∧ ((ctr u e.cntA).pend = 0 → ∃ t v, Gives (.planRecv plan n) s t ∧ t.task.run? plan = some v ∧ t.cores = s.cores ∧ t.rows = s.rows
        ∧ ctr v e.cntA = { pend := e.nb + 1, got := 0 } ∧ (∀ c, c ≠ e.cntA → ctr v c = ctr u c)
        ∧ v.tags.find? (fun x => x.1 == e.tag) = some (e.tag, e.d, e.cntA))
    ∧ ∀ k,
      (planChkA e = true → u.counted e.cntA k = false →
        Gives (.planSend plan n k) s (s.planFaultAt s.gcc plan 5 n) ∧ Gives (.planReduce plan n k) s (s.planFaultAt s.gcc plan 5 n)
        ∧ Gives (.planForward plan n k) s (s.planFaultAt s.gcc plan 5 n) ∧ Gives (.planDeliver plan n k) s (s.planFaultAt s.gcc plan 5 n))
      ∧ ((planChkA e = false ∨ u.counted e.cntA k = true) →
        (let r := if planLsa e then s.readLsBeat u e k else s.readChunk (e.a + 64 * k)
         Gives (.planSend plan n k) s
          ((r.1.sendBeat e plan n k (s.gcc + sendDelay (s.task.lambda e) e) r.2).nextBeat e k (.planSend plan n (k + 1))))
        ∧ ((planChkB e = false ∨ u.counted e.cntB k = true) → ∃ t, Gives (.planReduce plan n k) s t ∧ t.cores = s.cores
          ∧ DueAt t (s.gcc + 7) (.cont (.chunkWrite plan (e.d + 64 * k)
              (reduceBeat e (s.readChunk (e.a + 64 * k)).2 ((s.readChunk (e.a + 64 * k)).1.readChunk (e.b + 64 * k)).2)))
          ∧ (k < e.nb → DueAt t (s.gcc + 1) (.ev (.planReduce plan n (k + 1)))))
        ∧ ((planChkB e = false ∨ u.counted e.cntB k = true) →
          let x := s.readChunk (e.a + 64 * k)
          let y := x.1.readChunk (e.b + 64 * k)
          Gives (.planForward plan n k) s
            (if planRed e then (y.1.sendBeat e plan n k (s.gcc + (s.task.lambda e - 56)) (reduceBeat e x.2 y.2)).nextBeat e k (.planForward plan n (k + 1))
             else (x.1.sendBeat e plan n k (s.gcc + (s.task.lambda e - 64)) x.2).nextBeat e k (.planForward plan n (k + 1))))
        ∧ ∀ row, s.rowOfId s.cur.slot (lsRef e.d).1 = some row → ∃ t b, Gives (.planDeliver plan n k) s t ∧ t.cores = s.cores
          ∧ DueAtPlace t row (Fin.ofNat 8 (lsRef e.d).2.1) (s.gcc + 64 + 2 * (7 - (lsRef e.d).2.1))
              (.cont (.deliverBeat ((u.base (lsRef e.d).1 (lsRef e.d).2.1 (lsRef e.d).2.2.1).toNat + (lsRef e.d).2.2.2 + (if planCvt e then 32 else 64) * k)
                b (if planBen e then some (e.tag % 16) else none) plan n))
          ∧ b.poison = (s.readChunk (e.a + 64 * k)).2.poison
          ∧ (planCvt e = false → b.bytes = Memory.bytes s.task.cbuf (e.a + 64 * k) 64)
          ∧ (k < e.nb → DueAt t (s.gcc + 1) (.ev (.planDeliver plan n (k + 1)))))

/-- A beat that lands takes its place among the landings of its cycle (R360); there it is written at the address bound to its tag and
counted, and one that nothing awaits is a fault (R358 to R360). A run ends with its record (R364). The starts that other members
announce are kept, and a run whose pairing is not complete at its judgement does not begin (R356). What passes through a die goes on 32
cycles later (R265), unless its port is quarantined (R421); flits whose tags fail go on poisoned (R423), and what a quarantined port keeps is
late (R422). -/
def RunsGoOn : Prop :=
  (∀ msg s, (s.cur.gang = false ∨ s.cur.rank ≠ 31 ∨ s.cur.ord ≠ beatOrd msg) →
      ∃ t, Gives (.beatLanding msg) s t ∧ Buffered (.beatLanding msg) s t 31 (beatOrd msg) msg.via msg.id)
    ∧ (∀ msg s, s.cur.gang = true → s.cur.rank = 31 → s.cur.ord = beatOrd msg → s.task.run? msg.plan = none →
      Gives (.beatLanding msg) s (((s.countTags msg.via msg.seals msg.beat.bytes).keptLate msg.via msg.id).planFaultAt (s.gcc + 1) msg.plan 6 msg.entry))
    ∧ (∀ msg s u d c, s.cur.gang = true → s.cur.rank = 31 → s.cur.ord = beatOrd msg → s.task.run? msg.plan = some u →
      u.tags.find? (fun x => x.1 == msg.tag) = some (msg.tag, d, c) →
      ((Sparse.get {} u.ctrs c).pend = 0 → Gives (.beatLanding msg) s
          (((s.countTags msg.via msg.seals msg.beat.bytes).keptLate msg.via msg.id).planFaultAt (s.gcc + 1) msg.plan 6 msg.entry))
      ∧ ((Sparse.get {} u.ctrs c).pend ≠ 0 → ∃ t v, Gives (.beatLanding msg) s t ∧ t.task.run? msg.plan = some v ∧ t.cores = s.cores
          ∧ Sparse.get {} v.ctrs c = { pend := (Sparse.get {} u.ctrs c).pend - 1, got := (Sparse.get {} u.ctrs c).got + 1 }
          ∧ (∀ j, ∀ h : j < msg.beat.bytes.length, Memory.byte t.task.cbuf (d + 64 * msg.k + j) = msg.beat.bytes[j])
          ∧ ∀ a, (a < d + 64 * msg.k ∨ d + 64 * msg.k + msg.beat.bytes.length ≤ a) → Memory.byte t.task.cbuf a = Memory.byte s.task.cbuf a))
    ∧ (∀ plan s, s.task.run? plan = none → Gives (.runCompletion plan) s s)
    ∧ (∀ plan s u, s.task.run? plan = some u → ∃ t, Gives (.runCompletion plan) s t ∧ t.cores = s.cores ∧ t.task.run? plan = none
        ∧ (t.task.record plan).run = false ∧ (t.task.record plan).runs = ((s.task.record plan).runs + 1) % 2 ^ 24
        ∧ (t.task.record plan).p0 = (s.task.record plan).p0)
    ∧ (∀ plan r k p s, ∃ t, Gives (.runPairingCheck plan (some (r, k, p))) s t ∧ t.task.peerP0 = s.task.peerP0 ++ [(plan, k, r, p)]
        ∧ t.task.runs = s.task.runs ∧ t.cores = s.cores ∧ t.rows = s.rows ∧ t.agenda = s.agenda)
    ∧ (∀ plan s, s.task.run? plan = none → Gives (.runPairingCheck plan none) s s)
    ∧ (∀ plan s u, s.task.run? plan = some u →
        let agreed := ∀ r < s.task.members, r ≠ s.task.rank → (u.plan, Sparse.get 0 s.task.runCount u.plan, r, u.p0) ∈ s.task.peerP0
        (agreed → Gives (.runPairingCheck plan none) s s)
        ∧ (¬agreed → ∃ t, Gives (.runPairingCheck plan none) s t ∧ t.cores = s.cores ∧ t.task.run? plan = none
            ∧ t.task.record plan = u.before ∧ DueAt t s.gcc (.cont (.planFault plan 4 0))))
    ∧ ∀ s, (∀ p port, (s.opens p.via = true →
          Gives (.exchangeDieForwarding (.put p port)) s ((s.countTags p.via p.seals p.bytes).emit port (.put { p with
            via := none, seals := [], poison := (p.poison ++ s.tagPoison p.via p.seals p.bytes).eraseDups } p.drank port (s.dcc + 32))))
          ∧ (s.opens p.via = false → Gives (.exchangeDieForwarding (.put p port)) s s))
        ∧ (∀ m port, (s.opens m.via = true →
          Gives (.exchangeDieForwarding (.beat m port)) s ((s.countTags m.via m.seals m.beat.bytes).emit port (.beat { m with
            via := none, seals := [], beat := { m.beat with poison := (m.beat.poison ++ s.tagPoison m.via m.seals m.beat.bytes).eraseDups } } port (s.dcc + 32))))
          ∧ (s.opens m.via = false → Gives (.exchangeDieForwarding (.beat m port)) s s))
        ∧ ∀ n x, ((s.suPort n).takes n = true → x ∈ (s.emit n x).sent)
          ∧ ((s.suPort n).takes n = false → (s.emit n x).sent = s.sent ∧ ((s.emit n x).suPort n).egress = (s.suPort n).egress ++ [x])

/-! ## Gang time (R31 to R42, R445, R446) -/

/-- Requests for holds (R34, R37): one that asks for no more changes nothing; one above the limit stops the gang at the hold's cycle, one
that comes too late stops it as soon as can be; every other is announced for its cycle, or lengthens the hold there. The quanta that a debugger
has put to a hold count against no limit (R37), and a request for a hold that it has not ended is not too late, since it moves no end (log
entry 36). -/
def HoldRequests : Prop :=
  ∀ h n late s,
    let old := (s.task.holdAt h).getD 0
    let free := s.task.freeAt s.dcc h
    let debug := (s.task.holdRec h).any HoldRec.debug
    let notice := debug = true ∨ s.dcc + s.task.llead ≤ s.dccReach s.cur.slot h + 256 * old
    (n ≤ old → Gives (.holdRequest h n late) s s)
    ∧ (old < n → late = true → s.task.holdLim + free < n → ∃ t, Gives (.holdRequest h n late) s t ∧ SameMachine s t ∧ DueAt t h (.ev (.gangStop 0x11 ⟨true, none⟩)))
    ∧ (old < n → (late = false ∨ n ≤ s.task.holdLim + free) → ¬notice → Gives (.holdRequest h n late) s (s.announceStop s.cur.slot 0x11))
    ∧ (old < n → (late = false ∨ n ≤ s.task.holdLim + free) → notice →
        ∃ t, Gives (.holdRequest h n late) s t ∧ t.rows = s.rows ∧ t.cores = s.cores ∧ t.task.gcc = s.gcc ∧ t.task.holdAt h = some n
          ∧ t.task.holdRec h = some ⟨h, n, debug, free⟩ ∧ (s.task.holdAt h = none → DueAt t h (.ev (.gangHold h))))
    ∧ Gives .elasticBufferMargin s (s.requestHold s.cur.slot (s.holdPoint s.cur.slot) 1 false)

/-- Holds and slack holds run and end (R35 to R37, R39): a quantum counts 256 held cycles, a hold whose quanta have run ends, and one
that the debug monitor ends lasts to the end of a quantum, and no shorter than what else is announced for its cycle; what it lasted longer
counts against no limit (R37). Armed slack is valid no earlier than L_lead domain cycles on. -/
def HoldsRunAndEnd : Prop :=
  ∀ s,
    (∀ h, s.task.announced.find? (fun r => r.h == h) = none → Gives (.gangHold h) s s)
    ∧ (∀ h r, s.task.announced.find? (fun r => r.h == h) = some r → ∃ t, Gives (.gangHold h) s t ∧ t.task.holding = some (r, s.dcc)
        ∧ t.task.gcc = s.gcc ∧ t.cores = s.cores ∧ t.rows = s.rows ∧ DueAtDcc t s.dcc (.ev (.holdQuantum 0)))
    ∧ (∀ k r d, s.task.holding = some (r, d) →
        (k < r.length → ∃ t, Gives (.holdQuantum k) s t ∧ t.task.holds = s.task.holds + 256 ∧ t.task.gcc = s.gcc ∧ t.task.holding = s.task.holding
          ∧ t.cores = s.cores ∧ DueAtDcc t (s.dcc + 256) (.ev .holdEnd))
        ∧ (r.length ≤ k → ∃ t, Gives (.holdQuantum k) s t ∧ t.task.holding = none ∧ t.task.holds = s.task.holds ∧ t.task.gcc = s.gcc ∧ t.cores = s.cores))
    ∧ (∀ r d, s.arg 0 0 = 0 → s.task.holding = some (r, d) → s.dcc < d + 256 * r.length → ∃ t, Gives .holdEnd s t ∧ SameMachine s t
        ∧ DueAtDcc t s.dcc (.ev (.holdQuantum ((s.dcc - d) / 256))))
    ∧ (∀ r d, s.arg 0 0 = 0 → s.task.holding = some (r, d) → d + 256 * r.length ≤ s.dcc → ∃ t, Gives .holdEnd s t ∧ t.task.holding = none ∧ t.task.gcc = s.gcc
        ∧ t.cores = s.cores ∧ t.rows = s.rows ∧ t.agenda = s.agenda)
    ∧ (∀ r d, s.arg 0 0 ≠ 0 → s.task.holding = some (r, d) → ∃ t, Gives .holdEnd s t
        ∧ (r.debug = false → t = s) ∧ (r.debug = true → ∃ n, 1 ≤ n ∧ r.n ≤ n ∧ t.task.holding = some (⟨r.h, n, false, r.free + (n - r.n)⟩, d)) ∧ t.task.gcc = s.gcc ∧ t.cores = s.cores ∧ t.rows = s.rows)
    ∧ (∀ amount since, ∃ t, Gives (.slackArm amount since) s t ∧ t.task.armed = amount
        ∧ t.task.armedFrom = max since (s.gccAt s.cur.slot s.task.llead) ∧ t.cores = s.cores ∧ t.rows = s.rows)
    ∧ (∀ b, s.task.armedFrom ≤ s.gcc → min s.task.armed b ≠ 0 → s.task.slackHold = false →
        let t := runCont (.slackBegin b) s
        t.task.slackHold = true ∧ t.task.armed = s.task.armed - min s.task.armed b ∧ t.task.gcc = s.gcc ∧ t.cores = s.cores ∧ t.rows = s.rows
          ∧ DueAtDcc t (s.dcc + min s.task.armed b) (.ev .slackHoldEnd))
    ∧ (∃ t, Gives .slackHoldEnd s t ∧ t.task.slackHold = false ∧ t.task.gcc = s.gcc ∧ t.cores = s.cores ∧ t.rows = s.rows)
    ∧ (s.row.running = true → s.row.halted = none → Gives .slackStarvation s (s.takeTrap 0 true s.gcc { code := 0x0B, addr := s.nextSeqAddr }))
    ∧ (s.row.halted ≠ none → Gives .slackStarvation s s)

/-- Lateness (R31, R32, R445): a report marks a transfer absent, an arrival clears the mark and lets a schedule that lacked nothing else
drain, unless the modules stand still (R182), and a package transfer still absent at its last call asks for a hold at its cycle; once it has asked, a new bound asks again at once. -/
def Lateness : Prop :=
  ∀ s,
    (∀ l, (∀ st ∈ s.task.stalls, ∀ k ∈ st.missing, k.mark.id ≠ l.id) → ∃ t, Gives (.arrivalBoundReport l) s t ∧ l ∈ t.task.lates
        ∧ (∀ k ∈ s.task.lates, k.id ≠ l.id → k ∈ t.task.lates) ∧ t.cores = s.cores ∧ t.rows = s.rows ∧ t.modMem = s.modMem)
    ∧ (∀ id, ∃ t, Gives (.deliverAtArrival id) s t ∧ (∀ k, k ∈ t.task.lates ↔ k ∈ s.task.lates ∧ k.id ≠ id) ∧ t.cores = s.cores ∧ t.rows = s.rows
        ∧ (s.task.frozen = true → t.agenda = s.agenda)
        ∧ ∀ st ∈ s.task.stalls, s.task.frozen = false → st.draining = false → (∀ k ∈ st.missing, k.mark.id = id) → DueAtDcc t s.dcc (.ev (.moduleScheduleDrain st.md)))
    ∧ (∀ id, (∀ k ∈ s.task.lates, k.id ≠ id) → (∀ st ∈ s.task.stalls, ∀ k ∈ st.missing, k.mark.id ≠ id) → Gives (.lastCall id) s s)
    ∧ ∀ l, s.task.stalls = [] → s.task.atModule l = false → s.gcc ≤ l.due → s.markHeld s.cur.slot l = false →
        let old := (s.task.holdAt l.due).getD 0
        let n := s.lateLength s.cur.slot l
        old < n → n ≤ s.task.holdLim → s.dcc + s.task.llead ≤ s.dccReach s.cur.slot l.due + 256 * old →
        (s.task.lates = [l] → s.lastCallOf s.cur.slot l.due ≤ s.dcc →
          ∃ t, Gives (.lastCall l.id) s t ∧ t.task.holdAt l.due = some n ∧ t.task.lates = [l] ∧ t.cores = s.cores ∧ t.rows = s.rows)
        ∧ ((l.id, l.due) ∈ s.task.asked →
          ∃ t, Gives (.arrivalBoundReport l) s t ∧ t.task.holdAt l.due = some n ∧ l ∈ t.task.lates ∧ t.cores = s.cores ∧ t.rows = s.rows)

/-- Reports to the hold master (R40, R394, R446): each is kept; a SLACK, PREPT or GALIGN that differs from another of its number, and one
that does not come within L_lead domain cycles of the cycle in which the first was reached, stop the gang with code 0x0B. The time of a GALIGN of
scope 0 runs for the rows of one member (R164; log entry 40), and anew while the gang is stopped. The regions that rows of other members
report are kept for discards, which every member judges as the hold master does (log entry 45). -/
def Reports : Prop :=
  ∀ s,
    (∀ r, r.kind ≠ .idemb → r.kind ≠ .ideme → ∃ t, Gives (.pointReport r) s t
        ∧ t.task.points = s.task.points ++ [{ r with gcc := r.gcc - s.task.shiftc }] ∧ t.cores = s.cores ∧ t.rows = s.rows ∧ t.task.gcc = s.gcc
        ∧ (let same := s.task.points.filter fun p => p.kind == r.kind && p.k == r.k
           let alone := r.kind == .galign && r.arg == 0
           (r.kind ≠ .halt → same.any (pointDiffers { r with gcc := r.gcc - s.task.shiftc }) = true →
              DueAtDcc t (s.dcc + s.task.llead) (.cont (.stopReached 0x0B)))
           ∧ (r.kind ≠ .halt → same.any (pointDiffers { r with gcc := r.gcc - s.task.shiftc }) = false → (∀ p ∈ same, alone = true ∧ p.rank ≠ r.rank) →
              DueAtDcc t (s.dccFirst s.cur.slot (r.gcc - s.task.shiftc + s.task.shiftc) + s.task.llead) (.ev (.reportTimeout r.kind r.k)))))
    ∧ (∀ r, r.kind = .idemb ∨ r.kind = .ideme → ∃ t, Gives (.pointReport r) s t ∧ t.cores = s.cores ∧ t.rows = s.rows ∧ t.task.points = s.task.points
        ∧ (r.rank = s.task.rank → t.tasks = s.tasks)
        ∧ (r.rank ≠ s.task.rank → ∀ m w x, (m, w, x) ∈ t.task.peerRegions ↔
            ((m, w, x) ∈ s.task.peerRegions ∧ ¬(m = r.rank ∧ w = r.row)) ∨ (r.kind = .idemb ∧ m = r.rank ∧ w = r.row ∧ x = r.arg)))
    ∧ (∀ code, DueAt (runCont (.stopReached code) s) (s.reached s.cur.slot) (.ev (.gangStop code ⟨true, none⟩)) ∧ SameMachine s (runCont (.stopReached code) s))
    ∧ ∀ kind k,
      let only := if s.arg 0 0 = 0 then none else some (s.arg 0 0 - 1)
      (s.task.ending ≠ none → Gives (.reportTimeout kind k) s s)
      ∧ (s.task.ending = none → s.task.stop ≠ none → ∃ t, Gives (.reportTimeout kind k) s t ∧ SameMachine s t
          ∧ DueAtDcc t (s.dcc + s.task.llead) (.ev (.reportTimeout kind k)))
      ∧ (s.task.ending = none → s.task.stop = none → s.task.awaited kind k only = true →
        Gives (.reportTimeout kind k) s (s.announceStop s.cur.slot 0x0B))
      ∧ (s.task.ending = none → s.task.stop = none → s.task.awaited kind k only = false → Gives (.reportTimeout kind k) s s)

/-- An alignment (R164): every waiting row takes FB = G, 64 cycles after the last report of the package's rows and 2 L_lead after the last
of the gang's, and receives G − g from cycle G on; a row in handler mode takes it for its task's frame (R186). -/
def Alignment : Prop :=
  ∀ k scope s, ∃ t, Gives (.galignAlignment k scope) s t ∧ t.cores = s.cores ∧ t.task.gcc = s.gcc
    ∧ ∀ r ∈ s.rowsOf s.cur.slot, ∀ g d,
      let last := (s.task.points.filter fun p => p.kind == .galign && p.k == k && (scope != 0 || p.rank == s.task.rank)).foldl
        (fun m p => max m (p.gcc + s.task.shiftc)) 0
      let at' := last + if scope = 0 then 64 else 2 * s.task.llead
      let arrives := fun b => ∃ e ∈ t.agenda, e.gang = true ∧ e.slot = s.cur.slot ∧ e.row = r ∧ e.due = at'
            ∧ ∃ id, e.work = .ev (.registerWriteBack { wid := id, writes := [.k b d (BitVec.ofNat 64 (at' - g))] })
      (s.rows[r].galign = some (k, g, d) → t.rows[r].fb = at' % 2 ^ 64 ∧ t.rows[r].frameOpen = false ∧ t.rows[r].galign = none
        ∧ arrives s.rows[r].handler)
      ∧ (s.rows[r].handler = true → s.rows[r].galign = none → s.rows[r].galignTask = some (k, g, d) →
          t.rows[r].fbTask = at' % 2 ^ 64 ∧ t.rows[r].frameOpenTask = false ∧ t.rows[r].galignTask = none ∧ t.rows[r].fb = s.rows[r].fb
            ∧ arrives false)

/-! ## Stops, handlers and what follows (R173, R178 to R189, R321) -/

/-- A gang stop reaches every core and sequencer of the task (R181, R446), and each freezes at its stop GCC with its registers as they
are (R182, R194). The trap of another member is the gang's primary one where no trap was known (R180). -/
def StopsReachEveryCore : Prop :=
  (∀ code s, Gives (.gangStop code ⟨false, none⟩) s (s.announceStop s.cur.slot code))
    ∧ (∀ code p s, s.task.stop = none → ∃ t st, Gives (.gangStop code ⟨false, some p⟩) s t ∧ t.task.stop = some st
        ∧ st.primary = ⟨p.x, p.rank, p.row, p.place⟩ ∧ st.code = p.code ∧ t.cores = s.cores ∧ t.rows = s.rows
        ∧ DueAtDcc t (s.dcc + s.task.llead) (.cont (.stopReached code)))
    ∧ (∀ code peer s, s.task.ending = none → ∃ t, Gives (.gangStop code ⟨true, peer⟩) s t
        ∧ (∀ r ∈ s.rowsOf s.cur.slot, t.rows[r].sigma = lower s.rows[r].sigma s.gcc ∧ t.rows[r].k = s.rows[r].k
            ∧ ∀ c : Fin 8, (t.coreAt r c).sigma = lower (s.coreAt r c).sigma s.gcc ∧ (t.coreAt r c).a = (s.coreAt r c).a
              ∧ (t.coreAt r c).ls = (s.coreAt r c).ls)
        ∧ t.task.stop ≠ none)
    ∧ (∀ code peer s, s.task.ending ≠ none → code ≠ 0x11 → Gives (.gangStop code ⟨true, peer⟩) s s)
    ∧ (∀ s, s.cur.part = .core → s.core.sigma = some s.cur.due → s.core.frozen = false → ∃ t, Gives .coreStop s t ∧ t.core.frozen = true
        ∧ t.core.a = s.core.a ∧ t.core.p = s.core.p ∧ t.core.v = s.core.v ∧ t.core.tile = s.core.tile ∧ t.core.ls = s.core.ls
        ∧ (s.row.prept = none → t.core.stopg = BitVec.ofNat 64 s.cur.due)
        ∧ (s.core.trapped = true → t.core.trapf = s.core.trapf)
        ∧ (s.core.trapped = false → s.row.prept = none → t.core.trapf = TrapInfo.word { code := 0, addr := s.nextWordAddr s.cur.row s.cur.core } false))
    ∧ (∀ s, s.cur.part = .core → (s.core.sigma ≠ some s.cur.due ∨ s.core.frozen = true) → Gives .coreStop s s)
    ∧ ∀ s, s.cur.part = .seq → s.row.sigma = some s.cur.due → s.row.frozen = false → ∃ t, Gives .coreStop s t ∧ t.row.frozen = true
        ∧ t.row.k = s.row.k ∧ t.row.fb = s.row.fb ∧ t.cores = s.cores
        ∧ (s.row.front = none → s.row.prept = none → t.row.trapc = trapcWord s.row.trapc 0x10 0xFF false)
        ∧ (s.row.trapped = true → t.row.trapfs = s.row.trapfs)
        ∧ (s.row.trapped = false → s.row.prept = none → t.row.trapfs = TrapInfo.word { code := 0, addr := s.nextSeqAddr } false)

/-- A row enters its handler (R186, R187): the frame base is the present cycle, fetching begins at TVEC, RES is clear and the task's
frame is kept. A single-stepped row traps with code 0x0E (R189). -/
def HandlersBegin : Prop :=
  (∀ s, ∃ t, Gives .handlerEntry s t ∧ t.row.handler = true ∧ t.row.fb = s.gcc ∧ t.row.fbTask = s.row.fb ∧ t.row.rposTask = s.row.rpos
      ∧ t.row.trapc.getLsbD 31 = false ∧ t.row.trapc.extractLsb' 0 16 = s.row.trapc.extractLsb' 0 16
      ∧ t.row.rpos = some (s.row.tvec.toNat % 2 ^ 18) ∧ DueAt t s.gcc (.ev .dispatcherRead) ∧ t.row.k = s.row.k ∧ t.row.kh = s.row.kh ∧ t.cores = s.cores)
    ∧ ∀ s, ((s.row.handler = true ∨ s.row.running = false) → Gives .singleStepTrap s s)
      ∧ (s.row.handler = false → s.row.running = true → s.cur.core = 0 →
          Gives .singleStepTrap s (s.takeTrap 1 false s.gcc { code := 0x0E, addr := s.nextWordAddr s.cur.row 0 }))

/-- A resume (R184): the gang goes on, every frame base and SHIFTC a multiple of 256 later, with every register as it stood, the shift
from the gang's resume GCC and its least stop GCC; a hold that stands ends first, a debugger's at a whole quantum (R189). -/
def GangsResume : Prop :=
  ∀ s,
    let gres := s.arg 0 s.gcc
    let sigma := s.arg 1 (s.sigmaMin s.cur.slot)
    ((s.task.stop = none ∨ s.task.ending ≠ none) → Gives .gangResume s s)
    ∧ (s.task.stop ≠ none → s.task.ending = none → s.task.held = false →
        let d := shiftOf gres s.task.llead (min sigma (s.sigmaMin s.cur.slot))
        ∃ t, Gives .gangResume s t ∧ 256 ∣ d ∧ t.task.stop = none ∧ t.task.schedFreeze = none ∧ t.task.shiftc = s.task.shiftc + d
          ∧ t.task.gcc = s.gcc
          ∧ ∀ r ∈ s.rowsOf s.cur.slot, t.rows[r].fb = (s.rows[r].fb + d) % 2 ^ 64 ∧ t.rows[r].k = s.rows[r].k ∧ t.rows[r].sigma = none
            ∧ ∀ c : Fin 8, (t.coreAt r c).sigma = none ∧ (t.coreAt r c).a = (s.coreAt r c).a ∧ (t.coreAt r c).v = (s.coreAt r c).v
              ∧ (t.coreAt r c).tile = (s.coreAt r c).tile ∧ (t.coreAt r c).ls = (s.coreAt r c).ls)
    ∧ (s.task.stop ≠ none → s.task.ending = none → s.task.held = true →
        ∃ t, Gives .gangResume s t ∧ DueAt t s.gcc s.cur.work ∧ t.task.stop = s.task.stop ∧ t.cores = s.cores ∧ t.rows = s.rows
          ∧ ∀ r d, s.task.holding = some (r, d) → ∃ x, t.task.holding = some (x, d) ∧ x.h = r.h ∧ x.debug = false ∧ r.n ≤ x.n ∧ (r.debug = false → x = r))

/-- A region restart (R173, R321): every row goes back to its snapshot and reads its stream from the region's entry on; without an open
region in every row the task ends, and where another member does not allow it the stop is handled like any other. -/
def RegionsRestart : Prop :=
  ∀ s, s.task.ending = none →
    (s.arg 3 1 ≠ 0 → (∃ r ∈ s.rowsOf s.cur.slot, s.rows[r].region = none) →
        Gives .regionRestart s (s.terminate s.cur.slot (s.endReport s.cur.slot)))
    ∧ (s.arg 3 1 ≠ 0 → (∀ r ∈ s.rowsOf s.cur.slot, s.rows[r].region ≠ none) →
        let d := shiftOf (s.arg 0 s.gcc) s.task.llead (min (s.arg 1 (s.firstEntry s.cur.slot)) (s.firstEntry s.cur.slot))
        ∃ t, Gives .regionRestart s t ∧ 256 ∣ d ∧ t.task.shiftc = s.task.shiftc + d ∧ t.task.stop = none ∧ t.task.gcc = s.gcc
        ∧ ∀ r ∈ s.rowsOf s.cur.slot, ∀ g, s.rows[r].region = some g → t.rows[r].k = g.k ∧ t.rows[r].q = g.q ∧ t.rows[r].rstack = g.rstack
          ∧ t.rows[r].fb = (g.fb + d) % 2 ^ 64 ∧ t.rows[r].rpos = some g.addr ∧ t.rows[r].sigma = none ∧ t.rows[r].running = true
          ∧ t.rows[r].halted = none
          ∧ ∀ c : Fin 8, (t.coreAt r c).sigma = none ∧ (t.coreAt r c).a = (s.coreAt r c).a ∧ (t.coreAt r c).ls = (s.coreAt r c).ls)
    ∧ (s.arg 3 1 = 0 → ∃ t, Gives .regionRestart s t ∧ t.cores = s.cores ∧ ∀ st, t.task.stop = some st → st.restart = false)

/-! ## The dispatcher (R52, R77 to R82) -/

/-- The dispatcher reads four words a cycle (R77): inside a clause it goes on by four; the last word of a clause fixes its delivery four
cycles on, whether or not the clause changes the frame; a full column queue stops it at the header (R79). A pad clause whose header fails,
and a read that fails, stop the reading, and their trap is due four cycles on (R81), recorded at the sequencer. -/
def DispatcherReads : Prop :=
  (∀ s a, s.row.rpos = some a → (s.row.slen ≤ a ∨ s.row.reading a = none) → ∃ t, Gives .dispatcherRead s t ∧ t.row.rpos = none
      ∧ t.row.clauses = s.row.clauses ∧ t.cores = s.cores ∧ DueAt t (s.gcc + 4) (.cont (.badRead 8 a)))
  ∧ (∀ d a s, (s.outranked 1 = false → runCont (.badRead d a) s = (s.add s.cur).takeTrap 0 true s.gcc { code := 1, detail := d, addr := a })
      ∧ (s.outranked 1 = true → runCont (.badRead d a) s = s.add s.cur))
  ∧ ∀ s a c, s.row.rpos = some a → s.row.reading a = some c → a < s.row.slen →
    (∀ d, a = c.addr + c.cnt → c.addr < a → c.cls = 7 → c.fault = some d → (s.row.handler = true ∨ s.row.refeed = []) →
        ∃ t, Gives .dispatcherRead s t ∧ t.row.rpos = none ∧ t.cores = s.cores ∧ DueAt t (s.gcc + 4) (.cont (.badRead d c.addr)))
    ∧ (c.addr < a → a = c.addr + c.cnt → c.cls ≤ 5 → c.fault = none → s.row.framed c.addr = false → s.row.refeed = [] →
        (∀ k ∈ s.row.clauses, k.id = c.id → k = c) →
        ∃ t, Gives .dispatcherRead s t ∧ t.cores = s.cores ∧ { c with delivered := some (s.gcc + 4) } ∈ t.row.clauses
          ∧ (s.row.slen = a + 1 → t.row.rpos = none ∧ DueAt t (s.gcc + 4) (.cont (.badRead 8 (a + 1)))))
    ∧ (c.addr < a → a + 3 < c.addr + c.cnt → a + 4 < s.row.slen → (∀ i < 4, s.row.reading (a + i) = some c) → ∃ t, Gives .dispatcherRead s t ∧ t.row.rpos = some (a + 4)
        ∧ t.row.clauses = s.row.clauses ∧ t.cores = s.cores ∧ DueAt t (s.gcc + 1) (.ev .dispatcherRead))
    ∧ (c.addr < a → a = c.addr + c.cnt → c.cls ≤ 5 → c.fault = none → s.row.framed c.addr = true → s.row.refeed = [] →
        ∃ t, Gives .dispatcherRead s t ∧ t.row.rpos = none ∧ t.cores = s.cores ∧ { c with delivered := some (s.gcc + 4) } ∈ t.row.clauses)
    ∧ (a = c.addr → c.read = false → c.cls ≤ 5 → 32 ≤ s.row.queued c.column → ∃ t, Gives .dispatcherRead s t ∧ t.row.rpos = some a
        ∧ t.row.clauses = s.row.clauses ∧ t.cores = s.cores ∧ DueAt t (s.gcc + 1) (.ev .dispatcherRead))

/-- A clause that passes its checks starts (R22, R23, R56, R58): its words are due at their offsets, and the clause starts two cycles
later in the next core. At logical column 0 a clause that was not delivered in time, that is faulty or that claims what is taken traps
with code 3, 1 or 2 (R80 to R82), a clause of column S in the row's TRAPFS; a barrier of WAIT that is not satisfied traps with code 4 (R56).
In handler mode an S clause starts as any other, and a clause of another column ends the task with a code that R187 does not name
(log entry 6). That a faulty clause of class 110 traps at core 0 is log entry 17. A discarded clause does nothing. -/
def ClausesStart : Prop :=
  ∀ s c, s.row.clauses.find? (fun k => k.id == c.id) = some c →
    let offsets := (wordOffsets (s.row.clauseWords c.addr c.cnt) 0).1
    let fault := if s.cur.core = 0 then c.dispatchFault s.gcc else none
    (c.dropped = true → Gives (.clauseStart c.id) s s)
    ∧ (c.dropped = false → fault = none → c.handler = true → c.cls ≠ 0 → s.task.ending = none → ∃ t r, Gives (.clauseStart c.id) s t
        ∧ t.task.ending = some r ∧ r.code = 1 ∧ r.trapc = Config.handlerClauseFault % 256 ∧ r.detail = Config.handlerClauseFault / 256 % 16
        ∧ r.row = s.row.rowid)
    ∧ (∀ code d, c.dropped = false → fault = some (code, d) → c.cls = 0 →
        (s.outranked (dispatchPlace code) = false →
          Gives (.clauseStart c.id) s ((s.add s.cur).takeTrap 0 true s.gcc { code := code, detail := d, addr := c.addr }))
        ∧ (s.outranked (dispatchPlace code) = true → Gives (.clauseStart c.id) s (s.add s.cur)))
    ∧ (c.dropped = false → (c.handler = false ∨ c.cls = 0) →
        (fault = none → (c.cls ≠ 0 → s.core.waitFault c.wait = none) → ∃ t, Gives (.clauseStart c.id) s t ∧ SameMachine s t
          ∧ (∀ i o, offsets[i]? = some o → DueAt t (s.gcc + o) (.word c.id i))
          ∧ (c.cls = 0 → ∀ e ∈ t.agenda, e ∉ s.agenda → e.core = s.cur.core)
          ∧ (c.cls ≠ 0 → s.cur.core < 7 → s.cur.gang = true → s.cur.work = .ev (.clauseStart c.id) →
              DueAtPlace t s.cur.row (s.cur.core + 1) (s.gcc + 2) (.ev (.clauseStart c.id))))
        ∧ (∀ code d, fault = some (code, d) → c.cls ≠ 0 → c.cls ≠ 7 → s.outranked (dispatchPlace code) = false → TrapsWith (.clauseStart c.id) s code d)
        ∧ ∀ w d, fault = none → c.cls ≠ 0 → s.core.waitFault c.wait = some (w, d) → (s.cur.core ≠ 0 ∨ s.outranked 3 = false) →
            Gives (.clauseStart c.id) s (s.trapWord 4 d w))

/-- A counter window begins anew at its boundary (R191, R192). -/
def CounterWindows : Prop :=
  ∀ n s,
    (evWindow (Sparse.get 0 s.core.evcfg n) = none → Gives (.eventCounterWindow n) s s)
    ∧ ∀ w, evWindow (Sparse.get 0 s.core.evcfg n) = some w → ∃ t, Gives (.eventCounterWindow n) s t ∧ Sparse.get 0 t.core.evcnt n = 0
        ∧ (∀ m, m ≠ n → Sparse.get 0 t.core.evcnt m = Sparse.get 0 s.core.evcnt m) ∧ t.core.a = s.core.a ∧ t.core.ls = s.core.ls ∧ t.rows = s.rows
        ∧ DueAtPlace t s.cur.row s.cur.core (s.gcc + w) (.ev (.eventCounterWindow n))

/-! ## Streams and the dispatch engine (R370 to R384) -/

/-- Of rows, cores, tasks, memories and clocks nothing changes; registers of the package, the agenda and what is sent out may. -/
def OnlyPkg (s t : State) : Prop :=
  t.dcc = s.dcc ∧ t.rows = s.rows ∧ t.cores = s.cores ∧ t.tasks = s.tasks ∧ t.modMem = s.modMem ∧ t.host = s.host

/-- As `OnlyPkg`, of a reading of stream addresses: a sector that reads as uncorrectable is rewritten poisoned (R337), with its bytes. -/
def OnlyReads (s t : State) : Prop :=
  t.dcc = s.dcc ∧ t.rows = s.rows ∧ t.cores = s.cores ∧ t.tasks = s.tasks ∧ t.host = s.host ∧ (s.modBase = none → t.modMem = s.modMem)

/-- Bytes at a stream address read back as they are written now: no schedule is stalled, which would keep its place in time (R336). -/
def WritesNow (s : State) (a : Nat) : Prop := inModule a = true → s.modBase = none

/-- No source read of a far-memory write of a slot is still to be made. -/
def NoReads (s : State) (slot : Slot) : Prop := ∀ e ∈ s.agenda, e.gang = true → e.slot = slot → ∀ id k, e.work ≠ .cont (.sourceRead id k)

/-- The other streams are as before. -/
def OtherStreams (s t : State) (n : Nat) : Prop := ∀ m, m ≠ n → t.stream m = s.stream m

/-- The packet of a stream completes (R372, R373): HEAD at its end, the host interrupted where it asks for it, the next packet read in
the next domain cycle. -/
structure Completed (s t : State) (n : Nat) : Prop where
  others : OtherStreams s t n
  free : (t.stream n).busy = none
  head : ∀ b, (s.stream n).busy = some b → (t.stream n).head = if b.stale then (s.stream n).head else (s.stream n).wrap b.next
  irq : ∀ b, (s.stream n).busy = some b → t.pkg.raised = s.pkg.raised ++ if b.irq then [s.pkg.vector n] else []
  goesOn : (s.stream n).busy ≠ none → DueAtDcc t (s.dcc + 1) (.cont (.frontEnd n))

/-- A stream halts with a code at its packet (R373), and the host is interrupted. -/
structure Halted (s t : State) (n code : Nat) : Prop where
  same : OnlyReads s t
  others : OtherStreams s t n
  err : (t.stream n).err = true ∧ (t.stream n).code = code ∧ (t.stream n).busy = none ∧ (t.stream n).head = (s.stream n).head
  pos : (t.stream n).pos = ((s.stream n).busy.map (·.pos)).getD (s.stream n).head
  irq : t.pkg.raised = s.pkg.raised ++ [s.pkg.vector n]

/-- A request for the dispatch engine waits its turn; the engine looks at once when it is free (R384). -/
def Requested (s t : State) (n : Nat) (j : EngJob) : Prop :=
  OnlyPkg s t ∧ (∀ m, t.stream m = s.stream m) ∧ t.pkg.reqs = s.pkg.reqs ++ [(n, j)]
    ∧ (s.pkg.engine = none → DueAtDcc t s.dcc (.ev .dispatchGrant))

/-- Enabling a stream, moving its tail and clearing its error (R371 to R373); before stage 1 has passed no host access comes (R426). -/
def StreamRegisters : Prop :=
  ∀ n s,
    (s.pkg.boot.full = false → Gives (.streamEnable n) s s)
    ∧ (s.pkg.boot.full = true → ∃ t, Gives (.streamEnable n) s t ∧ OnlyPkg s t ∧ OtherStreams s t n ∧ (t.stream n).en = true ∧ (t.stream n).head = 0 ∧ (t.stream n).err = false
        ∧ (t.stream n).tail = (s.stream n).tail ∧ DueAtDcc t s.dcc (.cont (.frontEnd n)))
    ∧ (s.hostUp = false → ∀ tail, Gives (.streamDoorbell n tail) s s ∧ Gives (.serrClear n) s s)
    ∧ (s.hostUp = true → ∀ tail, ∃ t, Gives (.streamDoorbell n tail) s t ∧ OnlyPkg s t ∧ OtherStreams s t n ∧ t.stream n = { s.stream n with tail := tail }
        ∧ DueAtDcc t s.dcc (.cont (.frontEnd n)))
    ∧ ((s.stream n).err = false → Gives (.serrClear n) s s)
    ∧ (s.hostUp = true → (s.stream n).err = true →
        let k := s.stream n
        let last := k.pos + 4 + 4 * (s.streamNat (k.base + k.pos) 4 / 2 ^ 12 % 2 ^ 12)
        ∃ t, Gives (.serrClear n) s t ∧ OnlyPkg s t ∧ OtherStreams s t n ∧ (t.stream n).err = false ∧ (t.stream n).tail = k.tail
          ∧ DueAtDcc t s.dcc (.cont (.frontEnd n))
          ∧ (k.badTail = false → k.pos ≤ k.tail → k.tail < k.size → last ≤ k.tail → (t.stream n).head = last))

/-- A front end reads the packet at its head (R372 to R374): one that is in order is executed, a malformed one and a tail out of order
halt the stream. A packet in a module toward which no port carries traffic waits for one (R407; log entry 137). -/
def PacketsAreRead : Prop :=
  ∀ n s, (s.stream n).en = true → (s.stream n).err = false → (s.stream n).busy = none → (s.stream n).head ≠ (s.stream n).tail →
    let cut := s.cut (2 ^ 64 - 1) ((s.stream n).base + (s.stream n).head)
    (cut = true → SameMachine s (s.frontEnd n) ∧ DueAtDcc (s.frontEnd n) (s.dcc + 64) (.cont (.frontEnd n)))
    ∧ (cut = false → ((s.stream n).tail % 4 ≠ 0 ∨ (s.stream n).size ≤ (s.stream n).tail) → Halted s (s.frontEnd n) n 0x10)
    ∧ (cut = false → (s.stream n).tail % 4 = 0 → (s.stream n).tail < (s.stream n).size →
      (s.readPacket n (s.stream n) = none → Halted s (s.frontEnd n) n 0x10)
      ∧ ∀ i, s.readPacket n (s.stream n) = some i → OnlyReads s (s.frontEnd n) ∧ OtherStreams s (s.frontEnd n) n
          ∧ DueAtDcc (s.frontEnd n) s.dcc (.ev i) ∧ ∃ b, ((s.frontEnd n).stream n).busy = some b ∧ b.pos = (s.stream n).head
          ∧ b.next = (s.stream n).head + 4 + 4 * (s.streamNat ((s.stream n).base + (s.stream n).head) 4 / 2 ^ 12 % 2 ^ 12))

/-- PNOP, MAPX and QFENCE (R377, R382). -/
def PlainPackets : Prop :=
  ∀ n s, (s.stream n).busy ≠ none →
    (∃ t, Gives (.pnop n) s t ∧ OnlyPkg s t ∧ Completed s t n)
    ∧ (∀ c, ∃ t, Gives (.mapx n c) s t ∧ OnlyPkg s t ∧ Completed s t n ∧ (t.stream n).ctx = c)
    ∧ ((s.stream n).saves = [] → ∃ t, Gives (.qfence n) s t ∧ OnlyPkg s t ∧ Completed s t n)
    ∧ ((s.stream n).saves ≠ [] → ∃ t, Gives (.qfence n) s t ∧ OnlyPkg s t ∧ OtherStreams s t n ∧ (t.stream n).fencing = true
        ∧ (t.stream n).busy = (s.stream n).busy ∧ (t.stream n).head = (s.stream n).head)

/-- Semaphores (R155, R376): a wait that is met completes; one that is not reads again 2 µs (2500 domain cycles) later until its time
is up; SEMSIG writes or adds once the far-memory writes of the stream's tasks have taken effect; an absent module, an access that the host
refuses (R383) and a poisoned semaphore halt the stream; a module toward which no port carries traffic is waited for (R407; log entry 137). -/
def Semaphores : Prop :=
  ∀ n s, (s.stream n).busy ≠ none →
    (∀ (p : SemWait) i, i = .semwait n p ∨ (i = .semwaitPoll n ∧ (s.stream n).wait = some p) →
      let away := s.addrAway (s.stream n).ctx.podMap p.addr
      let cut := s.cut (s.stream n).ctx.podMap p.addr
      let holds := if p.eq then s.streamNat p.addr 8 = p.value else p.value ≤ s.streamNat p.addr 8
      (away = true → ∃ t, Gives i s t ∧ Halted s t n 0x18)
      ∧ (away = false → cut = true → ∃ t, Gives i s t ∧ OnlyPkg s t ∧ OtherStreams s t n ∧ (t.stream n).wait = some p ∧ (t.stream n).busy = (s.stream n).busy
          ∧ DueAtDcc t (s.dcc + 64) (.ev (.semwaitPoll n)))
      ∧ (away = false → cut = false → (s.accessFails p.addr = true ∨ s.addrBad p.addr = true) → ∃ t, Gives i s t ∧ Halted s t n 0x24)
      ∧ (away = false → cut = false → s.accessFails p.addr = false → s.addrBad p.addr = false → holds → ∃ t, Gives i s t ∧ OnlyReads s t ∧ Completed s t n)
      ∧ (away = false → cut = false → s.accessFails p.addr = false → s.addrBad p.addr = false → ¬holds → ∃ t, Gives i s t ∧ OnlyReads s t ∧ OtherStreams s t n ∧ (t.stream n).wait = some p
          ∧ (t.stream n).busy = (s.stream n).busy ∧ DueAtDcc t (s.dcc + 2500) (.ev (.semwaitPoll n))
          ∧ (i = .semwait n p → p.tmo ≠ 0 → DueAtDcc t (s.dcc + 1250 * p.tmo) (.ev (.semwaitTimeout n)))))
    ∧ ((s.stream n).wait = none → Gives (.semwaitPoll n) s s ∧ Gives (.semwaitTimeout n) s s)
    ∧ ((s.stream n).wait ≠ none → ∃ t, Gives (.semwaitTimeout n) s t ∧ Halted s t n 0x23)
    ∧ ∀ a v add fails, streamOk a = true → a % 8 = 0 →
      let ready := s.owesWrites n = false ∧ s.cut (s.stream n).ctx.podMap a = false
      (¬ready → ∃ t, Gives (.semsig n a v add fails) s t ∧ SameMachine s t
          ∧ DueAtDcc t (s.dcc + 64) (.ev (.semsig n a v add fails)))
      ∧ (ready → s.addrAway (s.stream n).ctx.podMap a = true → ∃ t, Gives (.semsig n a v add fails) s t ∧ Halted s t n 0x18)
      ∧ (ready → s.addrAway (s.stream n).ctx.podMap a = false → (fails = true ∨ s.accessFails a = true ∨ (add = true ∧ s.addrBad a = true)) →
          ∃ t, Gives (.semsig n a v add fails) s t ∧ Halted s t n 0x24)
      ∧ (ready → s.addrAway (s.stream n).ctx.podMap a = false → fails = false → s.accessFails a = false → (add = false ∨ s.addrBad a = false) →
          WritesNow s a →
          ∃ t, Gives (.semsig n a v add fails) s t ∧ Completed s t n ∧ t.cores = s.cores ∧ t.rows = s.rows
            ∧ t.streamNat a 8 = ((if add then s.streamNat a 8 else 0) + v) % 2 ^ 64)

/-- Packets that need the dispatch engine ask for it (R374, R378, R379, R380, R402); a copy that the host refuses halts the stream, a RESUME
waits for the writes of its image (R395) and for a port toward it (R407; log entry 137), and a LAUNCH for a fixed cycle must be ready 64
cycles before it (R389). -/
def EngineRequests : Prop :=
  ∀ n s,
    (∀ task plan report, ∃ t, Gives (.planld n task plan report) s t ∧ Requested s t n (.planld task plan report))
    ∧ (∀ src dst bytes, (∃ t, Gives (.hcopy n src dst bytes false) s t ∧ Requested s t n (.hcopy src dst bytes none))
        ∧ ∃ t, Gives (.hcopy n src dst bytes true) s t ∧ Halted s t n 0x24)
    ∧ (∀ p : LaunchPkt, p.flags % 2 = 0 → ∃ t, Gives (.launch n p) s t ∧ Requested s t n (.launch p))
    ∧ (∀ p : LaunchPkt, p.flags % 2 = 1 → ∃ t, Gives (.launch n p) s t ∧ Requested s t n (.launch p)
        ∧ ∀ b, (s.stream n).busy = some b → p.members ≤ 1 → DueAtDcc t (p.dcc - 64 + 1) (.cont (.launchLimit n b.id)))
    ∧ ∀ p : ResumePkt,
      let waits := s.streamNat p.save 4 = 0x5854435A ∧ s.streamNat (p.save + 4) 2 = 1 ∧ s.streamNat (p.save + 7) 1 % 2 = 0
      let cut := s.cut (s.stream n).ctx.podMap p.save
      (cut = true → ∃ t, Gives (.resume n p) s t ∧ SameMachine s t ∧ DueAtDcc t (s.dcc + 64) (.ev (.resume n p)))
      ∧ (cut = false → WritesNow s p.save →
      (waits → ∃ t, Gives (.resume n p) s t ∧ OnlyReads s t ∧ (∀ m, t.stream m = s.stream m) ∧ DueAtDcc t (s.dcc + 64) (.ev (.resume n p)))
      ∧ (¬waits → ∃ t, Gives (.resume n p) s t ∧ OnlyReads s t ∧ (∀ m, t.stream m = s.stream m) ∧ t.pkg.reqs = s.pkg.reqs ++ [(n, .resume p)]
          ∧ (s.pkg.engine = none → DueAtDcc t s.dcc (.ev .dispatchGrant))))

/-- The grant (R384): a level whose credit is full goes first, the lowest number among such; otherwise the lowest level that waits. The
levels below it that wait earn a credit, and nothing is granted while the engine works. -/
def EngineGrants : Prop :=
  (∀ s, s.pkg.engine ≠ none ∨ s.pkg.reqs = [] → Gives .dispatchGrant s s)
    ∧ ∀ s t n j, s.grant = some (t, n, j) →
      (n, j) ∈ s.pkg.reqs ∧ t.pkg.reqs = s.pkg.reqs.filter (fun r => r.1 != n) ∧ OnlyPkg s t
      ∧ (let l := (s.stream n).prio
         let full := fun k => max 1 s.pkg.credit ≤ Sparse.get 0 s.pkg.credits k
         let waits := fun k => ∃ r ∈ s.pkg.reqs, (s.stream r.1).prio = k
         (∀ k < 4, waits k → full k → full l ∧ l ≤ k)
         ∧ ((∀ k < 4, waits k → ¬full k) → ∀ k < 4, waits k → l ≤ k)
         ∧ ∀ k < 4, l < k → waits k → Sparse.get 0 t.pkg.credits k = Sparse.get 0 s.pkg.credits k + 1)

/-- A job that alone asks for the engine and reads or writes a module toward which no port carries traffic gives the engine back and asks
again 64 cycles later (R407; log entry 137). -/
def JobsWaitForPorts : Prop :=
  ∀ n s j, n < 64 → (s.stream n).prio < 4 → s.pkg.engine = none → s.pkg.reqs = [(n, j)] → s.jobCut n j = true →
    ∃ t, Gives .dispatchGrant s t ∧ OnlyPkg s t ∧ (∀ m, t.stream m = s.stream m) ∧ t.pkg.engine = none ∧ t.pkg.reqs = [(n, j)]
      ∧ DueAtDcc t (s.dcc + 64) (.ev .dispatchGrant)

/-- A copy within host memory of at most 64 KiB that alone asks for the engine (R380): every byte of the source at its place, no other byte
changed, and the packet complete. -/
def Copies : Prop :=
  ∀ n s src dst w, n < 64 → (s.stream n).prio < 4 → (s.stream n).busy ≠ none → s.pkg.engine = none → s.pkg.reqs = [(n, .hcopy src dst w none)] →
    0 < w → w ≤ 65536 → w % 64 = 0 → src + w ≤ 2 ^ 63 → dst + w ≤ 2 ^ 63 → (src + w ≤ dst ∨ dst + w ≤ src) →
    s.copyFails src dst w = false →
    ∃ t, Gives .dispatchGrant s t ∧ Completed s t n ∧ t.pkg.engine = none ∧ t.pkg.reqs = [] ∧ t.cores = s.cores ∧ t.modMem = s.modMem
      ∧ (∀ i < w, Memory.byte t.host (dst + i) = Memory.byte s.host (src + i))
      ∧ ∀ a, (a < dst ∨ dst + w ≤ a) → Memory.byte t.host a = Memory.byte s.host a

/-- One segment of a copy between any two places (R157, R380), of at most 64 KiB: a module that is away halts the stream with 0x18 before
anything is written, an access that the host refuses halts it with 0x24; otherwise every byte is at its place, but that a sector which reads as
poisoned is written poisoned to a module and as zeros to the host, and the stream then halts with 0x24 at the end. -/
def CopiesOfModules : Prop :=
  ∀ n s src dst w, n < 64 → (s.stream n).prio < 4 → (s.stream n).busy ≠ none → s.pkg.engine = none → s.pkg.reqs = [(n, .hcopy src dst w none)] →
    0 < w → w ≤ 65536 → w % 64 = 0 → src % 64 = 0 → dst % 64 = 0 → (src + w ≤ dst ∨ dst + w ≤ src) → s.modBase = none →
    (∀ a, (a = src ∨ a = dst) → streamOk a = true ∧ streamOk (a + w - 1) = true ∧ a + w ≤ 2 ^ 64 ∧ inModule (a + w - 1) = inModule a) →
    s.jobCut n (.hcopy src dst w none) = false →
    let map := (s.stream n).ctx.podMap
    let away := s.addrAway map src = true ∨ s.addrAway map dst = true
    let bad := fun (k : Nat) => s.addrBad (src + 64 * k) = true
    (away → ∃ t, Gives .dispatchGrant s t ∧ Halted s t n 0x18 ∧ t.pkg.engine = none)
    ∧ (¬away → s.copyFails src dst w = true → ∃ t, Gives .dispatchGrant s t ∧ t.pkg.engine = none ∧ OtherStreams s t n ∧ (t.stream n).err = true
        ∧ (t.stream n).code = 0x24 ∧ (t.stream n).busy = none)
    ∧ (¬away → s.copyFails src dst w = false → ∃ t, Gives .dispatchGrant s t ∧ t.pkg.engine = none ∧ t.pkg.reqs = [] ∧ t.rows = s.rows ∧ t.cores = s.cores
        ∧ t.tasks = s.tasks
        ∧ (∀ i < w, (¬bad (i / 64) ∨ inModule dst = true → t.streamByte (dst + i) = s.streamByte (src + i))
            ∧ (bad (i / 64) → inModule dst = false → t.streamByte (dst + i) = 0))
        ∧ (inModule dst = true → ∀ k < w / 64, (t.addrBad (dst + 64 * k) = true ↔ bad k))
        ∧ (∀ a, streamOk a = true → a < 2 ^ 64 → (a < dst ∨ dst + w ≤ a) → t.streamByte a = s.streamByte a)
        ∧ ((∀ k < w / 64, ¬bad k) → Completed s t n)
        ∧ ((∃ k < w / 64, bad k) → OtherStreams s t n ∧ (t.stream n).err = true ∧ (t.stream n).code = 0x24 ∧ (t.stream n).busy = none))

/-! ## Launch and end of a task (R45, R49, R156, R384 to R389) -/

/-- The report of a packet says its code, the task, the DCC (R375, R383). -/
def ReportAt (t : State) (addr code taskid dcc : Nat) : Prop :=
  t.streamNat addr 1 = code ∧ t.streamNat (addr + 4) 4 = taskid % 2 ^ 32 ∧ t.streamNat (addr + 8) 8 = dcc % 2 ^ 64

/-- One stream asks for the engine, alone, for a job that every module it needs can serve, and its report can be written; no schedule is
stalled. -/
def Alone (s : State) (n : Nat) (j : EngJob) (report : Nat) : Prop :=
  n < 64 ∧ (s.stream n).prio < 4 ∧ (s.stream n).busy ≠ none ∧ s.pkg.engine = none ∧ s.pkg.reqs = [(n, j)] ∧ s.modBase = none ∧ s.jobCut n j = false
    ∧ streamOk report = true ∧ report % 32 = 0 ∧ s.cut (2 ^ 64 - 1) report = false

/-- The job reports a code and completes, and the engine is free (R375, R383). -/
def Reported (s : State) (n report code taskid : Nat) (t : State) : Prop :=
  Gives .dispatchGrant s t ∧ Completed s t n ∧ t.pkg.engine = none ∧ ReportAt t report code taskid s.dcc

/-- Nothing of a job is in the package: tasks, rows and cores are as before. -/
def NothingTaken (s t : State) : Prop := t.tasks = s.tasks ∧ t.rows = s.rows ∧ t.cores = s.cores

/-- A job that finds no free row set waits for the end of a task, with the engine free (R385). -/
def WaitsForRows (s : State) (n : Nat) (j : EngJob) (t : State) : Prop :=
  Gives .dispatchGrant s t ∧ t.pkg.engine = none ∧ t.pkg.waitRows = s.pkg.waitRows ++ [(n, j)] ∧ (∀ m, t.stream m = s.stream m) ∧ NothingTaken s t

/-- The walks of a LAUNCH whose other checks have passed (R386 step 7, R388, R389): a page that cannot be used refuses it with the code of the
finding and the page's tensor address; a walk that is held refuses it once WALKTMO has passed and is tried again within 100 µs before that, one
that no memory port serves 64 cycles later (log entry 137); an extent table that breaks R145 refuses it, and so does a launch DCC less than 64
cycles away. -/
def WalksRefused (n : Nat) (s : State) (p : LaunchPkt) (m : Image) (first : Nat) : Prop :=
  let ds := (s.imageDecls p.image m).filter fun d => d.used m.rows
  let walks := s.walkPages (s.stream n).ctx (declPages ds) []
  let waits := fun (pages : List (Nat × Nat)) (held : Option Nat) (dt : Nat) => ∃ t e, Gives .dispatchGrant s t ∧ NothingTaken s t ∧ (∀ k, t.stream k = s.stream k)
    ∧ t.pkg.engine = some e ∧ e.place = some (s.freeSlot, first) ∧ e.walked = pages ∧ e.heldAt = held ∧ e.launch = none
    ∧ DueAtDcc t (s.dcc + dt) (.ev .pageWalkRetry)
  (∀ pages x code, walks = (pages, some (x, .fails code)) → ∃ t, Reported s n p.report code p.taskid t ∧ NothingTaken s t
      ∧ (code = 0x13 ∨ code = 0x14 → t.streamNat (p.report + 16) 8 = x % 2 ^ 64))
    ∧ (∀ pages x, walks = (pages, some (x, .held)) →
        (s.pkg.walkTmo = 0 → ∃ t, Reported s n p.report 0x16 p.taskid t ∧ NothingTaken s t ∧ t.streamNat (p.report + 16) 8 = x % 2 ^ 64)
        ∧ (s.pkg.walkTmo ≠ 0 → waits pages (some s.dcc) (min 125000 (1250 * s.pkg.walkTmo))))
    ∧ (∀ pages x, walks = (pages, some (x, .cut)) → ∃ held, waits pages held 64)
    ∧ ∀ pages, walks = (pages, none) →
      let good := ∀ r < m.rows, ∀ c < 8, tableOk (coreExtents (declExtents ds pages) r c) = true
      (¬good → ∃ t, Reported s n p.report 0x15 p.taskid t ∧ NothingTaken s t)
      ∧ (good → p.flags % 2 = 1 → p.members ≤ 1 → p.dcc < s.dcc + 64 → ∃ t, Reported s n p.report 0x25 p.taskid t
          ∧ ∀ r : Fin 8, first ≤ r.1 → r.1 < first + m.rows → t.rows[r].task = none)

/-- The checks of a LAUNCH in the order of R386: the first that fails is the one reported, and nothing is taken. -/
def LaunchesRefused : Prop :=
  ∀ n s (p : LaunchPkt), Alone s n (.launch p) p.report →
    let ctx := (s.stream n).ctx
    let no := fun (code : Nat) => ∃ t, Reported s n p.report code p.taskid t ∧ NothingTaken s t
    let routes := s.readRoutes ctx.rtAddr
    let latencies := routes.all (fun x => routeOk p.members (ctx.cwd + 64) x.2)
    (s.addrAway ctx.podMap p.image = true → no 0x18)
    ∧ (s.addrAway ctx.podMap p.image = false → s.readImage p.image = none → no 0x11)
    ∧ ∀ m, s.addrAway ctx.podMap p.image = false → s.readImage p.image = some m →
      (m.gang ≠ p.members → no 0x11)
      ∧ (m.gang = p.members → sharesOk (s.imageShares p.image m) = false → no 0x12)
      ∧ (m.gang = p.members → sharesOk (s.imageShares p.image m) = true →
        (s.rowCount < m.rows → no 0x19)
        ∧ (m.rows ≤ s.rowCount → s.rowSet p.firstRow m.rows = none →
            (p.flags / 2 % 2 = 0 → no 0x19) ∧ (p.flags / 2 % 2 = 1 → ∃ t, WaitsForRows s n (.launch p) t))
        ∧ ∀ first, m.rows ≤ s.rowCount → s.rowSet p.firstRow m.rows = some first →
          (ctx.rtAddr ≠ 0 → s.addrAway ctx.podMap ctx.rtAddr = true → no 0x18)
          ∧ ((ctx.rtAddr = 0 ∨ s.addrAway ctx.podMap ctx.rtAddr = false) →
            (latencies = false → no 0x1B)
            ∧ (latencies = true → 4096 < ctx.cwd + 64 → no 0x1C)
            ∧ (latencies = true → ctx.cwd + 64 ≤ 4096 →
              (readPlans 64 (s.imageSec p.image m 7) = none → no 0x1A)
              ∧ ∀ ps, readPlans 64 (s.imageSec p.image m 7) = some ps →
                let good := indicesOk ps = true ∧ ps.all (planOk p.rank p.members m.rows routes) = true ∧ s.plansFit none ps = true
                (¬good → no 0x1A) ∧ (good → WalksRefused n s p m first))))

/-- A LAUNCH that passes the checks of R386 and names no cycle has its rows, and its cores as R386 leaves them, and launches at the next
multiple of 64 that lies 128 cycles on (R389). -/
def LaunchesPrepared : Prop :=
  ∀ n s (p : LaunchPkt) m slot first ps pages, n < 64 → (s.stream n).prio < 4 → s.pkg.engine = none → s.pkg.reqs = [(n, .launch p)] →
    let ctx := (s.stream n).ctx
    let ds := (s.imageDecls p.image m).filter fun d => d.used m.rows
    let ext := fun (r c : Nat) => coreExtents (declExtents ds pages) r c
    s.modBase = none → s.jobCut n (.launch p) = false → s.addrAway ctx.podMap p.image = false → s.readImage p.image = some m → m.gang = p.members → p.flags = 0 →
    sharesOk (s.imageShares p.image m) = true → m.rows ≤ s.rowCount → s.rowSet p.firstRow m.rows = some first → s.freeSlot = slot →
    (ctx.rtAddr = 0 ∨ s.addrAway ctx.podMap ctx.rtAddr = false) → ctx.cwd + 64 ≤ 4096 →
    (s.readRoutes ctx.rtAddr).all (fun x => routeOk p.members (ctx.cwd + 64) x.2) = true →
    readPlans 64 (s.imageSec p.image m 7) = some ps → indicesOk ps = true →
    ps.all (planOk p.rank p.members m.rows (s.readRoutes ctx.rtAddr)) = true → s.plansFit none ps = true →
    s.walkPages ctx (declPages ds) [] = (pages, none) → (∀ r < m.rows, ∀ c < 8, tableOk (ext r c) = true) →
    ∃ t e d, Gives .dispatchGrant s t ∧ d = (s.dcc + 128 + 63) / 64 * 64 ∧ t.pkg.engine = some e ∧ e.place = some (slot, first) ∧ e.launch = some d
      ∧ DueAtDcc t d (.ev .taskLaunch) ∧ t.modMem = s.modMem ∧ t.host = s.host
      ∧ (t.taskAt slot).taskid = p.taskid ∧ (t.taskAt slot).nrows = m.rows ∧ (t.taskAt slot).llead = ctx.cwd + 64 ∧ (t.taskAt slot).live = false
      ∧ (t.taskAt slot).holdLim = (if p.holdLim = 0 then 64 else p.holdLim) ∧ (t.taskAt slot).plans = ps
      ∧ ∀ i < m.rows, ∀ r : Fin 8, r.1 = first + i → t.rows[r].task = some slot ∧ t.rows[r].rowid = i ∧ t.rows[r].k = [] ∧ t.rows[r].q = []
          ∧ t.rows[r].tvec = 0 ∧ t.rows[r].trapc = 0 ∧ t.rows[r].slen = (s.imageStream p.image m i).length
          ∧ ∀ c : Fin 8, (t.coreAt r c).a = [] ∧ (t.coreAt r c).p = [] ∧ (t.coreAt r c).v = [] ∧ (t.coreAt r c).m = [] ∧ (t.coreAt r c).tile = []
            ∧ (t.coreAt r c).seg = 128 ∧ (t.coreAt r c).extents = ext i c.1 ∧ (t.coreAt r c).ls = s.imageLs p.image m i c.1

/-- A RESUME in the order of R402: the first check that fails is the one reported; one that passes them all launches at the next multiple of 64
that lies 128 cycles on, or at the DCC that it names (R389). That the plans and the route table are checked as at a LAUNCH is log entry 72. -/
def RestoresPrepared : Prop :=
  ∀ n s (p : ResumePkt), Alone s n (.resume p) p.report →
    let ctx := (s.stream n).ctx
    let taskid := s.streamNat (p.save + 0x18) 4
    let no := fun (code : Nat) => ∃ t, Reported s n p.report code taskid t ∧ NothingTaken s t
    let routes := s.readRoutes ctx.rtAddr
    (s.readContext ctx.podMap p.save = none → no 0x20)
    ∧ ∀ v m, s.readContext ctx.podMap p.save = some (v, m) →
      (s.rowCount < v.rows → no 0x1E)
      ∧ (v.rows ≤ s.rowCount → s.rowSet p.firstRow v.rows = none →
          (p.flags / 2 % 2 = 0 → no 0x19) ∧ (p.flags / 2 % 2 = 1 → ∃ t, WaitsForRows s n (.resume p) t))
      ∧ ∀ first, v.rows ≤ s.rowCount → s.rowSet p.firstRow v.rows = some first →
        (ctx.rtAddr ≠ 0 → s.addrAway ctx.podMap ctx.rtAddr = true → no 0x18)
        ∧ ((ctx.rtAddr = 0 ∨ s.addrAway ctx.podMap ctx.rtAddr = false) →
          let same := ctx.cwd + 64 = v.llead ∧ ∀ i e, (i, e) ∈ s.savedRoutes v →
            let x := Sparse.get 0 routes i
            routeVal x = true ∧ routeRank x = routeRank e ∧ routeLfix x = routeLfix e
          let latencies := routes.all (fun x => routeOk v.members v.llead x.2)
          let online := ∀ r < v.rows, ∀ c < 8, ∀ x ∈ s.savedExtents v r c, s.away ctx.podMap x.md = false
          let d := if p.flags % 2 = 1 then p.dcc else (s.dcc + 128 + 63) / 64 * 64
          (¬same → no 0x1F)
          ∧ (same → latencies = false → no 0x1B)
          ∧ (same → latencies = true → ¬online → no 0x18)
          ∧ (same → latencies = true → online → d ≤ v.owdcc → no 0x21)
          ∧ (same → latencies = true → online → v.owdcc < d → s.plansFit none (s.savedPlans v) = false → no 0x1A)
          ∧ (same → latencies = true → online → v.owdcc < d → s.plansFit none (s.savedPlans v) = true →
            (p.flags % 2 = 1 → v.members ≤ 1 → p.dcc < s.dcc + 64 → ∃ t, Reported s n p.report 0x25 taskid t)
            ∧ (p.flags % 2 = 0 ∨ (v.members ≤ 1 ∧ s.dcc + 64 ≤ p.dcc) → ∃ t e, Gives .dispatchGrant s t ∧ NothingTaken s t ∧ (∀ k, t.stream k = s.stream k)
                ∧ t.pkg.engine = some e ∧ e.job = .resume p ∧ e.place = some (s.freeSlot, first) ∧ e.launch = some d ∧ DueAtDcc t d (.ev .restoreLaunch))))

/-- A PLANLD at its grant (R350, R351, R379): no such task, a plan that breaks R346 to R350 and one whose run is active are reported and leave the
plans as they are; otherwise the plan is in the task under its index, from the GCC that the report holds. Where that GCC stands in the report,
and its code, are log entry 64; a plan in a module that is away is log entry 126. -/
def PlansAreLoaded : Prop :=
  ∀ n s task addr report, Alone s n (.planld task addr report) report →
    (s.running task = none → ∃ t, Reported s n report 0x27 task t ∧ NothingTaken s t)
    ∧ ∀ slot, s.running task = some slot →
      let k := s.taskAt slot
      let away := s.addrAway (s.stream n).ctx.podMap addr = true
      let read := readPlan (s.streamBytes addr (32 + 32 * s.streamNat (addr + 2) 2))
      let fits := fun (q : Plan) => k.run? q.index = none ∧ planOk k.rank k.members k.nrows k.routes q = true
        ∧ s.plansFit (some slot) ((k.plans.filter fun x => x.index != q.index) ++ [q]) = true
      (away → ∃ t, Reported s n report 0x18 task t ∧ NothingTaken s t)
      ∧ (¬away → (read = none ∨ ∃ q rest, read = some (q, rest) ∧ ¬fits q) → ∃ t, Reported s n report 0x1A task t ∧ NothingTaken s t)
      ∧ ∀ q rest, ¬away → read = some (q, rest) → fits q → ∃ t, Reported s n report (Config.openField 0x379 task s.dcc % 256) task t
          ∧ t.rows = s.rows ∧ t.cores = s.cores ∧ (t.taskAt slot).plan? q.index = some q ∧ (∀ i, i ≠ q.index → (t.taskAt slot).plan? i = k.plan? i)
          ∧ { t.taskAt slot with plans := k.plans } = k ∧ (∀ x, x ≠ slot → t.taskAt x = s.taskAt x)
          ∧ (0 < k.nextWords → t.streamNat (report + 16) 8 = k.nextWords % 2 ^ 64)

/-- The launch (R45): GCC and every FB take the DCC of the launch, and every row begins to read its stream at word 0. -/
def TasksLaunch : Prop :=
  ∀ s, (s.pkg.engine = none → Gives .taskLaunch s s)
    ∧ ∀ e slot first, s.pkg.engine = some e → e.place = some (slot, first) → (∀ r ∈ s.rowsOf slot, s.rows[r].handler = false) →
      ∃ t, Gives .taskLaunch s t ∧ t.pkg.engine = none ∧ (t.taskAt slot).live = true ∧ (t.taskAt slot).gcc = s.dcc ∧ t.dcc = s.dcc
        ∧ ∀ r ∈ s.rowsOf slot, t.rows[r].fb = s.dcc ∧ t.rows[r].running = true ∧ t.rows[r].rpos = some 0 ∧ t.rows[r].k = s.rows[r].k
          ∧ (∃ x ∈ t.agenda, x.gang = true ∧ x.slot = slot ∧ x.row = r ∧ x.due = s.dcc ∧ x.work = .ev .dispatcherRead)
          ∧ ∀ c : Fin 8, (t.coreAt r c).ls = (s.coreAt r c).ls ∧ (t.coreAt r c).a = (s.coreAt r c).a

/-- A page walk that was held is tried again (R388): while no port reaches a module that the job needs it waits 64 cycles more (R407; log entry
137), then the whole preparation goes on. Without one that waits nothing happens. -/
def HeldWalksRetry : Prop :=
  (∀ s, s.pkg.engine = none → Gives .pageWalkRetry s s)
    ∧ (∀ s e, s.pkg.engine = some e → (e.place = none ∨ e.launch ≠ none ∨ ∀ p, e.job ≠ .launch p) → Gives .pageWalkRetry s s)
    ∧ ∀ s e p, s.pkg.engine = some e → e.job = .launch p → e.place ≠ none → e.launch = none →
      (s.jobCut e.strm e.job = true → ∃ t, Gives .pageWalkRetry s t ∧ SameMachine s t ∧ DueAtDcc t (s.dcc + 64) (.ev .pageWalkRetry))
      ∧ (s.jobCut e.strm e.job = false → Gives .pageWalkRetry s (s.prepareLaunch e p))

/-- What the words between members do where they find what they name (R388, R389). -/
def GangEventsTakeEffect : Prop :=
  (∀ m s, ∃ t, Gives (.readyMessage m) s t ∧ t.rows = s.rows ∧ (m, s.dcc) ∈ t.pkg.readyIn)
    ∧ (∀ tag bad slow s e p d, s.pkg.engine = some e → e.job = .launch p → p.gangTag = tag → e.launch = some d →
        ∃ t, Gives (.gangGoAbort tag true bad slow) s t ∧ t.rows = s.rows ∧ DueAtDcc t d (.ev .taskLaunch))
    ∧ ∀ s e p, s.pkg.engine = some e → e.job = .launch p → e.place ≠ none → e.launch = none → s.jobCut e.strm e.job = false →
        ∃ t, Gives .pageWalkRetry s t ∧ t = s.prepareLaunch e p

/-- Gangs (R46, R389): a ready message is kept with the cycle of its arrival, a go puts the launch at its cycle, an abort refuses it. -/
def GangsLaunch : Prop :=
  (∀ m s, ∃ t, Gives (.readyMessage m) s t ∧ OnlyPkg s t ∧ t.pkg.readyIn = s.pkg.readyIn ++ [(m, s.dcc)] ∧ t.agenda = s.agenda)
    ∧ (∀ tag bad slow s e d, s.pkg.engine = some e → e.job.tag = some tag → e.launch = some d →
        ∃ t, Gives (.gangGoAbort tag true bad slow) s t ∧ SameMachine s t
          ∧ ((∃ p, e.job = .launch p) → DueAtDcc t d (.ev .taskLaunch)) ∧ ((∃ p, e.job = .resume p) → DueAtDcc t d (.ev .restoreLaunch)))
    ∧ ∀ bad slow s e (p : LaunchPkt) slot first, s.pkg.engine = some e → e.job = .launch p → e.place = some (slot, first) → (s.stream e.strm).busy ≠ none →
        streamOk p.report = true → p.report % 32 = 0 → WritesNow s p.report → s.cut (2 ^ 64 - 1) p.report = false →
        ∃ t, Gives (.gangGoAbort p.gangTag false bad slow) s t ∧ Completed s t e.strm ∧ t.pkg.engine = none ∧ ReportAt t p.report 0x1D p.taskid s.dcc
          ∧ t.cores = s.cores ∧ ∀ r ∈ s.rowsOf slot, t.rows[r].task = none

/-- The end of a task (R49, R156, R375): its LAUNCH or RESUME reports and completes, its rows are free and its slot is empty; registers and
memories of its cores stand. An end fence that is not yet done is looked at again 64 cycles later (log entry 127); where the end of a task comes
before it, the slot is kept for the writes. -/
def TasksEnd : Prop :=
  ∀ s,
    (s.task.ending = none → Gives .taskEnd s s)
    ∧ (s.pkg.offline = [] → s.cur.gang = true → s.cur.work = .cont .endFence →
        (s.fenceDone s.cur.slot = false → DueAt (runCont .endFence s) (s.gcc + 64) (.cont .endFence) ∧ SameMachine s (runCont .endFence s))
        ∧ (s.fenceDone s.cur.slot = true → s.task.ghost = none → DueAtDcc (runCont .endFence s) s.dcc (.ev .taskEnd)))
    ∧ ∀ rep, s.task.ending = some rep → s.task.live = true → s.task.ghost = none → s.task.preempt = none → (s.stream s.task.strm).busy ≠ none →
      streamOk s.task.report = true → s.task.report % 32 = 0 → rep.code < 256 → WritesNow s s.task.report → s.cut (2 ^ 64 - 1) s.task.report = false →
      NoReads s s.cur.slot →
      ∃ t, Gives .taskEnd s t ∧ Completed s t s.task.strm ∧ t.cores = s.cores
        ∧ (s.fenceDone s.cur.slot = true → t.task = {})
        ∧ (s.fenceDone s.cur.slot = false → t.task.ghost = some noSave ∧ t.task.ending = some rep ∧ t.task.runs = [] ∧ t.task.stalls = s.task.stalls)
        ∧ ReportAt t s.task.report rep.code s.task.taskid s.task.endDcc
        ∧ (∀ r ∈ s.rowsOf s.cur.slot, t.rows[r].task = none ∧ t.rows[r].running = false)
        ∧ ∀ r, r ∉ s.rowsOf s.cur.slot → t.rows[r] = s.rows[r]

/-! ## Pre-emption and restore (R390 to R404) -/

/-- A PREEMPT (R381, R390): an unknown task, one under pre-emption already and a save area too small are reported; otherwise the request is
kept and, in a task of one member, pending 64 cycles on; in a gang the hold master hears of it, and once it has heard from every member the
request is pending at the GCC that lies L_lead domain cycles on. -/
def PreemptionRequests : Prop :=
  ∀ n s (p : PreemptPkt), (s.stream n).busy ≠ none → streamOk p.report = true → p.report % 32 = 0 → WritesNow s p.report → s.cut (2 ^ 64 - 1) p.report = false →
    (s.running p.taskid = none → ∃ t, Gives (.preempt n p) s t ∧ Completed s t n ∧ t.tasks = s.tasks ∧ ReportAt t p.report 0x27 p.taskid s.dcc)
    ∧ ∀ slot, s.running p.taskid = some slot →
      ((s.taskAt slot).preempt ≠ none → ∃ t, Gives (.preempt n p) s t ∧ Completed s t n ∧ t.tasks = s.tasks ∧ ReportAt t p.report 0x26 p.taskid s.dcc)
      ∧ ((s.taskAt slot).preempt = none → p.saveLen < (s.taskAt slot).saveNeed p.disc → ∃ t, Gives (.preempt n p) s t ∧ Completed s t n ∧ t.tasks = s.tasks
          ∧ ReportAt t p.report 0x22 p.taskid s.dcc ∧ t.streamNat (p.report + 16) 8 = (s.taskAt slot).saveNeed p.disc % 2 ^ 64)
      ∧ ((s.taskAt slot).preempt = none → (s.taskAt slot).saveNeed p.disc ≤ p.saveLen → ∃ t, Gives (.preempt n p) s t ∧ t.cores = s.cores ∧ t.rows = s.rows
          ∧ (∀ m, t.stream m = s.stream m) ∧ (t.taskAt slot).preempt = some { strm := n, pkt := p, q := (s.taskAt slot).gcc + 64 }
          ∧ ((s.taskAt slot).members ≤ 1 → ∃ e ∈ t.agenda, e.gang = true ∧ e.slot = slot ∧ e.due = (s.taskAt slot).gcc + 64 ∧ e.work = .cont .preemptNow)
          ∧ (1 < (s.taskAt slot).members → (s.taskAt slot).rank ≠ 0 → t.sent = s.sent ++ [.note 0x30 [(s.taskAt slot).taskid, (s.taskAt slot).rank, s.dcc]])
          ∧ (1 < (s.taskAt slot).members → (s.taskAt slot).rank = 0 → (∀ m < (s.taskAt slot).members, m = 0 ∨ m ∈ (s.taskAt slot).preempts) →
              ∃ e ∈ t.agenda, e.gang = true ∧ e.slot = slot ∧ e.due = s.gccAt slot (s.taskAt slot).llead ∧ e.work = .cont .preemptNow))

/-- Of the cores nothing changes but the class of a local-store word that is read and found uncorrectable: it is poisoned now (R141). -/
def OnlyReadLs (s t : State) : Prop :=
  ∀ r c, { t.coreAt r c with lsCls := (s.coreAt r c).lsCls } = s.coreAt r c
    ∧ ∀ a, (t.coreAt r c).cls a = (s.coreAt r c).cls a ∨ ((s.coreAt r c).cls a = .uncorrectable ∧ (t.coreAt r c).cls a = .poisoned)

/-- A request becomes pending at its cycle (R390), and once the gang has drained its state is saved (R392, R395): the image says what it is,
and the save ends at most 256 cycles and one cycle for every 64 bytes later, and begins once a port carries traffic toward its module (R407;
log entry 137). -/
def PreemptionsDrainAndSave : Prop :=
  ∀ s p, s.task.preempt = some p →
    (s.cur.args = [] → ∃ t q, Gives .preemptPending s t ∧ t.task.preempt = some q ∧ q.pending = true ∧ q.q = s.gcc ∧ q.pkt = p.pkt ∧ t.cores = s.cores ∧ t.rows = s.rows)
    ∧ (∀ m, s.cur.args = [m] → (s.task.rank ≠ 0 ∨ ∃ k < s.task.members, k ≠ m ∧ k ∉ s.task.preempts) → ∃ t, Gives .preemptPending s t
        ∧ t.task = { s.task with preempts := s.task.preempts ++ [m] } ∧ SameRows s t ∧ t.agenda = s.agenda)
    ∧ (∀ m, s.cur.args = [m] → s.task.rank = 0 → (∀ k < s.task.members, k = m ∨ k ∈ s.task.preempts) → ∃ t, Gives .preemptPending s t
        ∧ t.task = { s.task with preempts := [] } ∧ SameRows s t ∧ DueAt t (s.gccAt s.cur.slot s.task.llead) (.cont .preemptNow))
    ∧ (p.taken = none ∨ p.drained ≠ none ∨ s.task.ending ≠ none → Gives .preemptDrainEnd s s)
    ∧ (p.taken ≠ none → p.drained = none → s.task.ending = none → s.task.stop = none →
        (s.draining s.cur.slot ≠ [] → s.cur.gang = true → s.cur.work = .ev .preemptDrainEnd →
          ∃ t g, Gives .preemptDrainEnd s t ∧ SameMachine s t ∧ s.gcc < g ∧ DueAt t g (.ev .preemptDrainEnd))
        ∧ (s.draining s.cur.slot = [] → streamOk p.pkt.save = true → p.pkt.save % 64 = 0 → WritesNow s p.pkt.save → NoReads s s.cur.slot →
          s.cut (2 ^ 64 - 1) p.pkt.save = false →
          ∃ t q d, Gives .preemptDrainEnd s t ∧ OnlyReadLs s t ∧ t.rows = s.rows ∧ t.task.preempt = some q ∧ q.drained = some s.dcc
            ∧ d ≤ s.dcc + 256 + (q.size + 63) / 64 ∧ DueAtDcc t d (.ev .saveComplete)
            ∧ t.streamNat p.pkt.save 4 = 0x5854435A ∧ t.streamNat (p.pkt.save + 4) 2 = 1 ∧ t.streamNat (p.pkt.save + 6) 1 = 1
            ∧ t.streamNat (p.pkt.save + 8) 8 = q.size % 2 ^ 64 ∧ t.streamNat (p.pkt.save + 0x18) 4 = s.task.taskid % 2 ^ 32
            ∧ t.streamNat (p.pkt.save + 0x28) 8 = (p.taken.getD 0 + 1) % 2 ^ 64)
        ∧ (s.draining s.cur.slot = [] → s.cut (2 ^ 64 - 1) p.pkt.save = true → NoReads s s.cur.slot →
          ∃ t q img, Gives .preemptDrainEnd s t ∧ OnlyReadLs s t ∧ t.rows = s.rows ∧ t.modMem = s.modMem ∧ t.host = s.host ∧ t.task.preempt = some q
            ∧ q.drained = some s.dcc ∧ q.size = img.length ∧ DueAtDcc t (s.dcc + 64) (.cont (.imageWrite img))))

/-- A discard (R391, R394): one that the hold master announces is due at its GCC; there every core and sequencer stops where it stands and the
gang is saved; a HALT or an earlier PREPT wins, and it lapses where a region has closed or a trap has stopped the gang. -/
def Discards : Prop :=
  ∀ s,
    (s.cur.args = [] → s.task.preempt = none → Gives .discard s s)
    ∧ ∀ p, s.task.preempt = some p →
      (∀ d, s.cur.args = [d] → ∃ t, Gives .discard s t ∧ t.task = { s.task with preempt := some { p with discardAt := some d, lapsed := false } } ∧ SameRows s t
          ∧ DueAt t d (.ev .discard))
      ∧ (s.cur.args = [] → (p.taken ≠ none ∨ s.task.ending ≠ none ∨ ∀ r ∈ s.rowsOf s.cur.slot, s.rows[r].halted ≠ none) → Gives .discard s s)
      ∧ (s.cur.args = [] → p.taken = none → s.task.ending = none → (∃ r ∈ s.rowsOf s.cur.slot, s.rows[r].halted = none) →
          (p.lapsed = true ∨ s.task.stop ≠ none ∨ ∃ r ∈ s.rowsOf s.cur.slot, s.rows[r].halted = none ∧ s.rows[r].region = none) →
          ∃ t q, Gives .discard s t ∧ t.task.preempt = some q ∧ q.taken = none ∧ q.lapsed = false ∧ q.pkt = p.pkt ∧ t.rows = s.rows ∧ t.cores = s.cores)
      ∧ (s.cur.args = [] → p.taken = none → s.task.ending = none → p.lapsed = false → s.task.stop = none → (∃ r ∈ s.rowsOf s.cur.slot, s.rows[r].halted = none) →
          (∀ r ∈ s.rowsOf s.cur.slot, s.rows[r].halted = none → s.rows[r].region ≠ none) → s.cut (2 ^ 64 - 1) p.pkt.save = false →
          ∃ t q d, Gives .discard s t ∧ t.task.preempt = some q ∧ q.taken = some s.gcc ∧ q.drained = some s.dcc
            ∧ d ≤ s.dcc + 256 + (q.size + 63) / 64 ∧ DueAtDcc t d (.ev .saveComplete)
            ∧ ∀ r ∈ s.rowsOf s.cur.slot, t.rows[r].frozen = true ∧ t.rows[r].k = s.rows[r].k ∧ t.rows[r].region = s.rows[r].region
              ∧ ∀ c : Fin 8, (t.coreAt r c).frozen = true ∧ (t.coreAt r c).a = (s.coreAt r c).a ∧ (t.coreAt r c).ls = (s.coreAt r c).ls)

/-- The end of a save (R395, R401): the rows are free, both packets complete, and the slot is kept only while far-memory writes of the task
have still to take effect; then WRDONE is set and every fence that waited for it completes (R382). -/
def SavesComplete : Prop :=
  (∀ s p d, s.task.preempt = some p → p.drained = some d → s.cut (2 ^ 64 - 1) p.pkt.save = true →
      ∃ t, Gives .saveComplete s t ∧ SameMachine s t ∧ DueAtDcc t (s.dcc + 64) (.ev .saveComplete))
    ∧ (∀ s p d, s.task.preempt = some p → p.drained = some d → NoReads s s.cur.slot →
      (∀ a, (a = p.pkt.save ∨ a = p.pkt.report ∨ a = s.task.report) → s.cut (2 ^ 64 - 1) a = false) →
      ∃ t, Gives .saveComplete s t ∧ t.cores = s.cores ∧ (∀ r ∈ s.rowsOf s.cur.slot, t.rows[r].task = none ∧ t.rows[r].running = false)
        ∧ (p.done = true → t.task = {}) ∧ (p.done = false → t.task.ghost = some p.pkt.save ∧ t.task.preempt = none)
        ∧ (WritesNow s p.pkt.save → WritesNow s s.task.report → WritesNow s p.pkt.report → streamOk p.pkt.save = true → p.pkt.save % 64 = 0 →
            streamOk p.pkt.report = true → streamOk s.task.report = true →
            (p.pkt.save + 8 ≤ p.pkt.report ∨ p.pkt.report + 32 ≤ p.pkt.save) → (p.pkt.save + 8 ≤ s.task.report ∨ s.task.report + 32 ≤ p.pkt.save) →
            t.streamNat (p.pkt.save + 7) 1 / 2 % 2 = 1)
        ∧ ∀ n, n = p.strm ∨ n = s.task.strm → (t.stream n).busy = none
            ∧ ∀ b, (s.stream n).busy = some b → b.stale = false → (t.stream n).head = (s.stream n).wrap b.next)
    ∧ (∀ s, (s.task.preempt = none ∨ ∃ p, s.task.preempt = some p ∧ p.drained = none) → Gives .saveComplete s s)
    ∧ (∀ a s, s.cut (2 ^ 64 - 1) a = true → ∃ t, Gives (.wrdone a) s t ∧ SameMachine s t ∧ DueAtDcc t (s.dcc + 64) (.ev (.wrdone a)))
    ∧ ∀ a s, streamOk a = true → a % 64 = 0 → WritesNow s a → s.cut (2 ^ 64 - 1) a = false →
      ((∃ x ∈ s.task.xfers, x.writes = true ∧ x.waits ≠ []) → s.cur.gang = false → s.cur.work = .ev (.wrdone a) →
        ∃ t d, Gives (.wrdone a) s t ∧ t.rows = s.rows ∧ t.cores = s.cores ∧ t.tasks = s.tasks ∧ t.pkg = s.pkg ∧ s.dcc < d ∧ DueAtDcc t d (.ev (.wrdone a)))
      ∧ ((∀ x ∈ s.task.xfers, x.writes = true → x.waits = []) → ∃ t, Gives (.wrdone a) s t ∧ t.cores = s.cores
          ∧ (t.streamByte (a + 7)).getLsbD 0 = true ∧ (∀ i, i ≠ 0 → (t.streamByte (a + 7)).getLsbD i = (s.streamByte (a + 7)).getLsbD i)
          ∧ (s.task.ghost = some a → t.task = {})
          ∧ ∀ n < 64, (s.stream n).saves = [a] → (t.stream n).saves = [] ∧ ((s.stream n).fencing = true → (t.stream n).busy = none))

/-- What a save writes of a core's registers is what a restore reads (R399, R403), for every register that the record marks. -/
def SavedRegistersComeBack : Prop :=
  ∀ (rec : List Byte) (c c0 : Core),
    let back := putItems (coreItems rec) (pad64 (c.regSec rec)) c0
    (∀ i ∈ marked rec 0x10 4 0 32, back.ra i = c.ra i) ∧ (∀ i ∈ marked rec 0x0D 1 0 7, back.rp i = c.rp i)
      ∧ (∀ r ∈ marked rec 0x18 6 0 48, ∀ l < 128, back.rv r l = c.rv r l) ∧ (∀ r ∈ marked rec 0x0E 1 0 7, ∀ l < 128, back.rm r l = c.rm r l)
      ∧ (∀ k ∈ marked rec 0x14 2 0 16, back.rtd k = c.rtd k ∧ ∀ b < 16384, back.rt k b = c.rt k b)
      ∧ (∀ i ∈ marked rec 0x1E 2 0 16, Sparse.get 0 back.bnd i = Sparse.get 0 c.bnd i)
      ∧ ∀ i ∈ marked rec 0x0F 1 0 8, Sparse.get 0 back.g i = Sparse.get 0 c.g i

/-- The restore launch (R403): HOLDS, SLKR and SHIFTC come back, GCC is the DCC less the holds and the slack, and every core and row has what
its sections hold, its times moved by the restore shift. -/
def RestoresLaunch : Prop :=
  (∀ s, s.pkg.engine = none → Gives .restoreLaunch s s)
    ∧ ∀ s e p slot first v m, s.pkg.engine = some e → e.place = some (slot, first) → e.job = .resume p →
      s.readContext (s.stream e.strm).ctx.podMap p.save = some (v, m) → first + v.rows ≤ 8 → v.holds + v.slkr ≤ s.dcc → s.dcc < 2 ^ 64 →
      let g := s.dcc - (v.holds + v.slkr)
      let d := (g + 64 + (2 ^ 64 - v.gstop % 2 ^ 64)) % 2 ^ 64
      ∃ t, Gives .restoreLaunch s t ∧ t.pkg.engine = none ∧ (t.taskAt slot).live = true ∧ (t.taskAt slot).gcc = g ∧ (t.taskAt slot).holds = v.holds
        ∧ (t.taskAt slot).slkr = v.slkr ∧ (t.taskAt slot).shiftc = (v.shiftc + d) % 2 ^ 64 ∧ (t.taskAt slot).taskid = v.taskid ∧ t.modMem = s.modMem ∧ t.host = s.host
        ∧ ∀ i < v.rows, ∀ r : Fin 8, r.1 = first + i →
          let bs := s.savedSec v 0x0110 i 0xFF
          t.rows[r].tvec = BitVec.ofNat 64 (fieldOf bs 0x50 8) ∧ t.rows[r].sstep = BitVec.ofNat 64 (fieldOf bs 0x58 8)
            ∧ (v.kind = 1 → t.rows[r].fb = (fieldOf bs 0 8 + d) % 2 ^ 64)
            ∧ ∀ c : Fin 8, t.coreAt r c = s.savedCore v d i c.1 ((bs.drop 0x80).take 128) (s.coreAt r c)

/-! ## Optical ports, lasers, the domain and the scale-up ports (R406 to R424) -/

/-- Nothing that has come over a scale-up port has still to be delivered. -/
def NothingCame (s : State) : Prop := ∀ p, s.cameOver p = []

/-- Of rows, cores, memories and clocks nothing changes; of the tasks nothing but which of their transfers are late (R422, R445). -/
def OnlyLinks (s t : State) : Prop :=
  t.dcc = s.dcc ∧ t.rows = s.rows ∧ t.cores = s.cores ∧ t.modMem = s.modMem ∧ t.host = s.host ∧ (NothingCame s → t.tasks = s.tasks)

/-- No transfer of a task is under way, and no schedule of one stalled. -/
def NoTraffic (s : State) : Prop := ∀ k : Slot, (s.taskAt k).live = true → (s.taskAt k).xfers = [] ∧ (s.taskAt k).stalls = []

/-- Of rows, cores, memories and clocks nothing changes; of the tasks nothing but which of their transfers are late (R407, R445). -/
def OnlyPorts (s t : State) : Prop :=
  t.dcc = s.dcc ∧ t.rows = s.rows ∧ t.cores = s.cores ∧ t.modMem = s.modMem ∧ t.host = s.host ∧ (NoTraffic s → t.tasks = s.tasks)

/-- The other memory ports are as before. -/
def OtherPorts (s t : State) (p : Nat) : Prop := ∀ q, q ≠ p → t.port q = s.port q

/-- The other scale-up ports are as before. -/
def OtherSu (s t : State) (p : Nat) : Prop := ∀ q, q ≠ p → t.suPort q = s.suPort q

/-- Bring-up (R411): a step begins in its turn on an enabled port whose laser is up, otherwise it fails; step 1 clears the rings; a step ends
with DONE or FAIL, and step 5 with the control ring and eight lanes makes the port live. In safe function the host's writes are ignored (R427). -/
def MemoryPortBringUp : Prop :=
  ∀ p s,
    (∀ i k, (i = .mpCoarseTune p ∧ k = 1) ∨ (i = .mpLock p ∧ k = 2) ∨ (i = .mpRotation p ∧ k = 3) ∨ (i = .mpEyeTraining p ∧ k = 4) ∨ (i = Instr.mpGoLive p ∧ k = 5) →
      let old := s.port p
      let may := (k = 1 ∨ k = old.done + 1) ∧ old.en = true ∧ (s.laser (p / 32)).ok = true
      let heard := old.absent = false ∧ s.pkg.boot.full = true
      (¬heard → Gives i s s)
      ∧ (heard → ¬may → ∃ t, Gives i s t ∧ OnlyPorts s t ∧ OtherPorts s t p ∧ t.port p = { old with fail := true })
      ∧ (heard → may → ∃ t, Gives i s t ∧ OnlyPorts s t ∧ OtherPorts s t p ∧ (t.port p).busy = some k ∧ (t.port p).fail = false
          ∧ (k ≠ 1 → t.port p = { old with busy := some k, fail := false })
          ∧ (k = 1 → (t.port p).live = false ∧ (t.port p).rotv = false ∧ (t.port p).spared = 0xF
              ∧ ∀ n < 10, ((t.port p).ring n).lock = false ∧ ((t.port p).ring n).failed = false ∧ ((t.port p).ring n).heat = (old.ring n).heat)))
    ∧ ∀ r, let lit := (s.port p).en = true ∧ (s.laser (p / 32)).ok = true
      ((s.port p).busy = none → Gives (.mpStepComplete p r) s s)
      ∧ (∀ k, (s.port p).busy = some k → ∃ t, Gives (.mpStepComplete p r) s t ∧ OnlyPorts s t ∧ OtherPorts s t p ∧ (t.port p).busy = none
          ∧ (¬lit → (t.port p).fail = true ∧ (t.port p).done = (s.port p).done)
          ∧ (lit → k = 3 → (∀ n ∈ (s.port p).carriers, r.ok.getD n false = true) →
              (t.port p).rot = r.rot % 8 ∧ (t.port p).rotv = true ∧ (t.port p).done = 3 ∧ (t.port p).fail = false)
          ∧ (lit → k = 3 → (∃ n ∈ (s.port p).carriers, r.ok.getD n false = false) → (t.port p).fail = true ∧ (t.port p).rotv = (s.port p).rotv)
          ∧ (lit → k = 5 → r.ok.getD 9 false = true → (s.port p).lanes = 8 → (t.port p).live = true ∧ (t.port p).done = 5 ∧ (t.port p).fail = false)
          ∧ (lit → k = 5 → (r.ok.getD 9 false = false ∨ (s.port p).lanes ≠ 8) → (t.port p).live = (s.port p).live ∧ (t.port p).fail = true))

/-- Rings and spares of a live port (R410, R411, R413): what used a port that goes down is late until it has come on another. A margin scan
keeps the eyes that it finds; a ring whose eye is too small is retrained, on the spare where that is free, in place where it carries another
lane. -/
def MemoryPortsInService : Prop :=
  ∀ p s,
    (s.pkg.boot.full = false → Gives (.memoryPortDisable p) s s)
    ∧ (s.pkg.boot.full = true → ∃ t, Gives (.memoryPortDisable p) s t ∧ OnlyPorts s t ∧ OtherPorts s t p ∧ (t.port p).en = false ∧ (t.port p).live = false)
    ∧ (∀ n late, (s.port p).live = false ∨ 9 < n → Gives (.ringLockLoss p n late) s s)
    ∧ ((s.port p).live = true → ∃ t, Gives (.ringLockLoss p 9 []) s t ∧ OnlyPkg s t ∧ OtherPorts s t p ∧ (t.port p).live = true
        ∧ ((t.port p).ring 9).lock = false ∧ 9 ∈ (t.port p).inPlace ∧ (t.port p).retrains = min ((s.port p).retrains + 1) 0xFFFF)
    ∧ (∀ n < 8, (s.port p).live = true → (s.port p).spareFree = true → (s.port p).inPlace = [] → (∀ k < 8, k ≠ n → ((s.port p).ring k).lock = true) →
        ((s.port p).auto = true → ∃ t, Gives (.ringLockLoss p n []) s t ∧ OnlyPkg s t ∧ OtherPorts s t p ∧ (t.port p).live = true
          ∧ ((t.port p).ring n).failed = true ∧ ((t.port p).ring n).lock = false ∧ (t.port p).tuning = some n ∧ (t.port p).sparings = min ((s.port p).sparings + 1) 0xFFFF
          ∧ ∃ d, s.dcc < d ∧ d ≤ s.dcc + 16384 ∧ DueAtDcc t d (.cont (.spareLive p)))
        ∧ ((s.port p).force = n → ∃ t, Gives (.mpspareForce p) s t ∧ OnlyPkg s t ∧ OtherPorts s t p ∧ (t.port p).live = true
          ∧ ((t.port p).ring n).failed = true ∧ (t.port p).tuning = some n))
    ∧ (∀ n < 8, (s.port p).live = true → (s.port p).spared < 8 → (s.port p).spared ≠ n → (s.port p).tuning = none → (s.port p).mover = none →
        ∃ t, Gives (.ringLockLoss p n []) s t ∧ OnlyPorts s t ∧ OtherPorts s t p ∧ (t.port p).live = false ∧ s.pkg.evqNew.length < t.pkg.evqNew.length)
    ∧ ((s.port p).live = false ∨ 8 ≤ (s.port p).force → Gives (.mpspareForce p) s s)
    ∧ ((s.port p).tuning = none → Gives (.spareLive p) s s)
    ∧ (∀ n < 8, (s.port p).tuning = some n → (s.port p).waiting = [] → ∃ t, Gives (.spareLive p) s t ∧ OnlyPkg s t ∧ OtherPorts s t p
        ∧ (t.port p).spared = n ∧ (t.port p).tuning = none ∧ ((t.port p).ring 8).lock = true ∧ (t.port p).laneOf n = none ∧ (t.port p).laneOf 8 = (({ s.port p with spared := 0xF }).laneOf n))
    ∧ (∀ n < 8, (s.port p).mover = some n → (s.port p).spared = n → (s.port p).waiting = [] → ∃ t, Gives (.laneRetrainingComplete p n) s t ∧ OnlyPkg s t
        ∧ OtherPorts s t p ∧ (t.port p).spared = 0xF ∧ (t.port p).mover = none ∧ ((t.port p).ring n).lock = true ∧ ((t.port p).ring 8).lock = false)
    ∧ (∀ n, (s.port p).mover ≠ some n → n ∈ (s.port p).inPlace → ∃ t, Gives (.laneRetrainingComplete p n) s t ∧ OnlyPkg s t ∧ OtherPorts s t p
        ∧ (t.port p).inPlace = (s.port p).inPlace.erase n ∧ ((t.port p).ring n).lock = true)
    ∧ ∀ r, ((s.port p).live = false → Gives (.marginScan p r) s s)
      ∧ ((s.port p).live = true → ∃ t, Gives (.marginScan p r) s t ∧ OnlyPkg s t ∧ OtherPorts s t p ∧ (t.port p).live = true
          ∧ ∀ n < 10, ((t.port p).ring n).eyeH = r.eyeH.getD n ((s.port p).ring n).eyeH % 65536 ∧ ((t.port p).ring n).lock = ((s.port p).ring n).lock)
      ∧ (let small := fun (n : Nat) => r.eyeH.getD n ((s.port p).ring n).eyeH % 65536 < 0x80 ∨ r.eyeW.getD n ((s.port p).ring n).eyeW % 65536 < 0xC0
         ∀ n < 8, (s.port p).live = true → small n → (∀ k < 9, k ≠ n → ¬small k) → ((s.port p).ring n).lock = true → (s.port p).inPlace = [] → (s.port p).waiting = [] →
          ((s.port p).spareFree = true → ∃ t d, Gives (.marginScan p r) s t ∧ OtherPorts s t p ∧ (t.port p).live = true ∧ (t.port p).tuning = some n
              ∧ (t.port p).mover = some n ∧ (t.port p).retrains = min ((s.port p).retrains + 1) 0xFFFF ∧ s.dcc < d ∧ d ≤ s.dcc + 16384 ∧ DueAtDcc t d (.cont (.spareLive p)))
          ∧ ((s.port p).spared < 8 → (s.port p).spared ≠ n → (s.port p).tuning = none → (s.port p).mover = none → ∃ t d, Gives (.marginScan p r) s t ∧ OtherPorts s t p
              ∧ (t.port p).live = true ∧ (t.port p).inPlace = [n] ∧ (t.port p).retrains = min ((s.port p).retrains + 1) 0xFFFF ∧ s.dcc < d ∧ d ≤ s.dcc + 4096
              ∧ DueAtDcc t d (.cont (.retrained p n))))

/-- Flits that fail their check (R412, R413, R419, R424): a replay for every failure, four at most; the seventeenth failure of a ring within 2^16
flits is a failure of the ring; a scale-up port sends the flit again as it was sealed; after the fifth failure the bytes of the flit are
delivered poisoned (R320). -/
def FlitsReplay : Prop :=
  ∀ p ring flit fails s,
    let crc := ((s.port p).ring ring).crc
    (p < 384 → fails ≤ 4 → crc.length + fails ≤ 16 → ∃ t, Gives (.flitCrcFailure ⟨p, ring, flit⟩ fails [] []) s t ∧ OnlyPkg s t ∧ OtherPorts s t p
        ∧ (t.port p).replays = min ((s.port p).replays + fails) 0xFFFFFFFF ∧ (t.port p).live = (s.port p).live
        ∧ ((t.port p).ring ring).crc = List.replicate fails flit ++ crc.filter fun n => decide (flit < n + 65536))
    ∧ (p < 384 → ring < 8 → 16 < crc.length + min fails 5 → (∀ n ∈ crc, flit < n + 65536) → (s.port p).live = true → (s.port p).auto = true → (s.port p).spareFree = true →
        (s.port p).inPlace = [] → (∀ k < 8, k ≠ ring → ((s.port p).ring k).lock = true) → ∃ t, Gives (.flitCrcFailure ⟨p, ring, flit⟩ fails [] []) s t ∧ OnlyPkg s t
        ∧ OtherPorts s t p ∧ ((t.port p).ring ring).failed = true ∧ (t.port p).tuning = some ring ∧ (t.port p).live = true)
    ∧ (384 ≤ p → fails ≤ 4 → ∀ flits, ∃ t, Gives (.flitCrcFailure ⟨p, ring, flit⟩ fails [] flits) s t ∧ OnlyPkg s t ∧ OtherSu s t (p - 384)
        ∧ (t.suPort (p - 384)).replays = min ((s.suPort (p - 384)).replays + fails) 0xFFFFFFFF
        ∧ ∀ x ∈ flits, ∀ f ∈ (s.suPort (p - 384)).buf, f.id = x.1 → f.ofs = x.2 → .flit (p - 384) f ∈ t.sent)
    ∧ ∀ id ofs x, 4 < fails → (384 ≤ p ∨ crc.length < 12) → x ∈ s.task.xfers → x.id = id → ∃ t, Gives (.flitCrcFailure ⟨p, ring, flit⟩ fails [] [(id, ofs)]) s t ∧ t.cores = s.cores ∧ t.rows = s.rows
        ∧ { x with traPsn := x.traPsn ++ (List.range 64).map (ofs + ·) } ∈ t.task.xfers

/-- What the events of a memory port do to it where it is in the state they need (R410 to R413). -/
def PortEventsTakeEffect : Prop :=
  ∀ p s,
    (s.pkg.boot.full = true → (s.port p).absent = false → (s.port p).en = true → (s.laser (p / 32)).ok = true →
      (∃ t, Gives (.mpCoarseTune p) s t ∧ (t.port p).busy = some 1)
      ∧ ((s.port p).done = 1 → ∃ t, Gives (.mpLock p) s t ∧ (t.port p).busy = some 2)
      ∧ ((s.port p).done = 2 → ∃ t, Gives (.mpRotation p) s t ∧ (t.port p).busy = some 3)
      ∧ ((s.port p).done = 3 → ∃ t, Gives (.mpEyeTraining p) s t ∧ (t.port p).busy = some 4)
      ∧ ((s.port p).done = 4 → ∃ t, Gives (.mpGoLive p) s t ∧ (t.port p).busy = some 5))
    ∧ (∀ r, (s.port p).busy ≠ none → ∃ t, Gives (.mpStepComplete p r) s t ∧ (t.port p).busy = none)
    ∧ (s.pkg.boot.full = true → ∃ t, Gives (.memoryPortDisable p) s t ∧ (t.port p).en = false ∧ (t.port p).live = false)
    ∧ ((s.port p).live = true → (∃ t, Gives (.ringLockLoss p 9 []) s t ∧ ((t.port p).ring 9).lock = false)
      ∧ (∀ r : RingReport, ∃ t, Gives (.marginScan p r) s t ∧ ∀ n < 10, ((t.port p).ring n).eyeW = r.eyeW.getD n ((s.port p).ring n).eyeW % 65536)
      ∧ ((s.port p).force < 8 → (s.port p).spareFree = true → (s.port p).inPlace = [] → (∀ k < 8, ((s.port p).ring k).lock = true) →
          ∃ t, Gives (.mpspareForce p) s t ∧ ((t.port p).ring (s.port p).force).failed = true))
    ∧ (∀ n, (s.port p).tuning = some n → ∃ t, Gives (.spareLive p) s t ∧ (t.port p).spared = n)
    ∧ (∀ n, (s.port p).mover = none → n ∈ (s.port p).inPlace → ∃ t, Gives (.laneRetrainingComplete p n) s t ∧ ((t.port p).ring n).lock = true)
    ∧ ∀ ring flit, 384 ≤ p → ∃ t, Gives (.flitCrcFailure ⟨p, ring, flit⟩ 1 [] []) s t ∧ (t.suPort (p - 384)).replays = min ((s.suPort (p - 384)).replays + 1) 0xFFFFFFFF

/-- Lasers (R414): a dark laser takes its 32 ports down; the servo raises the bias by one step of 0.1 mA at most once in 2^24 cycles, and drift,
WARN and EOL follow it; every hour the lit lasers are an hour older and their drift is kept (R441). In safe function the enable is ignored
(R427). -/
def Lasers : Prop :=
  ∀ n s,
    (∀ on, s.pkg.boot.full = false → Gives (.laserEnable n on) s s)
    ∧ (s.pkg.boot.full = true → ∃ t, Gives (.laserEnable n true) s t ∧ OnlyPkg s t ∧ t.laser n = { s.laser n with en := true } ∧ ∀ p, t.port p = s.port p)
    ∧ (∀ i en, (i = .laserEnable n false ∧ en = false ∧ s.pkg.boot.full = true) ∨ (i = Instr.laserFailure n ∧ en = (s.laser n).en) → ∃ t, Gives i s t ∧ OnlyPorts s t
        ∧ t.laser n = { s.laser n with en := en, ok := false } ∧ (∀ k, k ≠ n → t.laser k = s.laser k)
        ∧ (∀ j < 32, (t.port (32 * n + j)).live = false) ∧ ∀ p, (p < 32 * n ∨ 32 * n + 32 ≤ p) → t.port p = s.port p)
    ∧ ((s.laser n).en = false → Gives (.laserOk n) s s)
    ∧ ((s.laser n).en = true → ∃ t, Gives (.laserOk n) s t ∧ OnlyPkg s t ∧ (t.laser n).ok = true ∧ (t.laser n).en = true
        ∧ ((s.laser n).bias ≠ 0 → (t.laser n).bias = (s.laser n).bias))
    ∧ (∀ b pwr,
        let steps := b = (s.laser n).bias + 1 ∧ b < 65536 ∧ ∀ d, (s.laser n).stepAt = some d → d + 2 ^ 24 ≤ s.dcc
        ∃ t, Gives (.biasServoStep n b pwr) s t ∧ OnlyPkg s t ∧ (t.laser n).pwr = pwr ∧ (t.laser n).ok = (s.laser n).ok
        ∧ (steps → (t.laser n).bias = b ∧ (t.laser n).stepAt = some s.dcc)
        ∧ (¬steps → (t.laser n).bias = (s.laser n).bias ∧ (t.laser n).stepAt = (s.laser n).stepAt)
        ∧ ((s.laser n).bias0 ≠ 0 → (s.laser n).bias0 ≤ (t.laser n).bias →
            1024 * ((t.laser n).bias - (s.laser n).bias0) / (s.laser n).bias0 < 65536 →
            (t.laser n).drift = 1024 * ((t.laser n).bias - (s.laser n).bias0) / (s.laser n).bias0)
        ∧ ((t.laser n).warn = true ↔ 205 ≤ (t.laser n).drift) ∧ ((t.laser n).eol = true ↔ 512 ≤ (t.laser n).drift))
    ∧ (∀ ds, ∃ t, Gives (.wearSample ds) s t ∧ OnlyPkg s t
        ∧ ∀ k < 12, t.laser k = { s.laser k with hours := if (s.laser k).en then ((s.laser k).hours + 1) % 2 ^ 32 else (s.laser k).hours }
          ∧ t.drifts k = if (s.laser k).en then (((s.laser k).drift : Int) :: s.drifts k).take 1001 else s.drifts k)
    ∧ ∀ die, ∃ t rec, Gives (.thermalWarning die) s t ∧ OnlyPkg s t ∧ t.pkg.evqNew = s.pkg.evqNew ++ [(1024 + 0x86, rec)] ∧ rec.length = 32 ∧ rec.head? = some 0x86

/-- The domain (R415 to R417, R421): a join takes the count that a reference frame brings on a port and keeps the distance of what is due; a
package with no live control ring and no optical scale-up port loses its lock and every task of it ends; a package that leaves keeps its lock.
In safe function the host's writes are ignored (R427). -/
def DomainMembership : Prop :=
  ∀ s,
    (∀ node p frame, s.anyTask = true ∨ s.pkg.boot.full = false → Gives (.join node p frame) s s)
    ∧ (∀ node p, Gives (.join node p none) s s)
    ∧ (∀ node p f d, s.refPort p = false → Gives (.join node p (some (f, d))) s s)
    ∧ (∀ node p f d, s.anyTask = false → s.pkg.boot.full = true → s.refPort p = true → ∃ t, Gives (.join node p (some (f, d))) s t ∧ t.dcc = f + d
        ∧ t.pkg.node = node % 8192 ∧ t.pkg.locked = true ∧ t.pkg.member = true ∧ t.rows = s.rows ∧ t.cores = s.cores ∧ t.tasks = s.tasks
        ∧ ∀ e ∈ s.agenda, e.gang = false → s.dcc ≤ e.due → { e with due := (e.due - s.dcc) + (f + d) } ∈ t.agenda)
    ∧ (s.anyTask = true ∨ s.pkg.boot.full = false → Gives .leave s s)
    ∧ (s.anyTask = false → s.pkg.boot.full = true → ∃ t, Gives .leave s t ∧ OnlyPkg s t ∧ t.pkg.locked = s.pkg.locked ∧ t.pkg.member = false ∧ t.pkg.node = s.pkg.node)
    ∧ (s.pkg.locked = false ∨ s.hasReference = true → Gives .referenceLoss s s)
    ∧ (s.pkg.locked = true → s.hasReference = false → ∃ t, Gives .referenceLoss s t ∧ OnlyPkg s t ∧ t.pkg.locked = false
        ∧ ∀ k : Slot, (s.taskAt k).live = true → (s.taskAt k).ending = none → (s.taskAt k).ghost = none →
            ∃ e ∈ t.agenda, e.gang = false ∧ e.slot = k ∧ e.due = s.dcc + (s.taskAt k).llead ∧ e.work = .cont (.stopReached 0x11))
    ∧ (s.pkg.boot.full = false → Gives .nbindGo s s)
    ∧ (s.pkg.boot.full = true → ∃ t, Gives .nbindGo s t ∧ OnlyLinks s t ∧ ∀ p < 144,
        ((s.suPort p).serial = s.pkg.nbSer.toNat → (s.suPort p).pnode = s.pkg.nbNode → (t.suPort p).quar = false
          ∧ ((s.suPort p).egress = [] → t.suPort p = { s.suPort p with quar := false }))
        ∧ (((s.suPort p).serial ≠ s.pkg.nbSer.toNat ∨ (s.suPort p).pnode ≠ s.pkg.nbNode) → t.suPort p = s.suPort p))

/-- Scale-up ports (R418 to R424): enabling, quiescing, training with the measured time rounded up to 64 cycles (R28), identity frames and
quarantine, and the key slots: OLD is set while the replay buffer holds a flit of the old slot (R419, R424). In safe function the host's writes are ignored (R427). -/
def ScaleUpPorts : Prop :=
  ∀ p s,
    (∀ on, s.pkg.boot.full = false → Gives (.scaleUpEnable p on) s s ∧ Gives (.quiesceRequest p on) s s)
    ∧ (s.pkg.boot.full = true → ∃ t, Gives (.scaleUpEnable p true) s t ∧ OnlyPkg s t ∧ OtherSu s t p ∧ t.suPort p = { s.suPort p with en := true })
    ∧ (s.pkg.boot.full = true → ∃ t, Gives (.scaleUpEnable p false) s t ∧ OnlyPkg s t ∧ OtherSu s t p ∧ (t.suPort p).en = false ∧ (t.suPort p).up = false)
    ∧ ((s.suPort p).qreq = true → Gives (.quiesceRequest p true) s s)
    ∧ ((s.suPort p).qreq = false → s.pkg.boot.full = true → ∃ t d, Gives (.quiesceRequest p true) s t ∧ OnlyPkg s t ∧ OtherSu s t p ∧ t.suPort p = { s.suPort p with qreq := true }
        ∧ s.dcc ≤ d ∧ DueAtDcc t d (.ev (.quiesceComplete p)))
    ∧ (s.pkg.boot.full = true → ∃ t, Gives (.quiesceRequest p false) s t ∧ OnlyPkg s t ∧ OtherSu s t p ∧ t.suPort p = { s.suPort p with qreq := false, qsd := false })
    ∧ ((s.suPort p).qreq = false → Gives (.quiesceComplete p) s s)
    ∧ ((s.suPort p).qreq = true → ∃ t, Gives (.quiesceComplete p) s t ∧ OnlyPkg s t ∧ OtherSu s t p ∧ (t.suPort p).qsd = true ∧ (t.suPort p).up = false
        ∧ (t.suPort p).old = false ∧ (t.suPort p).txs = (s.suPort p).txs ∧ (t.suPort p).buf = [])
    ∧ (suOptical p = true → (s.suPort p).spl = false → ∃ t, Gives (.scaleUpLaneFailure p) s t ∧ OnlyPkg s t ∧ OtherSu s t p
        ∧ t.suPort p = { s.suPort p with spl := true })
    ∧ ((suOptical p = false ∨ (s.suPort p).spl = true) → (s.suPort p).up = true → ∃ t, Gives (.scaleUpLaneFailure p) s t ∧ OnlyPkg s t ∧ OtherSu s t p
        ∧ (t.suPort p).up = false ∧ s.pkg.evqNew.length < t.pkg.evqNew.length)
    ∧ ((s.suPort p).up = false → Gives (.identityFrame p) s s)
    ∧ ((s.suPort p).up = true → ∃ t, Gives (.identityFrame p) s t ∧ SameRows s t ∧ t.pkg = s.pkg ∧ t.sent = s.sent ++ [.note 0x21 [p, Config.serial.toNat, s.pkg.node]]
        ∧ DueAtDcc t (s.dcc + 2 ^ 24) (.ev (.identityFrame p)))
    ∧ (∀ l serial node pp, (s.suPort p).en = false ∨ (s.suPort p).qreq = true → Gives (.portTrainingComplete p l serial node pp) s s)
    ∧ (∀ l serial node pp, (s.suPort p).en = true → (s.suPort p).qreq = false →
        let lf := (l + 63) / 64 * 64
        ∃ t, Gives (.portTrainingComplete p l serial node pp) s t ∧ OnlyLinks s t
        ∧ (t.suPort p).serial = serial % 2 ^ 64 ∧ (t.suPort p).pnode = node % 8192
        ∧ (suOptical p = false → (t.suPort p).up = true ∧ (t.suPort p).lflt = 0x60)
        ∧ (suOptical p = true → lf + 256 ≤ 16384 → (t.suPort p).up = true ∧ (t.suPort p).lflt = lf)
        ∧ (suOptical p = true → 16384 < lf + 256 → (t.suPort p).up = false ∧ (t.suPort p).lflt = 0xFFFF)
        ∧ ((t.suPort p).up = true → DueAtDcc t s.dcc (.ev (.identityFrame p))))
    ∧ (∀ serial node pp, ∃ t, Gives (.identityFrameReceipt p serial node pp) s t ∧ OnlyLinks s t ∧ (t.suPort p).serial = serial % 2 ^ 64
        ∧ (t.suPort p).pnode = node % 8192 ∧ (t.suPort p).pport = pp % 256 ∧ (t.suPort p).seen = true
        ∧ ∀ q < 144, q ≠ p → p < 144 → q / 72 = p / 72 → (s.suPort p).up = true → (s.suPort q).up = true → (s.suPort q).seen = true →
            (s.suPort q).pnode = node % 8192 → (s.suPort q).serial ≠ serial % 2 ^ 64 → (s.suPort p).seen = false →
            (t.suPort p).quar = true ∧ (t.suPort q).quar = true ∧ (t.suPort p).egress = (s.suPort p).egress ∧ (NothingCame s → t.sent = s.sent))
    ∧ (let k := 1 - (s.suPort p).txs
       (suEncrypted p = true → Sparse.get false (s.suPort p).valid k = true → ∃ t, Gives (.keySwitch p) s t ∧ OnlyPkg s t ∧ OtherSu s t p
          ∧ (t.suPort p).txs = k
          ∧ ((s.suPort p).egress = [] → (∃ f ∈ (s.suPort p).buf, f.slot = some (1 - k)) → t.suPort p = { s.suPort p with txs := k, old := true })
          ∧ ((s.suPort p).egress = [] → (∀ f ∈ (s.suPort p).buf, f.slot ≠ some (1 - k)) → (t.suPort p).old = false
              ∧ Sparse.get false (t.suPort p).valid (1 - k) = false ∧ Sparse.get 0 (t.suPort p).keys (1 - k) = 0 ∧ (t.suPort p).buf = (s.suPort p).buf))
       ∧ (suEncrypted p = false ∨ Sparse.get false (s.suPort p).valid k = false → Gives (.keySwitch p) s s)
       ∧ ((s.suPort p).old = true → ∃ t, Gives (.keyRelease ⟨p, none⟩) s t ∧ OnlyPkg s t ∧ OtherSu s t p ∧ (t.suPort p).old = false
          ∧ Sparse.get false (t.suPort p).valid k = false ∧ Sparse.get 0 (t.suPort p).keys k = 0
          ∧ ∀ j, j ≠ k → Sparse.get false (t.suPort p).valid j = Sparse.get false (s.suPort p).valid j ∧ Sparse.get 0 (t.suPort p).keys j = Sparse.get 0 (s.suPort p).keys j))
    ∧ ∀ k < 2, ∃ t, Gives (.keyRelease ⟨p, some k⟩) s t ∧ OnlyPkg s t ∧ OtherSu s t p
        ∧ ∀ j, Sparse.get false (t.suPort p).valid j = (if j = 2 + k then false else Sparse.get false (s.suPort p).valid j)
          ∧ Sparse.get 0 (t.suPort p).keys j = if j = 2 + k then 0 else Sparse.get 0 (s.suPort p).keys j

/-- What a scale-up port does with a put piece or a beat (R412, R420, R421, R423, R424): a port that takes flits sends it at once, its flits in
order with their sequence numbers and, on an encrypted port, sealed under the key of TXS; a port that takes none holds it back and sends it when
it takes flits again. -/
def ScaleUpTraffic : Prop :=
  ∀ n x (s : State),
    ((s.suPort n).takes n = false → (s.emit n x).sent = s.sent ∧ OnlyPkg s (s.emit n x) ∧ OtherSu s (s.emit n x) n
      ∧ ((s.emit n x).suPort n).egress = (s.suPort n).egress ++ [x] ∧ ((s.emit n x).suPort n).buf = (s.suPort n).buf)
    ∧ ((s.suPort n).takes n = true → OnlyPkg s (s.emit n x) ∧ OtherSu s (s.emit n x) n
      ∧ ((s.suPort n).seq < 2 ^ 64 → ((s.emit n x).suPort n).seq = ((s.suPort n).seq + x.flits.length) % 2 ^ 64) ∧ ((s.emit n x).suPort n).egress = (s.suPort n).egress
      ∧ ∃ fs, (s.emit n x).sent = s.sent ++ x :: fs ∧ fs.length = x.flits.length
        ∧ ∀ i, ∀ h : i < x.flits.length, ∃ f, fs[i]? = some (.flit n f) ∧ f.id = x.flits[i].1 ∧ f.ofs = x.flits[i].2.1 ∧ ((s.suPort n).seq < 2 ^ 64 → f.seq = ((s.suPort n).seq + i) % 2 ^ 64)
          ∧ (suEncrypted n = false → f.slot = none ∧ f.bytes = x.flits[i].2.2)
          ∧ (suEncrypted n = true → f.slot = some (s.suPort n).txs
              ∧ (f.bytes, f.tag) = Config.gcm (Sparse.get 0 (s.suPort n).keys (s.suPort n).txs) (BitVec.ofNat 96 (n * 2 ^ 64 + f.seq)) x.flits[i].2.2))

/-- What has come over a quarantined port is kept there (R421) and is late (R422). On an encrypted port a flit is taken only where the key that
its selector names is held and opens its tag (R423); every flit that fails counts its four replays (R412; log entry 138). -/
def ArrivalsAreOpened : Prop :=
  ∀ s : State, s.opens none = true ∧ ∀ n k,
    ((s.suPort n).quar = true → s.opens (some (n, k)) = false)
    ∧ ((s.suPort n).quar = false → s.opens (some (n, k)) = true)
    ∧ (∀ id, (s.suPort n).quar = true → (∀ l ∈ s.task.lates, l.id ≠ id) → DueAtDcc (s.keptLate (some (n, k)) id) s.dcc (.cont (.keptLate ⟨id, s.gcc, none⟩)))
    ∧ (∀ id, (s.suPort n).quar = false → s.keptLate (some (n, k)) id = s)
    ∧ (∀ seals bs, suEncrypted n = false → s.badFlits (some (n, k)) seals bs = [])
    ∧ (∀ seals bs i, suEncrypted n = true → (i ∈ s.badFlits (some (n, k)) seals bs ↔ i < (bs.length + 63) / 64
        ∧ ¬(Sparse.get false (s.suPort n).valid (2 + k) = true ∧ ∃ seq tag, seals[i]? = some (seq, tag)
          ∧ (Config.gcm (Sparse.get 0 (s.suPort n).keys (2 + k)) (BitVec.ofNat 96 ((s.suPort n).pport * 2 ^ 64 + seq)) ((bs.drop (64 * i)).take 64)).2 = tag)))
    ∧ ∀ seals bs, OnlyPkg s (s.countTags (some (n, k)) seals bs) ∧ ((s.suPort n).replays ≤ 0xFFFFFFFF →
        ((s.countTags (some (n, k)) seals bs).suPort n).replays = min ((s.suPort n).replays + 4 * (s.badFlits (some (n, k)) seals bs).length) 0xFFFFFFFF)

/-! ## Start-up, retirement, management (R7, R8, R426 to R443) -/

/-- Resets (R8, R426, R443): the counts, the tasks and what was due are gone; memory outside the package, the flash and the fuses stay. A
start in which every stage passes ends in full function; without fuses the package stays in reset, and without PCIe it waits. Without a
readable retirement list the rows come from the tests alone (R430); hours and first bias of the lasers come from the firmware (R414). -/
def PackageResets : Prop :=
  ∀ s r i cause, (i = .packageReset cause r ∨ (∃ die, i = .thermalTrip die r ∧ cause = 2) ∨ (i = Instr.supplyTrip r ∧ cause = 3)) →
    ∃ t, Gives i s t ∧ t.dcc = 0 ∧ t.agenda = [] ∧ t.tasks = State.reset.tasks ∧ t.host = s.host ∧ t.modMem = s.modMem
      ∧ (∀ x ∈ s.pkg.flash, x ∈ t.pkg.flash) ∧ t.pkg.copies = s.pkg.copies ∧ t.pkg.fusedSvn = s.pkg.fusedSvn ∧ t.pkg.boot.rstcause = cause % 256
      ∧ (∀ n, t.stream n = {}) ∧ t.pkg.session = .none
      ∧ (r.fusesOk = false → t.pkg.boot.full = false ∧ t.pkg.boot.failed = 1 ∧ t.pkg.boot.stage = 0)
      ∧ (r.fusesOk = true → r.pcieOk = false → t.pkg.boot.full = false ∧ t.pkg.boot.failed = 2 ∧ t.pkg.started = some (cause, r))
      ∧ (r.fusesOk = true → r.pcieOk = true → r.badCores = [] → r.badCores4 = [] → r.badSeqs = [] → r.badEngines = [] → r.exchOk = true → r.frontOk = true →
          pickCopy s.pkg.fusedSvn s.pkg.copies ≠ none →
          let live := liveRows (if r.listOk then s.pkg.flash else [])
          live ≠ [] →
          t.pkg.boot.full = true ∧ t.pkg.boot.stage = 7 ∧ t.pkg.boot.failed = 0 ∧ t.pkg.boot.lrows = live.length ∧ t.pkg.flash = s.pkg.flash
            ∧ (∀ q : Fin 8, (t.rows[q].present = true ↔ q.1 < live.length) ∧ (q.1 < live.length → live[q.1]? = some t.rows[q].prow))
            ∧ ∀ n < 12, (t.laser n).hours = r.hours.getD n 0 % 2 ^ 32 ∧ (t.laser n).bias0 = r.bias0.getD n 0 % 65536)

/-- The state with one answer sent. -/
def Answers (i : Instr) (s : State) (code : Nat) (args : List Nat) : Prop := ∃ t, Gives i s t ∧ SameMachine { s with sent := s.sent ++ [.note code args] } t

/-- A start that waits for PCIe, and a reset asked for by the manager, which comes once stage 1 has passed (R426, R437). -/
def StartsGoOn : Prop :=
  ∀ s,
    (∀ ok, s.pkg.started = none → Gives (.pcieTrainingRetry ok) s s)
    ∧ (∀ x, s.pkg.started = some x → Gives (.pcieTrainingRetry false) s s)
    ∧ (∀ c r, s.pkg.started = some (c, r) → ∃ t, Gives (.pcieTrainingRetry true) s t ∧ t.pkg.started = none ∧ t.pkg.boot.rstcause = c % 256
        ∧ t.pkg.boot.failed / 2 % 2 = 1 ∧ 1 ≤ t.pkg.boot.stage ∧ t.host = s.host ∧ t.modMem = s.modMem)
    ∧ (∀ q k r, s.hostUp = false → Gives (.reset q k r) s s)
    ∧ (∀ q k r, s.hostUp = true → s.secured q = false → Answers (.reset q k r) s 0x7E [0x83, 6, q.seq, 0])
    ∧ (∀ q k r, s.hostUp = true → s.secured q = true → (k ≠ 0 ∨ vendorBad q = true) → Answers (.reset q k r) s 0x7E [0x83, 2, q.seq, 0])
    ∧ ∀ q r, s.hostUp = true → s.secured q = true → vendorBad q = false → ∃ t, Gives (.reset q 0 r) s t ∧ t.sent = s.sent ++ [.note 0x7E [0x83, 0, q.seq, 0]] ∧ t.dcc = 0 ∧ t.agenda = []
        ∧ t.tasks = State.reset.tasks ∧ t.pkg.boot.rstcause = 5 ∧ t.host = s.host

/-- Retirement (R430): a column that a write names is pending and is committed to the flash within 100 ms (125,000,000 cycles); an entry is
never removed. That a register may be written again once its entry is committed is log entry 99. -/
def Retirements : Prop :=
  ∀ row s,
    (∀ x : Word, x.getLsbD 60 = true → (x.extractLsb' 52 4).toNat ∈ [0, 1, 2, 3, 4, 5, 6, 7, 8, 15] → ((s.retReg row).pendv = false ∨ (s.retReg row).committed = true) →
      s.hostUp = true → ∃ t d, Gives (.retirementPending row x) s t ∧ OnlyPkg s t ∧ (t.retReg row).pendv = true ∧ (t.retReg row).pendcol = (x.extractLsb' 52 4).toNat
        ∧ (t.retReg row).pcol = (s.retReg row).pcol ∧ t.pkg.flash = s.pkg.flash ∧ (∀ n, n ≠ row → t.retReg n = s.retReg n)
        ∧ s.dcc ≤ d ∧ d ≤ s.dcc + 125000000 ∧ DueAtDcc t d (.ev (.retirementCommit row)))
    ∧ (∀ x : Word, s.hostUp = false → Gives (.retirementPending row x) s s)
    ∧ ((s.retReg row).pendv = false ∨ (s.retReg row).committed = true → Gives (.retirementCommit row) s s)
    ∧ ((s.retReg row).pendv = true → (s.retReg row).committed = false → ∃ t, Gives (.retirementCommit row) s t ∧ OnlyPkg s t
        ∧ (row, (s.retReg row).pendcol) ∈ t.pkg.flash ∧ (∀ x ∈ s.pkg.flash, x ∈ t.pkg.flash) ∧ (t.retReg row).committed = true ∧ (t.retReg row).pendv = true)

/-- The mailbox (R439) and the registers of BAR0 (R7, R371, R406, R427, R437): a virtual function reaches the streams assigned to it and
nothing else (R435, R436). -/
def RegistersAndMailbox : Prop :=
  ∀ s,
    (∀ (row : Fin 8) x q o, s.hostUp = false → Gives (.dbginWrite row x) s s ∧ Gives (.dbgoutRead row) s s ∧ Gives (.regread q o) s s)
    ∧ (∀ (row : Fin 8) x, (s.rows[row].dbgst.getLsbD 0 = true → Gives (.dbginWrite row x) s s)
      ∧ (s.hostUp = true → s.rows[row].dbgst.getLsbD 0 = false → ∃ t, Gives (.dbginWrite row x) s t ∧ t.rows[row] = { s.rows[row] with dbgin := x, dbgst := s.rows[row].dbgst ||| 1 }
          ∧ (∀ q, q ≠ row → t.rows[q] = s.rows[q]) ∧ t.cores = s.cores ∧ t.tasks = s.tasks ∧ t.pkg = s.pkg))
    ∧ (∀ row : Fin 8, s.hostUp = true → ∃ t, Gives (.dbgoutRead row) s t ∧ t.rows[row] = { s.rows[row] with dbgst := s.rows[row].dbgst &&& ~~~2 } ∧ t.cores = s.cores
        ∧ t.pkg = s.pkg ∧ t.sent = s.sent ++ [.note 0x51 [row.1, (if s.rows[row].dbgst.getLsbD 1 then s.rows[row].dbgout else 0).toNat]])
    ∧ (∀ fn o x, o % 8 ≠ 0 → Gives (.registerWrite (fn, o) x) s s)
    ∧ (∀ fn o x, s.pkg.boot.stage = 0 → Gives (.registerWrite (fn, o) x) s s)
    ∧ (∀ fn o x, fn ≠ 0 → (o < 0x10000 ∨ 0x11000 ≤ o ∨ s.pkg.boot.full = false ∨ s.sees fn ((o - 0x10000) / 0x40) = false) →
        Gives (.registerWrite (fn, o) x) s s ∧ s.readBy fn o = 0)
    ∧ (∀ fn, ∀ n < 64, ∀ j < 8, ∀ x, fn ≠ 0 → s.pkg.boot.full = true → s.sees fn n = true →
        s.readBy fn (0x10000 + 0x40 * n + 8 * j) = s.bar0 (0x10000 + 0x40 * n + 8 * j)
        ∧ ∀ t, Gives (.registerWrite (0, 0x10000 + 0x40 * n + 8 * j) x) s t ↔ Gives (.registerWrite (fn, 0x10000 + 0x40 * n + 8 * j) x) s t)
    ∧ (∀ fn, ∀ n < 64, fn ≠ 0 → (s.sees fn n = true ↔ (Sparse.get 0 s.pkg.sassign n).getLsbD 63 = true ∧ (Sparse.get 0 s.pkg.sassign n).toNat % 32 = fn))
    ∧ (1 ≤ s.pkg.boot.stage →
        (∀ x : Word, ∃ t, Gives (.registerWrite (0, 0) x) s t ∧ OnlyPkg s t ∧ t.pkg = { s.pkg with credit := (x.extractLsb' 0 8).toNat, walkTmo := (x.extractLsb' 8 32).toNat })
        ∧ (∀ n < 64, ∀ x : Word, ∃ t, Gives (.registerWrite (0, 0x10000 + 0x40 * n) x) s t ∧ OnlyPkg s t ∧ OtherStreams s t n ∧ t.stream n = { s.stream n with base := x.toNat })
        ∧ (∀ n < 64, ∀ x : Word, Gives (.registerWrite (0, 0x10010 + 0x40 * n) x) s s)
        ∧ (∀ n < 64, ∀ x : Word, ∃ t, Gives (.registerWrite (0, 0x10018 + 0x40 * n) x) s t ∧ Gives (.streamDoorbell n (x.toNat % 2 ^ 32)) s t)
        ∧ (s.pkg.boot.full = true → ∀ x : Word, ∃ t, Gives (.registerWrite (0, 0x301018) x) s t ∧ t.pkg = { s.pkg with nbSer := x } ∧ t.bar0 0x301018 = x)
        ∧ (s.pkg.boot.full = false → ∀ o, 0x100000 ≤ o → o < 0x400000 → ∀ x : Word, Gives (.registerWrite (0, o) x) s s))
    ∧ ∀ q o, (s.hostUp = true → (vendorBad q = true ∨ o % 8 ≠ 0 ∨ 0x800000 ≤ o) → Answers (.regread q o) s 0x7E [0x85, 2, q.seq, 0])
        ∧ (s.hostUp = true → vendorBad q = false → o % 8 = 0 → o < 0x800000 → Answers (.regread q o) s 0x7E [0x85, 0, q.seq, 0, (s.bar0 o).toNat])
        ∧ (s.pkg.boot.full = true → ∀ n < 64, o = 0x10010 + 0x40 * n → s.bar0 o = BitVec.ofNat 64 (s.stream n).head)

/-- Attestation and management (R432, R433, R436): requests of SPDM 1.2 and 1.3 are answered with what the rules name, others with
UnsupportedRequest; a session is secured by a key exchange on slot 0 and a FINISH that verifies. Before stage 1 has passed no message comes
(R426). -/
def Attestation : Prop :=
  (∀ s, s.hostUp = false → ∀ k b as c, ∀ i, i ∈ [.getVersion, .getCapabilities, .negotiateAlgorithms as, .getDigests, .getCertificate k, Instr.challenge k, .getMeasurements k b,
        .keyExchange k, .finish b, .endSession, .unsupportedRequest, .mctpControl c] → Gives i s s)
    ∧ (∀ s, s.hostUp = true → s.spdmVer = 0x12 ∨ s.spdmVer = 0x13 →
    Answers .getVersion s 0x40 [0x12, 0x13] ∧ Answers .getCapabilities s 0x41 [1, 2, 3, 4, 5, 6]
    ∧ (∀ as, (∀ a ∈ [1, 2, 3, 4, 5], a ∈ as) → Answers (.negotiateAlgorithms as) s 0x42 [1, 2, 3, 4, 5])
    ∧ (∀ as, (∃ a ∈ [1, 2, 3, 4, 5], a ∉ as) → Answers (.negotiateAlgorithms as) s 0x4F [])
    ∧ Answers .getDigests s 0x43 [0, (Config.digest 2).toNat]
    ∧ Answers (.getCertificate 0) s 0x44 certChain
    ∧ (∃ sig, Answers (.challenge 0) s 0x45 [(Config.digest 2).toNat, sig])
    ∧ (∀ k, k ≠ 0 → ∃ x, Answers (.getCertificate k) s 0x4E [x] ∧ Answers (.challenge k) s 0x4E [x])
    ∧ (∀ k, ∃ x, Answers (.mctpControl k) s 0x50 [k, x])
    ∧ (∀ i, 1 ≤ i → i ≤ 6 → ∀ xs, s.measurement i = some xs → Answers (.getMeasurements i false) s 0x46 (0 :: i :: xs.length :: xs)
        ∧ ∃ sig, Answers (.getMeasurements i true) s 0x46 (1 :: i :: xs.length :: xs ++ [sig]))
    ∧ (∃ t sig, Gives (.keyExchange 0) s t ∧ t.pkg = { s.pkg with session := .keyed } ∧ t.sent = s.sent ++ [.note 0x47 [(Config.digest 2).toNat, sig]] ∧ SameRows s t)
    ∧ (∀ k, k ≠ 0 → ∃ t, Gives (.keyExchange k) s t ∧ t.pkg = s.pkg ∧ SameRows s t)
    ∧ (s.pkg.session = .keyed → ∃ t, Gives (.finish true) s t ∧ t.pkg = { s.pkg with session := .secured } ∧ t.sent = s.sent ++ [.note 0x48 []] ∧ SameRows s t)
    ∧ (∀ ok, s.pkg.session ≠ .keyed ∨ ok = false → ∃ t, Gives (.finish ok) s t ∧ (t.pkg.session = .secured → s.pkg.session = .secured) ∧ SameRows s t)
    ∧ (s.pkg.session = .secured → ∃ t, Gives .endSession s t ∧ t.pkg = { s.pkg with session := .none } ∧ t.sent = s.sent ++ [.note 0x49 []] ∧ SameRows s t)
    ∧ (s.pkg.session ≠ .secured → ∃ t, Gives .endSession s t ∧ t.pkg = s.pkg ∧ SameRows s t))
    ∧ (∀ s, s.hostUp = true → s.spdmVer ≠ 0x12 → s.spdmVer ≠ 0x13 → ∀ k as b, ∀ i, i ∈ [.getCapabilities, .negotiateAlgorithms as, .getDigests, .getCertificate k, Instr.challenge k,
        .getMeasurements k b, .keyExchange k, .finish b, .endSession] → Answers i s 0x4F [])
    ∧ ∀ s, s.hostUp = true → (s.cur.args.length < 2 → Answers .unsupportedRequest s 0x4F [])
      ∧ ∀ cmd seq, s.cur.args = [cmd, seq] → cmd < 128 → Answers .unsupportedRequest s 0x7E [cmd + 0x80, 1, seq, 0]

/-- Firmware, the security version and link keys (R431, R434, R437): a copy is loaded in order beside the one that runs and is accepted only
where its own bytes verify, its security version not below the fused one; an offset out of order discards a copy in progress and no verified one; the
fused version never falls; a key goes into an empty slot. A message that should come in the secured session and did not is turned away first
(log entry 128), one with a status, a reserved byte or a length that its command does not have with status 2; before stage 1 has passed no
message comes (R426). -/
def FirmwareAndKeys : Prop :=
  (∀ q, vendorBad q = true ↔ (q.status ≠ 0 ∨ q.reserved ≠ 0 ∨ q.lenOff ≠ 0))
  ∧ (∀ s q, s.hostUp = false → (∀ ofs flags len data, Gives (.fwload q ofs flags len data) s s) ∧ (∀ v, Gives (.svncommit q v) s s)
      ∧ ∀ port slot dir key, Gives (.setkey q port slot dir key) s s)
  ∧ ∀ s q, s.hostUp = true →
    (∀ ofs flags len data, (vendorBad q = true ∨ 2 ≤ flags ∨ ofs % 64 ≠ 0 ∨ len < 64 ∨ 1024 < len ∨ len % 64 ≠ 0 ∨ data.length ≠ len) →
        Answers (.fwload q ofs flags len data) s 0x7E [0x81, 2, q.seq, 0])
    ∧ (∀ ofs flags data, vendorBad q = false → flags < 2 → ofs % 64 = 0 → 64 ≤ data.length → data.length ≤ 1024 → data.length % 64 = 0 →
        (ofs ≠ 0 → s.pkg.fwNext = none → Answers (.fwload q ofs flags data.length data) s 0x7E [0x81, 4, q.seq, 0])
        ∧ (∀ n, ofs ≠ 0 → s.pkg.fwNext = some n → n ≠ ofs → ∃ t, Gives (.fwload q ofs flags data.length data) s t ∧ t.spareCopy = {} ∧ t.pkg.fwNext = none ∧ t.runningCopy = s.runningCopy
            ∧ t.sent = s.sent ++ [.note 0x7E [0x81, 4, q.seq, 0]])
        ∧ ((ofs = 0 ∨ s.pkg.fwNext = some ofs) → ∃ t, Gives (.fwload q ofs flags data.length data) s t ∧ SameRows s t ∧ t.runningCopy = s.runningCopy ∧ t.pkg.fusedSvn = s.pkg.fusedSvn
            ∧ (∀ j, ∀ h : j < data.length, Memory.byte t.spareCopy.data (ofs + j) = data[j])
            ∧ (flags = 0 → t.pkg.fwNext = some (ofs + data.length) ∧ t.sent = s.sent ++ [.note 0x7E [0x81, 0, q.seq, 0]])
            ∧ (flags = 1 → verifies s.pkg.fusedSvn t.spareCopy = true → t.spareCopy.valid = true ∧ t.sent = s.sent ++ [.note 0x7E [0x81, 0, q.seq, 0]])
            ∧ (flags = 1 → verifies s.pkg.fusedSvn t.spareCopy = false → t.sent = s.sent ++ [.note 0x7E [0x81, 3, q.seq, 0]])))
    ∧ (∀ fused c, verifies fused c = true ↔ fwSigned c.data = true ∧ fused ≤ Config.fwSvn c.data)
    ∧ (∀ v, s.secured q = false → Answers (.svncommit q v) s 0x7E [0x82, 6, q.seq, 0])
    ∧ (∀ v, s.secured q = true → vendorBad q = true → Answers (.svncommit q v) s 0x7E [0x82, 2, q.seq, 0])
    ∧ (∀ v c, s.secured q = true → vendorBad q = false → s.runningCopy = some c →
        (Config.fwSvn c.data = v → s.pkg.fusedSvn < v → ∃ t, Gives (.svncommit q v) s t ∧ t.pkg = { s.pkg with fusedSvn := v } ∧ SameRows s t
          ∧ t.sent = s.sent ++ [.note 0x7E [0x82, 0, q.seq, 0, v]])
        ∧ (Config.fwSvn c.data ≠ v ∨ v ≤ s.pkg.fusedSvn → Answers (.svncommit q v) s 0x7E [0x82, 5, q.seq, 0, s.pkg.fusedSvn]))
    ∧ ∀ port slot dir key, (s.secured q = false → Answers (.setkey q port slot dir key) s 0x7E [0x84, 6, q.seq, 0])
      ∧ (s.secured q = true → (vendorBad q = true ∨ suOptical port = false ∨ 2 ≤ slot ∨ 2 ≤ dir ∨ key.length ≠ 32) → Answers (.setkey q port slot dir key) s 0x7E [0x84, 2, q.seq, 0])
      ∧ (s.secured q = true → vendorBad q = false → suOptical port = true → slot < 2 → dir < 2 → key.length = 32 →
          ((suEncrypted port = false ∨ Sparse.get false (s.suPort port).valid (slot + 2 * dir) = true) → Answers (.setkey q port slot dir key) s 0x7E [0x84, 5, q.seq, 0])
          ∧ (suEncrypted port = true → Sparse.get false (s.suPort port).valid (slot + 2 * dir) = false → ∃ t, Gives (.setkey q port slot dir key) s t ∧ OnlyPkg s t ∧ OtherSu s t port
              ∧ Sparse.get false (t.suPort port).valid (slot + 2 * dir) = true ∧ Sparse.get 0 (t.suPort port).keys (slot + 2 * dir) = BitVec.ofNat 256 (leNat key)
              ∧ ((s.suPort port).egress = [] → t.sent = s.sent ++ [.note 0x7E [0x84, 0, q.seq, 0]])))

/-! ## Results, stores and traps in their cycle (R4, R83, R137 to R142, R178 to R181, R191 to R194) -/

/-- Reads of the register files of a core other than a, p, v and m, its local store and its control registers. -/
def SameBeyondFiles (s t : State) : Prop :=
  t.core.tile = s.core.tile ∧ t.core.td = s.core.td ∧ t.core.g = s.core.g ∧ t.core.bt = s.core.bt ∧ t.core.w = s.core.w ∧ t.core.ls = s.core.ls
    ∧ t.core.bnd = s.core.bnd ∧ t.core.evcnt = s.core.evcnt ∧ t.core.seg = s.core.seg ∧ t.core.limit = s.core.limit ∧ t.core.trapf = s.core.trapf
    ∧ t.rows = s.rows ∧ t.tasks = s.tasks ∧ t.modMem = s.modMem ∧ t.host = s.host ∧ ∀ r c, (r, c) ≠ (s.cur.row, s.cur.core) → t.coreAt r c = s.coreAt r c

/-- A result takes its register in its cycle and changes no other (R4): one of an a, p, v or m register at its core, one of a k or q register at
its sequencer. A result that meets another for its register in the same cycle waits until both can be ordered (R83). -/
def ResultsAreWritten : Prop :=
  ∀ w s, w.job = none → w.bound = none → w.ev = {} → w.hitTrap = false → w.acc = false →
    (s.cur.rank < 21 → (∀ x ∈ w.writes, s.conflicts w.wid x = true) → ∃ t, Gives (.registerWriteBack w) s t ∧ SameMachine s t)
    ∧ ((21 ≤ s.cur.rank ∨ ∀ x ∈ w.writes, s.conflicts w.wid x = false) →
      (s.cur.part = .core →
        (∀ n x, w.writes = [.a n x] → ∃ t, Gives (.registerWriteBack w) s t ∧ SameBeyondFiles s t ∧ t.core.p = s.core.p ∧ t.core.v = s.core.v
          ∧ t.core.m = s.core.m ∧ ∀ k, t.core.ra k = if k = n ∧ n ≠ 0 then x else s.core.ra k)
        ∧ (∀ n x, w.writes = [.p n x] → ∃ t, Gives (.registerWriteBack w) s t ∧ SameBeyondFiles s t ∧ t.core.a = s.core.a ∧ t.core.v = s.core.v
          ∧ t.core.m = s.core.m ∧ ∀ k, t.core.rp k = if k = n ∧ n ≠ 7 then x else s.core.rp k)
        ∧ (∀ n (is : List Nat) (f : Nat → Lane), w.writes = [.v n (is.map fun i => (i, f i))] → (∀ i ∈ is, i < 128) → ∃ t, Gives (.registerWriteBack w) s t ∧ SameBeyondFiles s t
          ∧ t.core.a = s.core.a ∧ t.core.p = s.core.p ∧ t.core.m = s.core.m
          ∧ ∀ k, ∀ i < 128, t.core.rv k i = if k = n ∧ i ∈ is then f i else s.core.rv k i)
        ∧ (∀ n (is : List Nat) (f : Nat → Bool), w.writes = [.m n (is.map fun i => (i, f i))] → (∀ i ∈ is, i < 128) → ∃ t, Gives (.registerWriteBack w) s t ∧ SameBeyondFiles s t
          ∧ t.core.a = s.core.a ∧ t.core.p = s.core.p ∧ t.core.v = s.core.v
          ∧ ∀ k, ∀ i < 128, t.core.rm k i = if k = n ∧ n ≠ 7 ∧ i ∈ is then f i else s.core.rm k i))
      ∧ (s.cur.part = .seq →
        (∀ b n x, w.writes = [.k b n x] → ∃ t, Gives (.registerWriteBack w) s t ∧ t.cores = s.cores ∧ t.tasks = s.tasks ∧ t.row.fb = s.row.fb ∧ t.row.q = s.row.q
          ∧ t.row.qh = s.row.qh ∧ t.row.stack = s.row.stack ∧ (∀ r, r ≠ s.cur.row → t.rows[r] = s.rows[r])
          ∧ ∀ h k, t.row.rk h k = if k = n ∧ n ≠ 0 ∧ (h = b ∨ n < 64) then x else s.row.rk h k)
        ∧ (∀ b n x, w.writes = [.q b n x] → ∃ t, Gives (.registerWriteBack w) s t ∧ t.cores = s.cores ∧ t.tasks = s.tasks ∧ t.row.fb = s.row.fb ∧ t.row.k = s.row.k
          ∧ t.row.kh = s.row.kh ∧ t.row.stack = s.row.stack ∧ (∀ r, r ≠ s.cur.row → t.rows[r] = s.rows[r])
          ∧ ∀ h k, t.row.rq h k = if k = n ∧ n ≠ 7 ∧ h = b then x else s.row.rq h k)))

/-- The events of a result are counted with it (R131, R191), at every counter that is on, as many as its EVSEL selects, up to 2^32 − 1; a
bound register that clamps puts its bound in the place of a lane that lies outside, and one that traps raises code 9 (R224). -/
def EventsAndBounds : Prop :=
  (∀ w s, w.job = none → w.bound = none → w.hitTrap = false → s.cur.part = .core → w.writes = [] →
      (∀ n < 4, Sparse.get 0 s.core.evlim n = 0 ∧ (Sparse.get 0 s.core.evcnt n).toNat < 2 ^ 32) →
      ∃ t, Gives (.registerWriteBack w) s t ∧ t.core.ls = s.core.ls ∧ t.core.a = s.core.a ∧ t.rows = s.rows ∧ ∀ n < 4,
        let cfg := Sparse.get 0 s.core.evcfg n
        let sel := fun (b k : Nat) => if cfg.getLsbD b then k else 0
        let old := (Sparse.get 0 s.core.evcnt n).toNat
        (cfg.getLsbD 63 = true → (Sparse.get 0 t.core.evcnt n).toNat
          = min (old + (sel 50 w.ev.inv + sel 51 w.ev.ovf + sel 52 w.ev.unf + sel 53 w.ev.inx + sel 54 w.ev.bnd + sel 55 w.ev.psn)) 0xFFFFFFFF)
        ∧ (cfg.getLsbD 63 = false → Sparse.get 0 t.core.evcnt n = Sparse.get 0 s.core.evcnt n))
    ∧ ∀ w s d (is : List Nat) (f : Nat → Lane) (b : Word), w.job = none → w.late = false → w.bound = some d → w.ev = {} → w.acc = false → w.hitTrap = false → s.cur.part = .core →
      w.writes = [.v d (is.map fun i => (i, f i))] → (∀ i ∈ is, i < 128) → s.core.boundOf d = some b → b.getLsbD 59 = true → (∀ n < 4, (Sparse.get 0 s.core.evcfg n).getLsbD 63 = false) →
      let lo := (b.extractLsb' 0 16).signExtend 32
      let hi := (b.extractLsb' 16 16).signExtend 32
      (b.extractLsb' 60 2 = 0 → (∀ x, s.conflicts w.wid x = false) → ∃ t, Gives (.registerWriteBack w) s t ∧ ∀ i ∈ is,
          t.core.rv d i = if (f i).slt lo then lo else if hi.slt (f i) then hi else f i)
      ∧ (b.extractLsb' 60 2 = 1 → (∃ i ∈ is, (f i).slt lo = true ∨ hi.slt (f i) = true) → s.row.handler = false → s.task.stop = none → s.core.undoAt ≠ s.gcc →
          ∃ t st, Gives (.registerWriteBack w) s t ∧ t.task.stop = some st ∧ st.code = 9 ∧ t.core.v = s.core.v)

/-- A store takes its bytes in its cycle, little-endian, and no other byte changes (R6, R137, R138); a word written whole is clean, and one
written in part stays poisoned (R142). -/
def StoresTakeEffect : Prop :=
  (∀ ea n x s, let t := runCont (.lsWrite (bytesAt ea n x) []) s
      (∀ j < n, Memory.byte t.core.ls (ea + j) = BitVec.ofNat 8 (x / 256 ^ j)) ∧ (∀ a, (a < ea ∨ ea + n ≤ a) → Memory.byte t.core.ls a = Memory.byte s.core.ls a)
      ∧ (∀ a, (∀ j < n, (ea + j) / 8 ≠ a / 8) → t.core.cls a = s.core.cls a)
      ∧ (ea % 8 = 0 → n = 8 → t.core.cls ea = .clean)
      ∧ (0 < n → n < 8 → ea % 8 + n ≤ 8 → t.core.cls ea = if s.core.cls ea = .poisoned ∨ s.core.cls ea = .uncorrectable then .poisoned else .clean)
      ∧ t.core.a = s.core.a ∧ t.core.v = s.core.v ∧ t.core.tile = s.core.tile ∧ t.core.w = s.core.w ∧ t.rows = s.rows ∧ t.tasks = s.tasks
      ∧ t.modMem = s.modMem ∧ t.host = s.host ∧ ∀ r c, (r, c) ≠ (s.cur.row, s.cur.core) → t.coreAt r c = s.coreAt r c)
    ∧ ∀ ea n x (s : State), let t := s.storeNow (bytesAt ea n x)
      t.core = s.core ∧ SameMachine s t ∧ DueAtPlace t s.cur.row s.cur.core s.gcc (.cont (.lsWrite (bytesAt ea n x) []))

/-- Taking a trap at a word of a core (R178 to R181, R194): the record says code, detail and word, the row's front stops core c' two cycles for
each column of distance after it and the rest of the gang 64 cycles after it, the word is held, and no register changes. In a handler it
ends the task (R187). -/
def TrapsAreTaken : Prop :=
  ∀ code detail s, s.task.ending = none →
    let t := State.trapWord s code detail
    let c := s.cur.core
    (s.row.handler = true → ∃ rep, t.task.ending = some rep ∧ rep.code = 1 ∧ rep.trapc = code ∧ rep.detail = detail ∧ t.cores = s.cores)
    ∧ (s.row.handler = false → s.task.stop = none → s.core.undoAt ≠ s.gcc → s.row.undoAt ≠ s.gcc → s.cur.work ≠ .ev .singleStepTrap →
      t.core.trapf = BitVec.ofNat 64 (code % 256 * 2 ^ 56 + detail % 16 * 2 ^ 52 + s.wordAddr % 2 ^ 18 * 2 ^ 30) ∧ t.core.trapped = true
      ∧ (s.row.front = none → (t.row.trapc.extractLsb' 0 8).toNat = code % 256 ∧ (t.row.trapc.extractLsb' 8 8).toNat = c.1 ∧ t.row.trapc.getLsbD 30 = true)
      ∧ (∃ st, t.task.stop = some st ∧ st.code = code ∧ st.primary = ⟨s.gcc, s.task.rank, s.row.rowid, 1 + c.1⟩)
      ∧ (∀ k : Fin 8, (t.coreAt s.cur.row k).sigma = lower (s.coreAt s.cur.row k).sigma (s.gcc + 2 * ((k.1 - c.1) + (c.1 - k.1)))
          ∧ (t.coreAt s.cur.row k).a = (s.coreAt s.cur.row k).a ∧ (t.coreAt s.cur.row k).v = (s.coreAt s.cur.row k).v
          ∧ (t.coreAt s.cur.row k).ls = (s.coreAt s.cur.row k).ls ∧ (t.coreAt s.cur.row k).tile = (s.coreAt s.cur.row k).tile)
      ∧ t.row.sigma = lower s.row.sigma (s.gcc + 2 * c.1) ∧ t.row.k = s.row.k ∧ t.row.fb = s.row.fb
      ∧ (∀ r ∈ s.rowsOf s.cur.slot, r ≠ s.cur.row → t.rows[r].sigma = lower s.rows[r].sigma (s.gcc + 64)
          ∧ ∀ k : Fin 8, (t.coreAt r k).sigma = lower (s.coreAt r k).sigma (s.gcc + 64))
      ∧ s.cur ∈ t.agenda ∧ DueAtDcc t (s.dcc + s.task.llead) (.cont .freezeSched) ∧ t.modMem = s.modMem ∧ t.host = s.host ∧ t.pkg = s.pkg)

/-! ## The step and its invariants -/

/-- NOP in every column, and the vector hint, which acts as NOP: no effect, whether enabled or not (R75, R76). -/
def WordsWithoutEffect : Prop :=
  ∀ s, (∀ c h, Gives (.nop c h) s s) ∧ ∀ h n v, Gives (.vhint h n v) s s

/-- The step carries out the first work that is ready in the order of the cycle, and only that (R4, R22, R28): a word is read from the row's SRAM,
decoded in the column of its clause, and run. -/
def StepRunsWhatIsDue : Prop :=
  (∀ (s : State) e rest, s.pick = some (e, rest) → (e :: rest).Perm s.agenda ∧ s.ready e = true ∧ ∀ f ∈ s.agenda, s.ready f = true → f.before e = false)
    ∧ (∀ s : State, s.pick = none → ∀ f ∈ s.agenda, s.ready f = false)
    ∧ ∀ (s : State) e rest, s.pick = some (e, rest) →
      let u := { s with agenda := rest, cur := e }
      (∀ i, e.work = .ev i → step s = exec i u)
      ∧ (∀ c, e.work = .cont c → step s = .next (runCont c u))
      ∧ ∀ id k c n col i w, e.work = .word id k → u.word? = some (c, n, col, w) → encode i = some (col, w) → WellFormed i → (∀ h f, i ≠ .mcmdCopy h f) →
          (∀ h f, i ≠ .mcmdFill h f) → (∀ h f, i ≠ .mcmdReduce h f) →
          ∀ t, exec i (u.beforeWord c n col w) = .next t → step s = .next (t.afterWord c n col e)

/-- Before its word issues, a core's registers and memory are as they were (R23, R189). -/
def IssueKeepsRegisters : Prop :=
  ∀ (s : State) c n col w, let t := s.beforeWord c n col w
    { t.core with nIssued := s.core.nIssued } = s.core ∧ t.row.k = s.row.k ∧ t.row.q = s.row.q ∧ t.row.fb = s.row.fb ∧ t.tasks = s.tasks ∧ t.modMem = s.modMem
      ∧ t.host = s.host ∧ t.pkg = s.pkg

/-- With nothing due, a domain cycle passes (R25): every running gang counts it, a held gang does not, a slack hold counts it in SLKR. -/
def DomainCyclesPass : Prop :=
  ∀ s, s.pick = none → ∃ t, step s = .next t ∧ t.dcc = s.dcc + 1 ∧ t.rows = s.rows ∧ t.cores = s.cores ∧ t.modMem = s.modMem ∧ t.host = s.host ∧ t.pkg = s.pkg
    ∧ t.agenda = s.agenda ∧ ∀ k : Slot,
      ((s.taskAt k).live = false → (t.taskAt k) = (s.taskAt k))
      ∧ ((s.taskAt k).live = true → (s.taskAt k).slackHold = true → (t.taskAt k) = { (s.taskAt k) with slkr := (s.taskAt k).slkr + 1 })
      ∧ ((s.taskAt k).live = true → (s.taskAt k).slackHold = false → (s.taskAt k).holding ≠ none → (t.taskAt k) = (s.taskAt k))
      ∧ ((s.taskAt k).live = true → (s.taskAt k).slackHold = false → (s.taskAt k).holding = none → (t.taskAt k) = { (s.taskAt k) with gcc := (s.taskAt k).gcc + 1 })

/-- No step is refused, and only a word whose clause or text has gone is a fault. -/
def StepsAreNotRefused : Prop :=
  (∀ i s, Completes (exec i s)) ∧ (∀ s x, step s ≠ .refused x)
    ∧ ∀ s x, step s = .fault x → ∃ e rest id k, s.pick = some (e, rest) ∧ e.work = .word id k

/-- The machine after reset (R8): counts at zero, no task, nothing due, the registers of every core and row at the values that the reset assumptions
of the log name, and memory with nothing listed. -/
def ResetState : Prop :=
  let s := State.reset
  s.dcc = 0 ∧ s.agenda = [] ∧ s.modMem = [] ∧ s.host = [] ∧ (∀ k : Slot, (s.taskAt k).live = false ∧ (s.taskAt k).gcc = 0)
    ∧ (∀ r : Fin 8, s.rows[r].task = none ∧ s.rows[r].prow = r.1 ∧ ∀ h n, n ≠ 7 → s.rows[r].rk h n = 0 ∧ s.rows[r].rq h n = false)
    ∧ ∀ r c : Fin 8, ∀ n, (s.coreAt r c).ra n = 0 ∧ (s.coreAt r c).pcol = c.1 ∧ (s.coreAt r c).seg = 128 ∧ (n ≠ 7 → (s.coreAt r c).rp n = false)
        ∧ (s.coreAt r c).rw n = {} ∧ Memory.byte (s.coreAt r c).ls n = 0 ∧ ∀ i, (s.coreAt r c).rv n i = 0 ∧ (s.coreAt r c).rt n i = 0

/-- The memories have their canonical form after reset. -/
def ResetMemoryForm : Prop := MemoryForm State.reset

/-- Every step keeps the memories in their canonical form. -/
def StepsKeepMemoryForm : Prop := ∀ s t, MemoryForm s → step s = .next t → MemoryForm t

/-- Registers hold what was written last; a0, k0, p7, q7 and m7 read as constants and discard writes (R159, R187, R196, R219). -/
def RegisterFiles : Prop :=
  (∀ (c : Core) n x k, (c.wa n x).ra k = if k = n ∧ n ≠ 0 then x else c.ra k)
    ∧ (∀ (c : Core) n x k, (c.wp n x).rp k = if k = n ∧ n ≠ 7 then x else c.rp k)
    ∧ (∀ (c : Core) n i x k j, i < 128 → j < 128 → (c.wv n [(i, x)]).rv k j = if k = n ∧ j = i then x else c.rv k j)
    ∧ (∀ (c : Core) n i x k j, i < 128 → j < 128 → (c.wm n [(i, x)]).rm k j = if k = n ∧ j = i ∧ n ≠ 7 then x else c.rm k j)
    ∧ (∀ (r : Row) b n x h k, (r.wk b n x).rk h k = if k = n ∧ n ≠ 0 ∧ (h = b ∨ n < 64) then x else r.rk h k)
    ∧ (∀ (r : Row) b n x h k, (r.wq b n x).rq h k = if k = n ∧ n ≠ 7 ∧ h = b then x else r.rq h k)
    ∧ ∀ (c : Core) (r : Row) h i, c.ra 0 = 0 ∧ c.rp 7 = true ∧ c.rm 7 i = true ∧ r.rk h 0 = 0 ∧ r.rq h 7 = true

/-- Memory (R6): a read gives what was written last, multi-byte data lies little-endian, every write keeps the canonical form, and memories of
that form that read alike are equal. -/
def MemoryReadsBack : Prop :=
  (∀ m a b x, Memory.byte (Memory.put m a x) b = if b = a then x else Memory.byte m b)
    ∧ (∀ m a bs b, Memory.byte (Memory.putBytes m a bs) b = if a ≤ b then bs.getD (b - a) (Memory.byte m b) else Memory.byte m b)
    ∧ (∀ m a n x, Memory.nat (Memory.putBytes m a (leBytes n x)) a n = x % 256 ^ n)
    ∧ (∀ m a n, Memory.nat m a n = leNat (Memory.bytes m a n))
    ∧ (∀ m a x, Memory.wf m = true → Memory.wf (Memory.put m a x) = true)
    ∧ (∀ m a bs, Memory.wf m = true → Memory.wf (Memory.putBytes m a bs) = true)
    ∧ (∀ (m : Memory) xs, Memory.wf m = true → Memory.wf (Sparse.setMany 0 m xs) = true)
    ∧ ∀ m n, Memory.wf m = true → Memory.wf n = true → (∀ a, Memory.byte m a = Memory.byte n a) → m = n

/-- A result that a word puts on the agenda, a store and the use of the core port change no register and no byte in the cycle of the word
(R4, R138, R197): the result is due its latency later at its core or its sequencer, and everything else that was due stays. -/
def ResultsAreScheduled : Prop :=
  ∀ (s : State) lat ws,
    (∀ ev bound, SameMachine s (s.writeBack lat ws ev bound) ∧ (s.writeBack lat ws ev bound).cur = s.cur
      ∧ (∀ e ∈ s.agenda, e ∈ (s.writeBack lat ws ev bound).agenda)
      ∧ DueAtPlace (s.writeBack lat ws ev bound) s.cur.row s.cur.core (s.gcc + lat)
          (.ev (.registerWriteBack { wid := s.next, writes := ws, ev := ev, bound := bound, nth := s.core.nIssued - 1 })))
    ∧ SameMachine s (s.writeSeq lat ws) ∧ (∀ e ∈ s.agenda, e ∈ (s.writeSeq lat ws).agenda)
    ∧ DueAt (s.writeSeq lat ws) (s.gcc + lat) (.ev (.registerWriteBack { wid := s.next, writes := ws }))
    ∧ ∀ words, OnlySchedules s (s.usePort words) ∧ (s.usePort words).agenda = s.agenda

end Sys2Proof.Claims

/-! ## The statements -/

/-- O1. For every well-formed instruction of every column, decoding its encoded word in its column gives that instruction back, with every operand at
every value the encoding admits. MCMD_FILL and MCMD_REDUCE share the opcode of the module command and read back as the command. -/
def Obligations.EncodedInstructionsDecode : Prop := Claims.EncodedWordsDecode

/-- O2. Whatever word a column decodes, the instruction it gives is well formed and encodes to that very word in that column: no bit of a word is dropped
and no ill-formed word is taken. -/
def Obligations.DecodedWordsEncodeBack : Prop := Claims.DecodedWordsEncode ∧ Claims.DecodingRefusesIllFormedWords

/-- O3. Every word that a column refuses is refused with detail 0, 1, 2 or 3; detail 0 is given only when no instruction of that column has the opcode of
the word. -/
def Obligations.RefusedWordsHaveADetail : Prop := Claims.RefusedWordsNameTheirDetail

/-- O4. Packing and unpacking a clause header are inverse to each other, and a header sealed with its check bits never fails the check, with class, start
and count unchanged. -/
def Obligations.HeadersHoldTheirFields : Prop := Claims.ClauseHeaderFields

/-- O5. Words of columns A, S and V, written bit by bit from the encoding tables and worked examples, decode to the instructions they stand for. -/
def Obligations.WordsWrittenOutDecode : Prop := Claims.WordsOfTheTables

/-- O6. An enabled ADD, SUB, MUL, MULH, MULHU, DIV, DIVU, REM, REMU, AND, OR, XOR, ANDN, SHL, SHR, SRA, ROTL, MIN, MAX, MINU or MAXU gives a next state
that differs only by its result, due its latency later, on 64-bit and on 32-bit operands; DIV, DIVU, REM and REMU give the quotient and remainder of
the rule for every operand and never trap. ADD, SUB and MUL with saturation give the clamped exact result, in column A and in column S. -/
def Obligations.IntegerWordsGiveTheirResults : Prop := Claims.IntegerWideResults ∧ Claims.IntegerNarrowResults ∧ Claims.IntegerSaturation

/-- O7. The column-S forms of the integer words give, when enabled, a next state that differs only by the result of the column-A word on k registers, due
the same latency later. -/
def Obligations.UniformWordsGiveColumnAResults : Prop := Claims.UniformResults

/-- O8. Enabled MOV, CLZ, POPC, BREV, BFX, BFI and ADDSH, CMP under every condition and type, PLOG and SEL, MOVI, MOVHI and ADDI, in column A and in
column S, and MOVK, give a next state that differs only by their result, due one cycle later: MOVI the immediate extended by its sign or by zeros,
MOVHI the immediate above the low half of its source, CLZ, POPC and BREV at the width of their type, BFX and BFI on the bits that their fields name.
-/
def Obligations.FieldsPredicatesAndImmediates : Prop := Claims.FieldResults ∧ Claims.PredicateResults ∧ Claims.ImmediateResults

/-- O9. An enabled LD, ST, AMO or ACAS whose address is in range, aligned, free of a bank clash and clean completes: LD puts the extended data at its
register five cycles on, ST stores the low bytes of its register at the address, AMO and ACAS store what their operation gives at the address and
return the old value eight cycles on. A write to a0 is discarded. Out of range, unaligned and clashing accesses trap with 0x0F and details 0, 1 and 2
in that order, and a read of a poisoned word consumes poison, with no access made. -/
def Obligations.ScalarAccessesToTheLocalStore : Prop := Claims.ScalarMemoryResults ∧ Claims.ScalarMemoryTraps ∧ (∀ (c : Core) x, c.wa 0 x = c)

/-- O10. A word of columns A, V, M, F or X whose predicate reads false gives the same state, but that MTLD and MTST claim the core's port; so does an
S word that neither changes the frame nor reports. A frame-changing S word that is not enabled goes on behind its clause. NOP in every column and
VHINT give the same state, enabled or not. A branch target below word 0 is read as one beyond the stream (the model's reading, log entry 56). -/
def Obligations.WordsThatChangeNothing : Prop := Claims.DisabledWordsDoNothing ∧ Claims.WordsWithoutEffect

/-- O11. Enabled BR, BRC, CALL, RET, FBSET, FBABS and LOOP complete: the dispatcher resumes at the target two cycles on, the frame base and the return
stack take the values of the rules, LOOP counts its register down, and nothing else changes. CALL on a full return stack and RET on an empty one trap
with 0x01 and details 9 and 0xA. A target below word 0 is read as one beyond the stream (log entry 56). -/
def Obligations.FramesBranchesAndLoops : Prop := Claims.FrameWords ∧ Claims.LoopRepeats ∧ Claims.ReturnStackTraps

/-- O12. HALT of a task ends the fetching of its row, discards clauses that start later and keeps every register; in a handler it ends the handler. TRAP
raises 0x0C in the cycle after its own; BRK raises 0x0D when breakpoints are enabled and does nothing otherwise. That the dispatcher goes on behind
the clause of a TRAP is the model's reading (log entry 57). -/
def Obligations.StreamsEndAndTrapWords : Prop := Claims.HaltEndsTheStream ∧ Claims.TrapAndBreakpoint

/-- O13. SLACK, GALIGN and PREPT complete: each reports its number and cycle to the hold master in the same cycle (log entry 38). SLACK restarts
the starvation count and begins a slack hold when it has a budget; GALIGN opens the frame until its answer, and one that is not enabled lets the
dispatcher go on behind its clause two cycles later; PREPT stops the row behind its cycle when a request is pending and no plan run is active;
whether one is active on another member is a free value (log entry 123). In a handler SLACK and PREPT do nothing. -/
def Obligations.SynchronisationWordsReport : Prop := Claims.SlackReports ∧ Claims.GalignReports ∧ Claims.PreptStopsForAPreemption

/-- O14. IDEMB keeps the uniform state of its row with its tag and entry and IDEME closes the region; DCCRD reads both counts; CRD and CWR read and write
row registers in the sequencer and core registers at their core in its cycle; QVOTE samples the predicate of every core in turn and returns any, all
or the eight bits 20 cycles after the word. -/
def Obligations.RegionsCountsAndControlRegisters : Prop := Claims.RegionsOpenAndClose ∧ Claims.SequencerReadsAndWrites ∧ Claims.CoreReadsReturnToTheSequencer

/-- O15. Enabled VIADD, VISUB, VIMUL, VIMULH, VIMIN, VIMAX, VIABS, shifts, logic, VCLZ and VPOPC give a next state that differs only by one result per
enabled lane, four cycles on, wrapped or saturated as the word says; VICMP gives one mask bit per enabled lane under every condition. -/
def Obligations.VectorIntegerWords : Prop := Claims.VectorIntegerResults

/-- O16. Enabled floating-point words give, lane by lane, the value and the events of the number chapter's operation, with their latency, and
nothing else changes. A NaN operand, whichever it is, gives the canonical NaN 0x7FC00000, and only a signalling NaN raises the invalid event. -/
def Obligations.VectorFloatingPointWords : Prop := Claims.VectorFloatResults ∧ Claims.NanOperandsGiveTheCanonicalNan

/-- O17. Enabled VMOV, VSEL, VBCA, VSHF, VQX, VSLD, VEXT, VPART, VIOTA, VSPLAT, VVOTE, VMPOP, MLOG, MMOVP, VCVT, VMXD and VBQ give a next state that
differs only by the lanes, bits or register of their rules, due their latency later. -/
def Obligations.VectorMovesMasksAndConversions : Prop := Claims.VectorMoves ∧ Claims.VotesAndMasks ∧ Claims.VectorConversions

/-- O18. An integer VRED gives every enabled lane the fold of its segment's enabled lanes, whatever the order of the tree, and VSCAN the fold of the lanes
up to, or below, each lane, with the identity of the operation; FP32 reductions follow the tree and scans the lane order, and events count once for
each segment. -/
def Obligations.ReductionsAndScans : Prop := Claims.IntegerReductions ∧ Claims.FloatReductions

/-- O19. Vector loads and stores that pass the checks load, or store, exactly the bytes of the enabled lanes at the addresses of the word, under its
swizzle and element type, and change nothing else; an access that fails a check traps with 0x0F and its detail, with no access made. -/
def Obligations.VectorAccessesToTheLocalStore : Prop := Claims.VectorMemoryResults ∧ Claims.VectorMemoryTraps

/-- O20. MTD takes a valid descriptor and traps on an invalid one; MTZ clears a tile; MTV, MVT, MTT and MSCL give the moved, transposed or scaled
bytes of their rules, due their latency later, and trap with 0x01 and detail 0xB when the descriptors do not fit, and with 0x08 where a tile word
that they read is uncorrectable; corrected tile words are counted. Which tile words a word reads is the model's reading (log entry 165). -/
def Obligations.TileDescriptorsAndMoves : Prop := Claims.TileDescriptors ∧ Claims.TileMoves

/-- O21. MTLD reads, and MTST stores, one group of eight tile rows a cycle at exactly the addresses of the shape, stride and swizzle, converted as
the word says; a group of MTLD clears what no row fills. Nothing but the agenda and the port record changes at issue, and a word that fails a check
traps, an MTST of an uncorrectable tile word with 0x08. That the bound register of an MTST is the one of its issue, and which tile words it reads,
are the model's readings (log entries 19 and 165). -/
def Obligations.TileLoadsAndStores : Prop := Claims.TileLoads ∧ Claims.TileStores ∧ Claims.TileGroups

/-- O22. MMA and MMAX form the product of every row of A with every row of B, group by group with its scales, and no other; the accumulator read
twelve cycles on is summed with it and exactly these outputs are written with the last cycle of the job. Operands whose descriptors do not fit trap
with 0x01, and an uncorrectable tile word among those read with 0x08; which words those are is the model's reading (log entry 165). -/
def Obligations.MatrixProducts : Prop := Claims.Products ∧ Claims.AccumulatorReads

/-- O23. For 8-bit integer operands of any length and signs, the accumulation of the groups of 32 products gives the accumulator plus the exact sum of all
products, modulo 2^32, and raises no event. -/
def Obligations.IntegerProductsAreExactSums : Prop := Claims.IntegerProductsAreExact

/-- O24. A stream begins at its head with its own tile, or with the header that has just arrived, and traps when there is none or nowhere to
forward to, and where a tile word that it reads is uncorrectable; every slice in its turn is kept, forwarded two cycles on, and written by MFWD or
multiplied by MMAS at its end. That MFWD writes a slice after the reads of its cycle t + 1 + i, and which tile words are read, are the model's
readings (log entries 105 and 165). -/
def Obligations.MatrixStreamsForward : Prop := Claims.StreamsBegin ∧ Claims.StreamCycles

/-- O25. Entries sent reach the neighbour two cycles on and hold a place there; receives take the oldest entries and free their places four cycles
on; a SENDT reads its pieces a cycle apart and sends each two cycles on; closed ports, full buffers, clashes of the engine port and missing entries
trap; arriving bytes and poison go where the rules say, and nothing else changes, neither a register file nor a tile nor another core. What a RECVT
does about an entry that a stop has kept back is the model's choice (log entry 157). -/
def Obligations.MeshWords : Prop := Claims.MeshSendAndReceive ∧ Claims.MeshTransfers ∧ Claims.MeshPieces ∧ Claims.MeshArrivals

/-- O26. FACC sets a put window or traps; FPUT that passes its checks reads its source from its own cycle and is delivered after the latency of its route;
a piece that finds room is mapped by the window into the local store and counts at its barrier, one that does not is lost and says so; the ingress
buffer drains its oldest words. -/
def Obligations.FabricPuts : Prop := Claims.PutWords ∧ Claims.PutPieces ∧ Claims.IngressDrains

/-- O27. SHP loads a shape of the image and edits one field of a shape; the edited field reads back as written and every other field as before; a value
out of range traps with 0x07 and detail 5. -/
def Obligations.ShapesOfTensors : Prop := Claims.ShapeWords

/-- O28. A transfer that passes its checks charges its bytes, takes its lanes and has its snapshot, landings, source reads and write completion at the
fixed cycles of the rules; a transfer of no bytes does nothing; a failed check traps with its code and detail. No register and no byte changes at
issue. -/
def Obligations.FarMemoryWords : Prop := Claims.FetchWords ∧ Claims.StoreWords

/-- O29. Barriers are armed, checked and read as the rules say, a failed check traps with 0x04 and its barrier, the allowance is cut at 0x400000
and to a multiple of 64, and a fence arms its barrier with one byte and completes at the least cycle C that the rules allow, once everything it
covers has taken effect; the byte counts at C - 1, or, where C is the cycle of the fence itself, in that cycle (the model's reading, log entry 35).
What other members issued is a free value (log entry 7). -/
def Obligations.BarriersAndFences : Prop := Claims.BarrierWords ∧ Claims.Fences

/-- O30. A landing cycle writes exactly the bytes of its cycle at their swizzled places, releases them, counts them at the barrier, and is followed
by the next landing or ends the transfer; no other byte and no register changes. Where they are enabled and no check fails, WARM arms its barrier
with the sum of its operands, WCHK changes nothing, or in test mode writes its predicate a cycle on, WALW, WRD and WCCRD put the result of their
rules a cycle on, MFENCE arms its barrier with one byte and its completion counts it. -/
def Obligations.LandingsOfTransfers : Prop := Claims.Landings ∧ Claims.BarrierWordsTakeEffect

/-- O31. Module words that pass their checks charge, take their lanes and have their module work at the fixed cycles of the rules; an empty table does
nothing; a failed check or block traps. No register and no byte changes at issue. -/
def Obligations.ModuleTableAndCommandWords : Prop := Claims.TableWords ∧ Claims.ModuleCommands

/-- O32. Every transfer meets, in its cycle, every module that it still waits for; a module whose schedule is in time, with a port toward it, writes
exactly the bytes of a store at their places, takes the bytes of a snapshot as they stand, and a stalled schedule takes the entry in. -/
def Obligations.WorkAtTheModules : Prop := Claims.TransfersMeetTheirModules ∧ Claims.ModulesServe

/-- O33. A completed command releases its charge and counts a byte; a spared row and a lost module change no register and no memory and go on
record, and a spared row takes one of the pool of its stack, which the model takes to be the DRAM row modulo 8 (the model's choice, log entries 51
and 52); a schedule stalls at its cycle, each thing it misses asks for its own hold (log entry 129), and its drain stands where something is
missing or the gang's schedules are frozen, goes on by a GCC each domain cycle and ends when it has come to the gang's cycle. -/
def Obligations.ModuleEventsAndStalls : Prop := Claims.ModuleEvents ∧ Claims.SchedulesStallAndDrain

/-- O34. CBASE writes a base register, CSTAT reads the run record of a plan, and CRUN starts a run of a resident plan at its cycle with every entry at its
offset and the completion after its end, or traps with 0x12 and its detail. That a CRUN is refused for clashes among its own entries is the model's
reading (log entry 49). -/
def Obligations.CollectiveWords : Prop := Claims.CollectiveRegisters ∧ Claims.RunsStart

/-- O35. RECV arms its counter and binds its tag, SEND, REDUCE, FORWARD and DELIVER check their counters and carry their beat on; a landing beat takes
its place among the landings of its cycle, is written at its tag's address and counted, and is a fault where nothing awaits it; a run ends with its
record; the starts of other members are kept, and a run whose pairing is not complete at its judgement does not begin; what passes through a die goes
on 32 cycles later unless its port holds it back, poisoned where a tag fails (log entry 138). -/
def Obligations.CollectiveRuns : Prop := Claims.ChunkOperations ∧ Claims.RunsGoOn

/-- O36. A request for a hold is announced, lengthens a hold, or stops the gang; a hold begins at its cycle, adds 256 to HOLDS for each quantum, and
ends after its quanta, one of a debugger at a whole quantum when the monitor ends it; slack is armed from L_lead cycles on at the earliest (log entry
109) and slack holds begin and end; starvation traps. GCC, registers and memory do not change in a hold. How a debugger's hold and a request meet is the
model's reading (log entry 36). -/
def Obligations.GangHolds : Prop := Claims.HoldRequests ∧ Claims.HoldsRunAndEnd

/-- O37. A report marks a transfer absent, an arrival clears the mark and lets a schedule that lacked nothing else drain, and a package transfer still
absent at its last call asks for a hold at its cycle, and asks again at once on a new bound. -/
def Obligations.LatenessOfTransfers : Prop := Claims.Lateness

/-- O38. Every report is kept and compared; one of a SLACK, PREPT or GALIGN that differs, or does not come in time, stops the gang with 0x0B; an
alignment gives every waiting row the same frame base and its own distance to it. The model's readings: reports are kept less SHIFTC and reach the
hold master in their cycle (log entries 38 and 41), the time of a GALIGN of scope 0 runs for the rows of one member (log entry 40), and every
member keeps the open regions of rows of other members, to judge a discard as the hold master does (log entry 45). -/
def Obligations.ReportsAndAlignment : Prop := Claims.Reports ∧ Claims.Alignment

/-- O39. A stop lowers the stop cycle of every core and sequencer of the task; each freezes at that cycle, records why, a stop that only the front
brings with code 0 and the stop word, and keeps its registers, tiles and local store. -/
def Obligations.GangStops : Prop := Claims.StopsReachEveryCore

/-- O40. A handler begins at TVEC with the present cycle as its frame base; a resume moves every frame base by a multiple of 256, from the gang's
resume GCC and least stop GCC, and keeps every register, and a hold that stands ends first; a region restart takes every row back to its snapshot,
ends the task where a row has no open region, and does not come about where another member does not allow it. The values of other members come with
the event (log entry 45). -/
def Obligations.HandlersResumesAndRestarts : Prop := Claims.HandlersBegin ∧ Claims.GangsResume ∧ Claims.RegionsRestart

/-- O41. The dispatcher reads four words a cycle and delivers a clause four cycles after its last word; a read that fails, and a pad clause that
does, traps four cycles on in TRAPFS. A clause that passes its checks puts each word at its offset and goes on in the next core two cycles later;
one that fails traps with 1, 2, 3 or 4, one of column S in TRAPFS; in handler mode an S clause starts and another ends the task, with a code that
the specification does not name (log entry 6); an event counter begins anew at its window. That a faulty clause of class 110 is recorded at core 0
is the model's reading (log entry 17). -/
def Obligations.DispatcherAndClauses : Prop := Claims.DispatcherReads ∧ Claims.ClausesStart ∧ Claims.CounterWindows

/-- O42. A register reads what was written last, and a0, k0, p7, q7 and m7 read as constants and discard writes. A result that a word puts on the agenda
changes no register, no memory and no other work in the cycle of the word; in its own cycle it takes its register and no other. A result that meets
another for its register in its cycle waits behind the words of the cycle (log entry 14). -/
def Obligations.RegistersHoldWhatIsWritten : Prop := Claims.RegisterFiles ∧ Claims.ResultsAreScheduled ∧ Claims.ResultsAreWritten

/-- O43. At every counter that is on, the events that its selection names are added, up to 2^32 - 1; a bound register that clamps puts its bound in place
of a lane outside it, and one that traps raises code 9 with the registers unchanged. -/
def Obligations.EventsAndBoundRegisters : Prop := Claims.EventsAndBounds

/-- O44. A memory reads what was written last, multi-byte data lies little-endian, every write keeps the canonical form, and equal contents are equal
data. A store takes exactly its bytes in its cycle, the class of a word follows its bytes, and every other byte, register and task is as before. -/
def Obligations.MemoriesReadBack : Prop := Claims.MemoryReadsBack ∧ Claims.StoresTakeEffect

/-- O45. A trap at a word of a core writes its code, detail and word address to the record of the core, sets the stop cycles of its row by distance and of
the rest of the gang 64 cycles on, holds the word, and changes no register; in a handler it ends the task. -/
def Obligations.TrapsTakenAtWords : Prop := Claims.TrapsAreTaken

/-- O46. Streams are enabled, rung and cleared as the rules say, once stage 1 has passed and, to be enabled, in full function; a packet in order is
executed and a malformed one halts the stream with 0x10; PNOP, MAPX and QFENCE complete; semaphores wait, time out, write, add and halt as the
rules say. Polling intervals, the code of a poisoned semaphore and the cycle of the next packet are the model's, and the wait for a memory port
(log entries 23, 66, 67, 76 and 137). -/
def Obligations.StreamsAndPackets : Prop := Claims.StreamRegisters ∧ Claims.PacketsAreRead ∧ Claims.PlainPackets ∧ Claims.Semaphores

/-- O47. PLANLD, HCOPY, LAUNCH and RESUME ask for the engine; a level with full credit goes first, then the lowest level, and lower levels earn a
credit. A copy moves every byte of its source, between host and modules, and no other byte; a poisoned sector goes on poisoned or as zeros and
halts the stream in the end, a module that is away before anything is written. A PLANLD installs its plan or reports 0x27, 0x18 or 0x1A; a RESUME
reports the first check that fails or is put at its launch cycle; a job that no memory port can serve waits. The model's choices: the interval at
which a RESUME looks at its image again and the wait for a port (log entries 66 and 137), the cycle of a copy, which is that of its grant (117),
the code and field in which a PLANLD reports its GCC (64) and its code for a module that is away (126), and the checks of plans and routes at a
RESUME (72). -/
def Obligations.DispatchEngineRequests : Prop := Claims.EngineRequests ∧ Claims.EngineGrants ∧ Claims.JobsWaitForPorts ∧ Claims.Copies ∧ Claims.CopiesOfModules
  ∧ Claims.PlansAreLoaded ∧ Claims.RestoresPrepared

/-- O48. A LAUNCH reports the first check that fails, in the order of the rules, with nothing taken; one that finds no rows waits or is refused as
it asks; a walk that is held waits and is refused in the end. One that passes has its rows and cores as the rules leave them and launches at the
next multiple of 64 that lies 128 cycles on; held walks are tried again; ready messages, go and abort act as the rules say. The wait for a memory
port is the model's (log entry 137). -/
def Obligations.TaskLaunches : Prop := Claims.LaunchesRefused ∧ Claims.LaunchesPrepared ∧ Claims.HeldWalksRetry ∧ Claims.GangsLaunch

/-- O49. At launch GCC and every frame base take the DCC and every row begins to read its stream at word 0; at its end the task reports, its rows are
free, and registers and memories of its cores stand; an end fence that is not done is looked at again (log entry 127). A ready message is kept, a go puts
the launch at its cycle, and a walk that was held is tried again. Which DCC the report holds is the model's reading (log entry 80). -/
def Obligations.TasksBeginAndEnd : Prop := Claims.TasksLaunch ∧ Claims.TasksEnd ∧ Claims.GangEventsTakeEffect

/-- O50. Requests are checked, kept and become pending 64 cycles on, in a gang at the GCC L_lead cycles after every member has asked; a drained
gang is saved with a header that says what it is, within the bound of the rules; a discard stops every core where it stands, unless a HALT or a
PREPT came first, and lapses where a region has closed or a trap has stopped the gang; the end of a save frees the rows, and WRDONE is set when
far-memory writes have taken effect. The model's choices: the duration of the save is free within its bound (log entry 9); a member of another rank
sends its PREEMPT to rank 0 as a note, and rank 0 counts the members (log entries 45 and 82); a PREEMPT_PENDING or a DISCARD that another member
brings says which member or cycle (log entry 12); a save waits for a memory port (log entry 137). -/
def Obligations.PreemptionOfTasks : Prop := Claims.PreemptionRequests ∧ Claims.PreemptionsDrainAndSave ∧ Claims.Discards ∧ Claims.SavesComplete

/-- O51. For every liveness record and every core, writing the marked registers to a section and reading the section back gives every marked a, p, v, m,
tile, descriptor, bound and shape register its value. -/
def Obligations.SavedRegistersAreRestored : Prop := Claims.SavedRegistersComeBack

/-- O52. At a restore launch HOLDS, SLKR and SHIFTC come back, GCC is the DCC less the holds and the slack, and every row and core has what its sections
hold, its times moved by the restore shift. The image is read at the launch (log entry 71). -/
def Obligations.RestoredTasksGoOn : Prop := Claims.RestoresLaunch

/-- O53. Bring-up steps begin in turn, end with DONE or FAIL and make the port live; ring losses retrain or spare, a second failure takes the port
down, and a margin scan retrains a ring whose eye is too small; a flit is replayed at most four times and then delivered poisoned, a scale-up port
sends it again as it was sealed, and the seventeenth failure of a ring within 2^16 flits is a failure of the ring. The model's readings: what
steps, FORCE and failures of the spare do when they meet and what counts as a retraining (log entries 85, 87 and 88), scale-up ports numbered from
384 and a fifth failure as delivery with poison (log entry 96), counts alone kept of a memory port's flits (log entry 104). In safe function the
host's writes are ignored. -/
def Obligations.MemoryPortLife : Prop := Claims.MemoryPortBringUp ∧ Claims.MemoryPortsInService ∧ Claims.FlitsReplay

/-- O54. A laser that goes dark takes its 32 ports down and no other; the bias rises by at most one step in 2^24 cycles, and DRIFT, WARN and EOL
follow it; hours count for lit lasers and their drift is kept; a thermal warning is put on record; each event of a memory port acts on a port in
the state it needs. Values that the specification does not give are free (log entry 10); a step that meets another or a live port, FORCE whatever
AUTO says, and scale-up ports numbered from 384 are the model's readings (log entries 85, 88 and 96). -/
def Obligations.LaserLife : Prop := Claims.Lasers ∧ Claims.PortEventsTakeEffect

/-- O55. JOIN, LEAVE, REFERENCE_LOSS and NBIND act on the domain registers as the rules say; scale-up ports are enabled, quiesced, trained,
identified, quarantined and keyed as the rules say, the measured time rounded up to 64 cycles, and no other port changes; in safe function the
host's writes are ignored. The model's readings: what is due keeps its distance at a JOIN (log entry 90), the time that a quiesce takes is free
(log entry 9), a port that takes no flits for want of a key holds its traffic back (log entry 124), and the others of log entries 91 to 95 and 138.
-/
def Obligations.DomainAndScaleUpPorts : Prop :=
  Claims.DomainMembership ∧ Claims.ScaleUpPorts ∧ Claims.ScaleUpTraffic ∧ Claims.ArrivalsAreOpened

/-- O56. A reset ends every task and empties the counts, keeps memory outside the package, the flash and the fuses, and ends in full function when
every stage passes; a start waits for PCIe; a retirement is pending and is committed within 100 ms, and an entry of the flash is never removed; no
message and no access of the host comes before stage 1 has passed. The commit's duration is free within its bound, the staged start is one step, a
committed entry's PENDV and PENDCOL may be written again, and what a reset keeps is in part the model's reading (log entries 2, 9, 99 and 132). -/
def Obligations.StartAndRetirement : Prop := Claims.PackageResets ∧ Claims.StartsGoOn ∧ Claims.Retirements

/-- O57. The mailbox and the registers of BAR0 act as their access says; attestation requests of versions 1.2 and 1.3 are answered with what the
rules name and others turned away; a session is secured by a key exchange and a FINISH that verifies; firmware loads in order beside the running
copy and is taken where its own bytes verify, the fused security version never falls, and a key goes into an empty slot; nothing of this happens
before stage 1 has passed. Answers are notes of the model (log entry 102); the order of the statuses, what another SPDM version is answered and
what a virtual function reads outside its streams are its readings (log entries 128, 131 and 97). -/
def Obligations.ManagementInterfaces : Prop := Claims.RegistersAndMailbox ∧ Claims.Attestation ∧ Claims.FirmwareAndKeys

/-- O58. The step takes the first ready work in the order of the cycle; an event is executed; a due word is read from the row's SRAM, decoded in the
column of its clause and executed between the model's bookkeeping before and after it, which keeps registers and memory; with nothing due a domain
cycle passes. No step is refused and every instruction completes. -/
def Obligations.StepsRunDueWork : Prop := Claims.StepRunsWhatIsDue ∧ Claims.IssueKeepsRegisters ∧ Claims.DomainCyclesPass ∧ Claims.StepsAreNotRefused

/-- O59. After reset no task runs, nothing is due, the counts are zero, module and host memory are empty, every local store reads zero, and all of these
memories are in canonical form. That registers hold zero, or their launch value, at reset is the model's choice (log entries 1 and 2), as is the zero
of unwritten memory (log entry 4). -/
def Obligations.ResetLeaves : Prop := Claims.ResetState ∧ Claims.ResetMemoryForm

/-- O60. From every state in which the module memory, the host memory and every local store are in canonical form, a step that gives a next state gives
one in which they are. -/
def Obligations.MemoryFormIsKept : Prop := Claims.StepsKeepMemoryForm
end

