-- ==== Sys2Proof/Laws/Memory.lean ====
section
/-! SUPPORT. Sparse maps: what a read gives after each write, and that every write keeps the canonical form. -/

namespace Sys2Proof.Machine

namespace Sparse

variable {α : Type}

/-! ## Reads -/

@[simp] theorem get_nil (d : α) (i : Nat) : get d [] i = d := rfl

theorem get_del_same (d : α) (m : Sparse α) (i : Nat) : get d (del m i) i = d := by
  induction m with
  | nil => rfl
  | cons e m ih => by_cases h : e.1 = i <;> simp [del, get, h, ih]

theorem get_del_other (d : α) (m : Sparse α) {i j : Nat} (h : j ≠ i) : get d (del m i) j = get d m j := by
  induction m with
  | nil => rfl
  | cons e m ih =>
    by_cases he : e.1 = i
    · have : e.1 ≠ j := fun hj => h (hj ▸ he)
      simp [del, get, he, ih, Ne.symm h]
    · simp [del, get, he, ih]

theorem get_put_same (d : α) (m : Sparse α) (i : Nat) (x : α) (h : ∀ e ∈ m, e.1 ≠ i) : get d (put i x m) i = x := by
  induction m with
  | nil => simp [put, get]
  | cons e m ih =>
    have he : e.1 ≠ i := h e (by simp)
    by_cases hl : i < e.1
    · simp [put, get, hl]
    · simp [put, get, hl, he, ih fun f hf => h f (by simp [hf])]

theorem get_put_other (d : α) (m : Sparse α) {i j : Nat} (x : α) (h : j ≠ i) : get d (put i x m) j = get d m j := by
  induction m with
  | nil => simp [put, get, Ne.symm h]
  | cons e m ih => by_cases hl : i < e.1 <;> simp [put, get, hl, ih, Ne.symm h]

theorem del_keys (m : Sparse α) (i : Nat) : ∀ e ∈ del m i, e.1 ≠ i := by
  induction m with
  | nil => simp [del]
  | cons f m ih =>
    by_cases hf : f.1 = i
    · simpa [del, hf] using ih
    · intro e he
      simp only [del, hf, if_false, List.mem_cons] at he
      rcases he with rfl | he
      · exact hf
      · exact ih e he

/-- A key that does not read as the default is listed with its value. -/
theorem mem_of_get_ne (d : α) (m : Sparse α) {i : Nat} (h : get d m i ≠ d) : (i, get d m i) ∈ m := by
  induction m with
  | nil => exact absurd rfl h
  | cons e m ih =>
    obtain ⟨k, v⟩ := e
    by_cases hk : k = i
    · simp [get, hk]
    · rw [get, if_neg hk] at h ⊢
      exact List.mem_cons_of_mem _ (ih h)

variable [DecidableEq α]

/-- A read of the key written gives the value written. -/
theorem get_set_same (d : α) (m : Sparse α) (i : Nat) (x : α) : get d (set d m i x) i = x := by
  by_cases h : x = d
  · simp [set, h, get_del_same]
  · simp [set, h, get_put_same d (del m i) i x (del_keys m i)]

/-- A read of another key gives what it gave. -/
theorem get_set_other (d : α) (m : Sparse α) {i j : Nat} (x : α) (h : j ≠ i) : get d (set d m i x) j = get d m j := by
  by_cases hx : x = d
  · simp [set, hx, get_del_other d m h]
  · simp [set, hx, get_put_other d _ x h, get_del_other d m h]

theorem get_set (d : α) (m : Sparse α) (i j : Nat) (x : α) : get d (set d m i x) j = if j = i then x else get d m j := by
  by_cases h : j = i
  · simp [h, get_set_same]
  · simp [h, get_set_other d m x h]

/-- Keys outside a list of writes keep their values. -/
theorem get_setMany_other (d : α) (xs : List (Nat × α)) (m : Sparse α) {j : Nat} (h : ∀ e ∈ xs, e.1 ≠ j) :
    get d (setMany d m xs) j = get d m j := by
  induction xs generalizing m with
  | nil => rfl
  | cons e xs ih =>
    simp only [setMany]
    rw [ih (set d m e.1 e.2) fun f hf => h f (by simp [hf]), get_set_other d m e.2 (Ne.symm (h e (by simp)))]

/-- Keys outside a run of writes keep their values. -/
theorem get_setList_other (d : α) (xs : List α) (m : Sparse α) {i j : Nat} (h : j < i ∨ i + xs.length ≤ j) :
    get d (setList d m i xs) j = get d m j := by
  induction xs generalizing m i with
  | nil => rfl
  | cons x xs ih =>
    simp only [setList, List.length_cons] at *
    rw [ih (set d m i x) (by omega), get_set_other d m x (by omega)]

/-- Changing every value by a function that keeps the default changes what every key reads as by it. -/
theorem get_mapVals (d : α) (f : α → α) (hf : f d = d) (m : Sparse α) (i : Nat) : get d (mapVals d f m) i = f (get d m i) := by
  induction m with
  | nil => exact hf.symm
  | cons e m ih =>
    rw [mapVals, get_set, ih, get]
    by_cases h : i = e.1 <;> simp [h, Ne.symm]

/-! ## The canonical form -/

/-- A map in form above a bound is in form above every lower one. -/
theorem wfAbove_mono (d : α) {lo lo' : Nat} (h : lo ≤ lo') {m : Sparse α} (hm : wfAbove d lo' m = true) : wfAbove d lo m = true := by
  cases m with
  | nil => rfl
  | cons e m =>
    simp only [wfAbove, Bool.and_eq_true, decide_eq_true_eq] at *
    exact ⟨⟨by omega, hm.1.2⟩, hm.2⟩

theorem wfAbove_del (d : α) (i : Nat) {lo : Nat} {m : Sparse α} (hm : wfAbove d lo m = true) : wfAbove d lo (del m i) = true := by
  induction m generalizing lo with
  | nil => rfl
  | cons e m ih =>
    simp only [wfAbove, Bool.and_eq_true, decide_eq_true_eq] at hm
    by_cases he : e.1 = i
    · simpa [del, he] using wfAbove_mono d (by omega) (ih hm.2)
    · simp only [del, he, if_false, wfAbove, Bool.and_eq_true, decide_eq_true_eq]
      exact ⟨hm.1, ih hm.2⟩

theorem wfAbove_put (d : α) {i : Nat} {x : α} (hx : x ≠ d) {lo : Nat} (hlo : lo ≤ i) {m : Sparse α} (hk : ∀ e ∈ m, e.1 ≠ i)
    (hm : wfAbove d lo m = true) : wfAbove d lo (put i x m) = true := by
  induction m generalizing lo with
  | nil => simp [put, wfAbove, hx, hlo]
  | cons e m ih =>
    have he : e.1 ≠ i := hk e (by simp)
    simp only [wfAbove, Bool.and_eq_true, decide_eq_true_eq] at hm
    by_cases hl : i < e.1
    · simp only [put, hl, if_true, wfAbove, Bool.and_eq_true, decide_eq_true_eq]
      exact ⟨⟨hlo, hx⟩, ⟨by omega, hm.1.2⟩, hm.2⟩
    · simp only [put, hl, if_false, wfAbove, Bool.and_eq_true, decide_eq_true_eq]
      exact ⟨hm.1, ih (by omega) (fun f hf => hk f (by simp [hf])) hm.2⟩

/-- Writing one key keeps the canonical form. -/
theorem wf_set (d : α) {m : Sparse α} (i : Nat) (x : α) (hm : wf d m = true) : wf d (set d m i x) = true := by
  by_cases hx : x = d
  · simpa [set, hx, wf] using wfAbove_del d i hm
  · simpa [set, hx, wf] using wfAbove_put d hx (Nat.zero_le i) (del_keys m i) (wfAbove_del d i hm)

/-- Changing every value gives a map in form. -/
theorem wf_mapVals (d : α) (f : α → α) (m : Sparse α) : wf d (mapVals d f m) = true := by
  induction m with
  | nil => rfl
  | cons e m ih => exact wf_set d e.1 (f e.2) ih

/-- Writing a list of keys keeps the canonical form. -/
theorem wf_setMany (d : α) (xs : List (Nat × α)) {m : Sparse α} (hm : wf d m = true) : wf d (setMany d m xs) = true := by
  induction xs generalizing m with
  | nil => exact hm
  | cons e xs ih => exact ih (wf_set d e.1 e.2 hm)

/-- Writing a run of keys keeps the canonical form. -/
theorem wf_setList (d : α) (xs : List α) {m : Sparse α} (i : Nat) (hm : wf d m = true) : wf d (setList d m i xs) = true := by
  induction xs generalizing m i with
  | nil => exact hm
  | cons x xs ih => exact ih (i + 1) (wf_set d i x hm)

end Sparse

namespace Memory

/-- The three writes of a memory keep its form. -/
theorem wf_put {m : Memory} (a : Nat) (b : Byte) (hm : wf m = true) : wf (put m a b) = true := Sparse.wf_set 0 a b hm

theorem wf_putBytes {m : Memory} (a : Nat) (bs : List Byte) (hm : wf m = true) : wf (putBytes m a bs) = true := Sparse.wf_setList 0 bs a hm

theorem byte_put (m : Memory) (a b : Nat) (x : Byte) : byte (put m a x) b = if b = a then x else byte m b := Sparse.get_set 0 m a b x

end Memory

end Sys2Proof.Machine
end

