-- ==== Sys2Proof/Laws/State.lean ====
section
/-! SUPPORT. What each update of the state leaves in each field, and how the places of the state read after an update. -/

namespace Sys2Proof.Machine

open Sys2Proof

/-! ## One field after one update -/

@[simp] theorem State.modCore_dcc (s : State) (r c : Fin 8) (f : Core → Core) : (s.modCore r c f).dcc = s.dcc := rfl
@[simp] theorem State.modCore_agenda (s : State) (r c : Fin 8) (f : Core → Core) : (s.modCore r c f).agenda = s.agenda := rfl
@[simp] theorem State.modCore_cur (s : State) (r c : Fin 8) (f : Core → Core) : (s.modCore r c f).cur = s.cur := rfl
@[simp] theorem State.modCore_rows (s : State) (r c : Fin 8) (f : Core → Core) : (s.modCore r c f).rows = s.rows := rfl
@[simp] theorem State.modCore_tasks (s : State) (r c : Fin 8) (f : Core → Core) : (s.modCore r c f).tasks = s.tasks := rfl
@[simp] theorem State.modCore_modMem (s : State) (r c : Fin 8) (f : Core → Core) : (s.modCore r c f).modMem = s.modMem := rfl
@[simp] theorem State.modCore_modCls (s : State) (r c : Fin 8) (f : Core → Core) : (s.modCore r c f).modCls = s.modCls := rfl
@[simp] theorem State.modCore_modBase (s : State) (r c : Fin 8) (f : Core → Core) : (s.modCore r c f).modBase = s.modBase := rfl
@[simp] theorem State.modCore_modLog (s : State) (r c : Fin 8) (f : Core → Core) : (s.modCore r c f).modLog = s.modLog := rfl
@[simp] theorem State.modCore_host (s : State) (r c : Fin 8) (f : Core → Core) : (s.modCore r c f).host = s.host := rfl
@[simp] theorem State.modCore_pkg (s : State) (r c : Fin 8) (f : Core → Core) : (s.modCore r c f).pkg = s.pkg := rfl
@[simp] theorem State.modCore_next (s : State) (r c : Fin 8) (f : Core → Core) : (s.modCore r c f).next = s.next := rfl
@[simp] theorem State.modCore_sent (s : State) (r c : Fin 8) (f : Core → Core) : (s.modCore r c f).sent = s.sent := rfl

@[simp] theorem State.modRow_dcc (s : State) (r : Fin 8) (f : Row → Row) : (s.modRow r f).dcc = s.dcc := rfl
@[simp] theorem State.modRow_agenda (s : State) (r : Fin 8) (f : Row → Row) : (s.modRow r f).agenda = s.agenda := rfl
@[simp] theorem State.modRow_cur (s : State) (r : Fin 8) (f : Row → Row) : (s.modRow r f).cur = s.cur := rfl
@[simp] theorem State.modRow_cores (s : State) (r : Fin 8) (f : Row → Row) : (s.modRow r f).cores = s.cores := rfl
@[simp] theorem State.modRow_tasks (s : State) (r : Fin 8) (f : Row → Row) : (s.modRow r f).tasks = s.tasks := rfl
@[simp] theorem State.modRow_modMem (s : State) (r : Fin 8) (f : Row → Row) : (s.modRow r f).modMem = s.modMem := rfl
@[simp] theorem State.modRow_modCls (s : State) (r : Fin 8) (f : Row → Row) : (s.modRow r f).modCls = s.modCls := rfl
@[simp] theorem State.modRow_modBase (s : State) (r : Fin 8) (f : Row → Row) : (s.modRow r f).modBase = s.modBase := rfl
@[simp] theorem State.modRow_modLog (s : State) (r : Fin 8) (f : Row → Row) : (s.modRow r f).modLog = s.modLog := rfl
@[simp] theorem State.modRow_host (s : State) (r : Fin 8) (f : Row → Row) : (s.modRow r f).host = s.host := rfl
@[simp] theorem State.modRow_pkg (s : State) (r : Fin 8) (f : Row → Row) : (s.modRow r f).pkg = s.pkg := rfl
@[simp] theorem State.modRow_next (s : State) (r : Fin 8) (f : Row → Row) : (s.modRow r f).next = s.next := rfl
@[simp] theorem State.modRow_sent (s : State) (r : Fin 8) (f : Row → Row) : (s.modRow r f).sent = s.sent := rfl

@[simp] theorem State.modTask_dcc (s : State) (t : Slot) (f : Task → Task) : (s.modTask t f).dcc = s.dcc := rfl
@[simp] theorem State.modTask_agenda (s : State) (t : Slot) (f : Task → Task) : (s.modTask t f).agenda = s.agenda := rfl
@[simp] theorem State.modTask_cur (s : State) (t : Slot) (f : Task → Task) : (s.modTask t f).cur = s.cur := rfl
@[simp] theorem State.modTask_rows (s : State) (t : Slot) (f : Task → Task) : (s.modTask t f).rows = s.rows := rfl
@[simp] theorem State.modTask_cores (s : State) (t : Slot) (f : Task → Task) : (s.modTask t f).cores = s.cores := rfl
@[simp] theorem State.modTask_modMem (s : State) (t : Slot) (f : Task → Task) : (s.modTask t f).modMem = s.modMem := rfl
@[simp] theorem State.modTask_modCls (s : State) (t : Slot) (f : Task → Task) : (s.modTask t f).modCls = s.modCls := rfl
@[simp] theorem State.modTask_modBase (s : State) (t : Slot) (f : Task → Task) : (s.modTask t f).modBase = s.modBase := rfl
@[simp] theorem State.modTask_modLog (s : State) (t : Slot) (f : Task → Task) : (s.modTask t f).modLog = s.modLog := rfl
@[simp] theorem State.modTask_host (s : State) (t : Slot) (f : Task → Task) : (s.modTask t f).host = s.host := rfl
@[simp] theorem State.modTask_pkg (s : State) (t : Slot) (f : Task → Task) : (s.modTask t f).pkg = s.pkg := rfl
@[simp] theorem State.modTask_next (s : State) (t : Slot) (f : Task → Task) : (s.modTask t f).next = s.next := rfl
@[simp] theorem State.modTask_sent (s : State) (t : Slot) (f : Task → Task) : (s.modTask t f).sent = s.sent := rfl

@[simp] theorem State.modPkg_dcc (s : State) (f : Pkg → Pkg) : (s.modPkg f).dcc = s.dcc := rfl
@[simp] theorem State.modPkg_agenda (s : State) (f : Pkg → Pkg) : (s.modPkg f).agenda = s.agenda := rfl
@[simp] theorem State.modPkg_cur (s : State) (f : Pkg → Pkg) : (s.modPkg f).cur = s.cur := rfl
@[simp] theorem State.modPkg_rows (s : State) (f : Pkg → Pkg) : (s.modPkg f).rows = s.rows := rfl
@[simp] theorem State.modPkg_cores (s : State) (f : Pkg → Pkg) : (s.modPkg f).cores = s.cores := rfl
@[simp] theorem State.modPkg_tasks (s : State) (f : Pkg → Pkg) : (s.modPkg f).tasks = s.tasks := rfl
@[simp] theorem State.modPkg_modMem (s : State) (f : Pkg → Pkg) : (s.modPkg f).modMem = s.modMem := rfl
@[simp] theorem State.modPkg_modCls (s : State) (f : Pkg → Pkg) : (s.modPkg f).modCls = s.modCls := rfl
@[simp] theorem State.modPkg_modBase (s : State) (f : Pkg → Pkg) : (s.modPkg f).modBase = s.modBase := rfl
@[simp] theorem State.modPkg_modLog (s : State) (f : Pkg → Pkg) : (s.modPkg f).modLog = s.modLog := rfl
@[simp] theorem State.modPkg_host (s : State) (f : Pkg → Pkg) : (s.modPkg f).host = s.host := rfl
@[simp] theorem State.modPkg_next (s : State) (f : Pkg → Pkg) : (s.modPkg f).next = s.next := rfl
@[simp] theorem State.modPkg_sent (s : State) (f : Pkg → Pkg) : (s.modPkg f).sent = s.sent := rfl

@[simp] theorem State.here_dcc (s : State) (f : Core → Core) : (s.here f).dcc = s.dcc := rfl
@[simp] theorem State.here_agenda (s : State) (f : Core → Core) : (s.here f).agenda = s.agenda := rfl
@[simp] theorem State.here_cur (s : State) (f : Core → Core) : (s.here f).cur = s.cur := rfl
@[simp] theorem State.here_rows (s : State) (f : Core → Core) : (s.here f).rows = s.rows := rfl
@[simp] theorem State.here_tasks (s : State) (f : Core → Core) : (s.here f).tasks = s.tasks := rfl
@[simp] theorem State.here_modMem (s : State) (f : Core → Core) : (s.here f).modMem = s.modMem := rfl
@[simp] theorem State.here_modCls (s : State) (f : Core → Core) : (s.here f).modCls = s.modCls := rfl
@[simp] theorem State.here_modBase (s : State) (f : Core → Core) : (s.here f).modBase = s.modBase := rfl
@[simp] theorem State.here_modLog (s : State) (f : Core → Core) : (s.here f).modLog = s.modLog := rfl
@[simp] theorem State.here_host (s : State) (f : Core → Core) : (s.here f).host = s.host := rfl
@[simp] theorem State.here_pkg (s : State) (f : Core → Core) : (s.here f).pkg = s.pkg := rfl
@[simp] theorem State.here_next (s : State) (f : Core → Core) : (s.here f).next = s.next := rfl
@[simp] theorem State.here_sent (s : State) (f : Core → Core) : (s.here f).sent = s.sent := rfl

@[simp] theorem State.hereRow_dcc (s : State) (f : Row → Row) : (s.hereRow f).dcc = s.dcc := rfl
@[simp] theorem State.hereRow_agenda (s : State) (f : Row → Row) : (s.hereRow f).agenda = s.agenda := rfl
@[simp] theorem State.hereRow_cur (s : State) (f : Row → Row) : (s.hereRow f).cur = s.cur := rfl
@[simp] theorem State.hereRow_cores (s : State) (f : Row → Row) : (s.hereRow f).cores = s.cores := rfl
@[simp] theorem State.hereRow_tasks (s : State) (f : Row → Row) : (s.hereRow f).tasks = s.tasks := rfl
@[simp] theorem State.hereRow_modMem (s : State) (f : Row → Row) : (s.hereRow f).modMem = s.modMem := rfl
@[simp] theorem State.hereRow_modCls (s : State) (f : Row → Row) : (s.hereRow f).modCls = s.modCls := rfl
@[simp] theorem State.hereRow_modBase (s : State) (f : Row → Row) : (s.hereRow f).modBase = s.modBase := rfl
@[simp] theorem State.hereRow_modLog (s : State) (f : Row → Row) : (s.hereRow f).modLog = s.modLog := rfl
@[simp] theorem State.hereRow_host (s : State) (f : Row → Row) : (s.hereRow f).host = s.host := rfl
@[simp] theorem State.hereRow_pkg (s : State) (f : Row → Row) : (s.hereRow f).pkg = s.pkg := rfl
@[simp] theorem State.hereRow_next (s : State) (f : Row → Row) : (s.hereRow f).next = s.next := rfl
@[simp] theorem State.hereRow_sent (s : State) (f : Row → Row) : (s.hereRow f).sent = s.sent := rfl

@[simp] theorem State.hereTask_dcc (s : State) (f : Task → Task) : (s.hereTask f).dcc = s.dcc := rfl
@[simp] theorem State.hereTask_agenda (s : State) (f : Task → Task) : (s.hereTask f).agenda = s.agenda := rfl
@[simp] theorem State.hereTask_cur (s : State) (f : Task → Task) : (s.hereTask f).cur = s.cur := rfl
@[simp] theorem State.hereTask_rows (s : State) (f : Task → Task) : (s.hereTask f).rows = s.rows := rfl
@[simp] theorem State.hereTask_cores (s : State) (f : Task → Task) : (s.hereTask f).cores = s.cores := rfl
@[simp] theorem State.hereTask_modMem (s : State) (f : Task → Task) : (s.hereTask f).modMem = s.modMem := rfl
@[simp] theorem State.hereTask_modCls (s : State) (f : Task → Task) : (s.hereTask f).modCls = s.modCls := rfl
@[simp] theorem State.hereTask_modBase (s : State) (f : Task → Task) : (s.hereTask f).modBase = s.modBase := rfl
@[simp] theorem State.hereTask_modLog (s : State) (f : Task → Task) : (s.hereTask f).modLog = s.modLog := rfl
@[simp] theorem State.hereTask_host (s : State) (f : Task → Task) : (s.hereTask f).host = s.host := rfl
@[simp] theorem State.hereTask_pkg (s : State) (f : Task → Task) : (s.hereTask f).pkg = s.pkg := rfl
@[simp] theorem State.hereTask_next (s : State) (f : Task → Task) : (s.hereTask f).next = s.next := rfl
@[simp] theorem State.hereTask_sent (s : State) (f : Task → Task) : (s.hereTask f).sent = s.sent := rfl

@[simp] theorem State.add_dcc (s : State) (e : Entry) : (s.add e).dcc = s.dcc := rfl
@[simp] theorem State.add_cur (s : State) (e : Entry) : (s.add e).cur = s.cur := rfl
@[simp] theorem State.add_rows (s : State) (e : Entry) : (s.add e).rows = s.rows := rfl
@[simp] theorem State.add_cores (s : State) (e : Entry) : (s.add e).cores = s.cores := rfl
@[simp] theorem State.add_tasks (s : State) (e : Entry) : (s.add e).tasks = s.tasks := rfl
@[simp] theorem State.add_modMem (s : State) (e : Entry) : (s.add e).modMem = s.modMem := rfl
@[simp] theorem State.add_modCls (s : State) (e : Entry) : (s.add e).modCls = s.modCls := rfl
@[simp] theorem State.add_modBase (s : State) (e : Entry) : (s.add e).modBase = s.modBase := rfl
@[simp] theorem State.add_modLog (s : State) (e : Entry) : (s.add e).modLog = s.modLog := rfl
@[simp] theorem State.add_host (s : State) (e : Entry) : (s.add e).host = s.host := rfl
@[simp] theorem State.add_pkg (s : State) (e : Entry) : (s.add e).pkg = s.pkg := rfl
@[simp] theorem State.add_next (s : State) (e : Entry) : (s.add e).next = s.next := rfl
@[simp] theorem State.add_sent (s : State) (e : Entry) : (s.add e).sent = s.sent := rfl

@[simp] theorem State.addCore_dcc (s : State) (dt rank ord : Nat) (w : Work) : (s.addCore dt rank ord w).dcc = s.dcc := rfl
@[simp] theorem State.addCore_cur (s : State) (dt rank ord : Nat) (w : Work) : (s.addCore dt rank ord w).cur = s.cur := rfl
@[simp] theorem State.addCore_rows (s : State) (dt rank ord : Nat) (w : Work) : (s.addCore dt rank ord w).rows = s.rows := rfl
@[simp] theorem State.addCore_cores (s : State) (dt rank ord : Nat) (w : Work) : (s.addCore dt rank ord w).cores = s.cores := rfl
@[simp] theorem State.addCore_tasks (s : State) (dt rank ord : Nat) (w : Work) : (s.addCore dt rank ord w).tasks = s.tasks := rfl
@[simp] theorem State.addCore_modMem (s : State) (dt rank ord : Nat) (w : Work) : (s.addCore dt rank ord w).modMem = s.modMem := rfl
@[simp] theorem State.addCore_modCls (s : State) (dt rank ord : Nat) (w : Work) : (s.addCore dt rank ord w).modCls = s.modCls := rfl
@[simp] theorem State.addCore_modBase (s : State) (dt rank ord : Nat) (w : Work) : (s.addCore dt rank ord w).modBase = s.modBase := rfl
@[simp] theorem State.addCore_modLog (s : State) (dt rank ord : Nat) (w : Work) : (s.addCore dt rank ord w).modLog = s.modLog := rfl
@[simp] theorem State.addCore_host (s : State) (dt rank ord : Nat) (w : Work) : (s.addCore dt rank ord w).host = s.host := rfl
@[simp] theorem State.addCore_pkg (s : State) (dt rank ord : Nat) (w : Work) : (s.addCore dt rank ord w).pkg = s.pkg := rfl
@[simp] theorem State.addCore_next (s : State) (dt rank ord : Nat) (w : Work) : (s.addCore dt rank ord w).next = s.next := rfl
@[simp] theorem State.addCore_sent (s : State) (dt rank ord : Nat) (w : Work) : (s.addCore dt rank ord w).sent = s.sent := rfl

@[simp] theorem State.addSeq_dcc (s : State) (dt rank ord : Nat) (w : Work) : (s.addSeq dt rank ord w).dcc = s.dcc := rfl
@[simp] theorem State.addSeq_cur (s : State) (dt rank ord : Nat) (w : Work) : (s.addSeq dt rank ord w).cur = s.cur := rfl
@[simp] theorem State.addSeq_rows (s : State) (dt rank ord : Nat) (w : Work) : (s.addSeq dt rank ord w).rows = s.rows := rfl
@[simp] theorem State.addSeq_cores (s : State) (dt rank ord : Nat) (w : Work) : (s.addSeq dt rank ord w).cores = s.cores := rfl
@[simp] theorem State.addSeq_tasks (s : State) (dt rank ord : Nat) (w : Work) : (s.addSeq dt rank ord w).tasks = s.tasks := rfl
@[simp] theorem State.addSeq_modMem (s : State) (dt rank ord : Nat) (w : Work) : (s.addSeq dt rank ord w).modMem = s.modMem := rfl
@[simp] theorem State.addSeq_modCls (s : State) (dt rank ord : Nat) (w : Work) : (s.addSeq dt rank ord w).modCls = s.modCls := rfl
@[simp] theorem State.addSeq_modBase (s : State) (dt rank ord : Nat) (w : Work) : (s.addSeq dt rank ord w).modBase = s.modBase := rfl
@[simp] theorem State.addSeq_modLog (s : State) (dt rank ord : Nat) (w : Work) : (s.addSeq dt rank ord w).modLog = s.modLog := rfl
@[simp] theorem State.addSeq_host (s : State) (dt rank ord : Nat) (w : Work) : (s.addSeq dt rank ord w).host = s.host := rfl
@[simp] theorem State.addSeq_pkg (s : State) (dt rank ord : Nat) (w : Work) : (s.addSeq dt rank ord w).pkg = s.pkg := rfl
@[simp] theorem State.addSeq_next (s : State) (dt rank ord : Nat) (w : Work) : (s.addSeq dt rank ord w).next = s.next := rfl
@[simp] theorem State.addSeq_sent (s : State) (dt rank ord : Nat) (w : Work) : (s.addSeq dt rank ord w).sent = s.sent := rfl

@[simp] theorem State.addGang_dcc (s : State) (due rank ord : Nat) (p : Part) (w : Work) : (s.addGang due rank ord p w).dcc = s.dcc := rfl
@[simp] theorem State.addGang_cur (s : State) (due rank ord : Nat) (p : Part) (w : Work) : (s.addGang due rank ord p w).cur = s.cur := rfl
@[simp] theorem State.addGang_rows (s : State) (due rank ord : Nat) (p : Part) (w : Work) : (s.addGang due rank ord p w).rows = s.rows := rfl
@[simp] theorem State.addGang_cores (s : State) (due rank ord : Nat) (p : Part) (w : Work) : (s.addGang due rank ord p w).cores = s.cores := rfl
@[simp] theorem State.addGang_tasks (s : State) (due rank ord : Nat) (p : Part) (w : Work) : (s.addGang due rank ord p w).tasks = s.tasks := rfl
@[simp] theorem State.addGang_modMem (s : State) (due rank ord : Nat) (p : Part) (w : Work) : (s.addGang due rank ord p w).modMem = s.modMem := rfl
@[simp] theorem State.addGang_modCls (s : State) (due rank ord : Nat) (p : Part) (w : Work) : (s.addGang due rank ord p w).modCls = s.modCls := rfl
@[simp] theorem State.addGang_modBase (s : State) (due rank ord : Nat) (p : Part) (w : Work) : (s.addGang due rank ord p w).modBase = s.modBase := rfl
@[simp] theorem State.addGang_modLog (s : State) (due rank ord : Nat) (p : Part) (w : Work) : (s.addGang due rank ord p w).modLog = s.modLog := rfl
@[simp] theorem State.addGang_host (s : State) (due rank ord : Nat) (p : Part) (w : Work) : (s.addGang due rank ord p w).host = s.host := rfl
@[simp] theorem State.addGang_pkg (s : State) (due rank ord : Nat) (p : Part) (w : Work) : (s.addGang due rank ord p w).pkg = s.pkg := rfl
@[simp] theorem State.addGang_next (s : State) (due rank ord : Nat) (p : Part) (w : Work) : (s.addGang due rank ord p w).next = s.next := rfl
@[simp] theorem State.addGang_sent (s : State) (due rank ord : Nat) (p : Part) (w : Work) : (s.addGang due rank ord p w).sent = s.sent := rfl

@[simp] theorem State.addDomain_dcc (s : State) (due rank : Nat) (w : Work) : (s.addDomain due rank w).dcc = s.dcc := rfl
@[simp] theorem State.addDomain_cur (s : State) (due rank : Nat) (w : Work) : (s.addDomain due rank w).cur = s.cur := rfl
@[simp] theorem State.addDomain_rows (s : State) (due rank : Nat) (w : Work) : (s.addDomain due rank w).rows = s.rows := rfl
@[simp] theorem State.addDomain_cores (s : State) (due rank : Nat) (w : Work) : (s.addDomain due rank w).cores = s.cores := rfl
@[simp] theorem State.addDomain_tasks (s : State) (due rank : Nat) (w : Work) : (s.addDomain due rank w).tasks = s.tasks := rfl
@[simp] theorem State.addDomain_modMem (s : State) (due rank : Nat) (w : Work) : (s.addDomain due rank w).modMem = s.modMem := rfl
@[simp] theorem State.addDomain_modCls (s : State) (due rank : Nat) (w : Work) : (s.addDomain due rank w).modCls = s.modCls := rfl
@[simp] theorem State.addDomain_modBase (s : State) (due rank : Nat) (w : Work) : (s.addDomain due rank w).modBase = s.modBase := rfl
@[simp] theorem State.addDomain_modLog (s : State) (due rank : Nat) (w : Work) : (s.addDomain due rank w).modLog = s.modLog := rfl
@[simp] theorem State.addDomain_host (s : State) (due rank : Nat) (w : Work) : (s.addDomain due rank w).host = s.host := rfl
@[simp] theorem State.addDomain_pkg (s : State) (due rank : Nat) (w : Work) : (s.addDomain due rank w).pkg = s.pkg := rfl
@[simp] theorem State.addDomain_next (s : State) (due rank : Nat) (w : Work) : (s.addDomain due rank w).next = s.next := rfl
@[simp] theorem State.addDomain_sent (s : State) (due rank : Nat) (w : Work) : (s.addDomain due rank w).sent = s.sent := rfl

@[simp] theorem State.fresh_dcc (s : State) : (s.fresh).dcc = s.dcc := rfl
@[simp] theorem State.fresh_agenda (s : State) : (s.fresh).agenda = s.agenda := rfl
@[simp] theorem State.fresh_cur (s : State) : (s.fresh).cur = s.cur := rfl
@[simp] theorem State.fresh_rows (s : State) : (s.fresh).rows = s.rows := rfl
@[simp] theorem State.fresh_cores (s : State) : (s.fresh).cores = s.cores := rfl
@[simp] theorem State.fresh_tasks (s : State) : (s.fresh).tasks = s.tasks := rfl
@[simp] theorem State.fresh_modMem (s : State) : (s.fresh).modMem = s.modMem := rfl
@[simp] theorem State.fresh_modCls (s : State) : (s.fresh).modCls = s.modCls := rfl
@[simp] theorem State.fresh_modBase (s : State) : (s.fresh).modBase = s.modBase := rfl
@[simp] theorem State.fresh_modLog (s : State) : (s.fresh).modLog = s.modLog := rfl
@[simp] theorem State.fresh_host (s : State) : (s.fresh).host = s.host := rfl
@[simp] theorem State.fresh_pkg (s : State) : (s.fresh).pkg = s.pkg := rfl
@[simp] theorem State.fresh_sent (s : State) : (s.fresh).sent = s.sent := rfl

@[simp] theorem State.send_dcc (s : State) (x : Sent) : (s.send x).dcc = s.dcc := rfl
@[simp] theorem State.send_agenda (s : State) (x : Sent) : (s.send x).agenda = s.agenda := rfl
@[simp] theorem State.send_cur (s : State) (x : Sent) : (s.send x).cur = s.cur := rfl
@[simp] theorem State.send_rows (s : State) (x : Sent) : (s.send x).rows = s.rows := rfl
@[simp] theorem State.send_cores (s : State) (x : Sent) : (s.send x).cores = s.cores := rfl
@[simp] theorem State.send_tasks (s : State) (x : Sent) : (s.send x).tasks = s.tasks := rfl
@[simp] theorem State.send_modMem (s : State) (x : Sent) : (s.send x).modMem = s.modMem := rfl
@[simp] theorem State.send_modCls (s : State) (x : Sent) : (s.send x).modCls = s.modCls := rfl
@[simp] theorem State.send_modBase (s : State) (x : Sent) : (s.send x).modBase = s.modBase := rfl
@[simp] theorem State.send_modLog (s : State) (x : Sent) : (s.send x).modLog = s.modLog := rfl
@[simp] theorem State.send_host (s : State) (x : Sent) : (s.send x).host = s.host := rfl
@[simp] theorem State.send_pkg (s : State) (x : Sent) : (s.send x).pkg = s.pkg := rfl
@[simp] theorem State.send_next (s : State) (x : Sent) : (s.send x).next = s.next := rfl

/-! ## Register writes at a core -/

@[simp] theorem Core.wa_ls (c : Core) (n : Nat) (x : Word) : (c.wa n x).ls = c.ls := by unfold Core.wa; split <;> rfl
@[simp] theorem Core.wa_lsCls (c : Core) (n : Nat) (x : Word) : (c.wa n x).lsCls = c.lsCls := by unfold Core.wa; split <;> rfl
@[simp] theorem Core.wa_tile (c : Core) (n : Nat) (x : Word) : (c.wa n x).tile = c.tile := by unfold Core.wa; split <;> rfl
@[simp] theorem Core.wa_td (c : Core) (n : Nat) (x : Word) : (c.wa n x).td = c.td := by unfold Core.wa; split <;> rfl
@[simp] theorem Core.wa_g (c : Core) (n : Nat) (x : Word) : (c.wa n x).g = c.g := by unfold Core.wa; split <;> rfl
@[simp] theorem Core.wa_w (c : Core) (n : Nat) (x : Word) : (c.wa n x).w = c.w := by unfold Core.wa; split <;> rfl
@[simp] theorem Core.wa_rx (c : Core) (n : Nat) (x : Word) : (c.wa n x).rx = c.rx := by unfold Core.wa; split <;> rfl
@[simp] theorem Core.wa_win (c : Core) (n : Nat) (x : Word) : (c.wa n x).win = c.win := by unfold Core.wa; split <;> rfl
@[simp] theorem Core.wa_bt (c : Core) (n : Nat) (x : Word) : (c.wa n x).bt = c.bt := by unfold Core.wa; split <;> rfl
@[simp] theorem Core.wa_extents (c : Core) (n : Nat) (x : Word) : (c.wa n x).extents = c.extents := by unfold Core.wa; split <;> rfl
@[simp] theorem Core.wa_port (c : Core) (n : Nat) (x : Word) : (c.wa n x).port = c.port := by unfold Core.wa; split <;> rfl
@[simp] theorem Core.wa_eng (c : Core) (n : Nat) (x : Word) : (c.wa n x).eng = c.eng := by unfold Core.wa; split <;> rfl
@[simp] theorem Core.wa_sigma (c : Core) (n : Nat) (x : Word) : (c.wa n x).sigma = c.sigma := by unfold Core.wa; split <;> rfl
@[simp] theorem Core.wa_p (c : Core) (n : Nat) (x : Word) : (c.wa n x).p = c.p := by unfold Core.wa; split <;> rfl
@[simp] theorem Core.wa_v (c : Core) (n : Nat) (x : Word) : (c.wa n x).v = c.v := by unfold Core.wa; split <;> rfl
@[simp] theorem Core.wa_m (c : Core) (n : Nat) (x : Word) : (c.wa n x).m = c.m := by unfold Core.wa; split <;> rfl

@[simp] theorem Core.wp_ls (c : Core) (n : Nat) (x : Bool) : (c.wp n x).ls = c.ls := by unfold Core.wp; split <;> rfl
@[simp] theorem Core.wp_lsCls (c : Core) (n : Nat) (x : Bool) : (c.wp n x).lsCls = c.lsCls := by unfold Core.wp; split <;> rfl
@[simp] theorem Core.wp_tile (c : Core) (n : Nat) (x : Bool) : (c.wp n x).tile = c.tile := by unfold Core.wp; split <;> rfl
@[simp] theorem Core.wp_td (c : Core) (n : Nat) (x : Bool) : (c.wp n x).td = c.td := by unfold Core.wp; split <;> rfl
@[simp] theorem Core.wp_g (c : Core) (n : Nat) (x : Bool) : (c.wp n x).g = c.g := by unfold Core.wp; split <;> rfl
@[simp] theorem Core.wp_w (c : Core) (n : Nat) (x : Bool) : (c.wp n x).w = c.w := by unfold Core.wp; split <;> rfl
@[simp] theorem Core.wp_rx (c : Core) (n : Nat) (x : Bool) : (c.wp n x).rx = c.rx := by unfold Core.wp; split <;> rfl
@[simp] theorem Core.wp_win (c : Core) (n : Nat) (x : Bool) : (c.wp n x).win = c.win := by unfold Core.wp; split <;> rfl
@[simp] theorem Core.wp_bt (c : Core) (n : Nat) (x : Bool) : (c.wp n x).bt = c.bt := by unfold Core.wp; split <;> rfl
@[simp] theorem Core.wp_extents (c : Core) (n : Nat) (x : Bool) : (c.wp n x).extents = c.extents := by unfold Core.wp; split <;> rfl
@[simp] theorem Core.wp_port (c : Core) (n : Nat) (x : Bool) : (c.wp n x).port = c.port := by unfold Core.wp; split <;> rfl
@[simp] theorem Core.wp_eng (c : Core) (n : Nat) (x : Bool) : (c.wp n x).eng = c.eng := by unfold Core.wp; split <;> rfl
@[simp] theorem Core.wp_sigma (c : Core) (n : Nat) (x : Bool) : (c.wp n x).sigma = c.sigma := by unfold Core.wp; split <;> rfl
@[simp] theorem Core.wp_a (c : Core) (n : Nat) (x : Bool) : (c.wp n x).a = c.a := by unfold Core.wp; split <;> rfl
@[simp] theorem Core.wp_v (c : Core) (n : Nat) (x : Bool) : (c.wp n x).v = c.v := by unfold Core.wp; split <;> rfl
@[simp] theorem Core.wp_m (c : Core) (n : Nat) (x : Bool) : (c.wp n x).m = c.m := by unfold Core.wp; split <;> rfl

@[simp] theorem Core.wm_ls (c : Core) (r : Nat) (bs : List (Nat × Bool)) : (c.wm r bs).ls = c.ls := by unfold Core.wm; split <;> rfl
@[simp] theorem Core.wm_lsCls (c : Core) (r : Nat) (bs : List (Nat × Bool)) : (c.wm r bs).lsCls = c.lsCls := by unfold Core.wm; split <;> rfl
@[simp] theorem Core.wm_tile (c : Core) (r : Nat) (bs : List (Nat × Bool)) : (c.wm r bs).tile = c.tile := by unfold Core.wm; split <;> rfl
@[simp] theorem Core.wm_td (c : Core) (r : Nat) (bs : List (Nat × Bool)) : (c.wm r bs).td = c.td := by unfold Core.wm; split <;> rfl
@[simp] theorem Core.wm_g (c : Core) (r : Nat) (bs : List (Nat × Bool)) : (c.wm r bs).g = c.g := by unfold Core.wm; split <;> rfl
@[simp] theorem Core.wm_w (c : Core) (r : Nat) (bs : List (Nat × Bool)) : (c.wm r bs).w = c.w := by unfold Core.wm; split <;> rfl
@[simp] theorem Core.wm_rx (c : Core) (r : Nat) (bs : List (Nat × Bool)) : (c.wm r bs).rx = c.rx := by unfold Core.wm; split <;> rfl
@[simp] theorem Core.wm_win (c : Core) (r : Nat) (bs : List (Nat × Bool)) : (c.wm r bs).win = c.win := by unfold Core.wm; split <;> rfl
@[simp] theorem Core.wm_bt (c : Core) (r : Nat) (bs : List (Nat × Bool)) : (c.wm r bs).bt = c.bt := by unfold Core.wm; split <;> rfl
@[simp] theorem Core.wm_extents (c : Core) (r : Nat) (bs : List (Nat × Bool)) : (c.wm r bs).extents = c.extents := by unfold Core.wm; split <;> rfl
@[simp] theorem Core.wm_port (c : Core) (r : Nat) (bs : List (Nat × Bool)) : (c.wm r bs).port = c.port := by unfold Core.wm; split <;> rfl
@[simp] theorem Core.wm_eng (c : Core) (r : Nat) (bs : List (Nat × Bool)) : (c.wm r bs).eng = c.eng := by unfold Core.wm; split <;> rfl
@[simp] theorem Core.wm_sigma (c : Core) (r : Nat) (bs : List (Nat × Bool)) : (c.wm r bs).sigma = c.sigma := by unfold Core.wm; split <;> rfl
@[simp] theorem Core.wm_a (c : Core) (r : Nat) (bs : List (Nat × Bool)) : (c.wm r bs).a = c.a := by unfold Core.wm; split <;> rfl
@[simp] theorem Core.wm_p (c : Core) (r : Nat) (bs : List (Nat × Bool)) : (c.wm r bs).p = c.p := by unfold Core.wm; split <;> rfl
@[simp] theorem Core.wm_v (c : Core) (r : Nat) (bs : List (Nat × Bool)) : (c.wm r bs).v = c.v := by unfold Core.wm; split <;> rfl

@[simp] theorem Core.wv_ls (c : Core) (r : Nat) (xs : List (Nat × Lane)) : (c.wv r xs).ls = c.ls := rfl
@[simp] theorem Core.wv_lsCls (c : Core) (r : Nat) (xs : List (Nat × Lane)) : (c.wv r xs).lsCls = c.lsCls := rfl
@[simp] theorem Core.wv_tile (c : Core) (r : Nat) (xs : List (Nat × Lane)) : (c.wv r xs).tile = c.tile := rfl
@[simp] theorem Core.wv_td (c : Core) (r : Nat) (xs : List (Nat × Lane)) : (c.wv r xs).td = c.td := rfl
@[simp] theorem Core.wv_g (c : Core) (r : Nat) (xs : List (Nat × Lane)) : (c.wv r xs).g = c.g := rfl
@[simp] theorem Core.wv_w (c : Core) (r : Nat) (xs : List (Nat × Lane)) : (c.wv r xs).w = c.w := rfl
@[simp] theorem Core.wv_rx (c : Core) (r : Nat) (xs : List (Nat × Lane)) : (c.wv r xs).rx = c.rx := rfl
@[simp] theorem Core.wv_win (c : Core) (r : Nat) (xs : List (Nat × Lane)) : (c.wv r xs).win = c.win := rfl
@[simp] theorem Core.wv_bt (c : Core) (r : Nat) (xs : List (Nat × Lane)) : (c.wv r xs).bt = c.bt := rfl
@[simp] theorem Core.wv_extents (c : Core) (r : Nat) (xs : List (Nat × Lane)) : (c.wv r xs).extents = c.extents := rfl
@[simp] theorem Core.wv_port (c : Core) (r : Nat) (xs : List (Nat × Lane)) : (c.wv r xs).port = c.port := rfl
@[simp] theorem Core.wv_eng (c : Core) (r : Nat) (xs : List (Nat × Lane)) : (c.wv r xs).eng = c.eng := rfl
@[simp] theorem Core.wv_sigma (c : Core) (r : Nat) (xs : List (Nat × Lane)) : (c.wv r xs).sigma = c.sigma := rfl
@[simp] theorem Core.wv_a (c : Core) (r : Nat) (xs : List (Nat × Lane)) : (c.wv r xs).a = c.a := rfl
@[simp] theorem Core.wv_p (c : Core) (r : Nat) (xs : List (Nat × Lane)) : (c.wv r xs).p = c.p := rfl
@[simp] theorem Core.wv_m (c : Core) (r : Nat) (xs : List (Nat × Lane)) : (c.wv r xs).m = c.m := rfl

@[simp] theorem Core.store_tile (c : Core) (bs : List (Nat × Byte)) (ps : List Nat) : (c.store bs ps).tile = c.tile := rfl
@[simp] theorem Core.store_td (c : Core) (bs : List (Nat × Byte)) (ps : List Nat) : (c.store bs ps).td = c.td := rfl
@[simp] theorem Core.store_g (c : Core) (bs : List (Nat × Byte)) (ps : List Nat) : (c.store bs ps).g = c.g := rfl
@[simp] theorem Core.store_w (c : Core) (bs : List (Nat × Byte)) (ps : List Nat) : (c.store bs ps).w = c.w := rfl
@[simp] theorem Core.store_rx (c : Core) (bs : List (Nat × Byte)) (ps : List Nat) : (c.store bs ps).rx = c.rx := rfl
@[simp] theorem Core.store_win (c : Core) (bs : List (Nat × Byte)) (ps : List Nat) : (c.store bs ps).win = c.win := rfl
@[simp] theorem Core.store_bt (c : Core) (bs : List (Nat × Byte)) (ps : List Nat) : (c.store bs ps).bt = c.bt := rfl
@[simp] theorem Core.store_extents (c : Core) (bs : List (Nat × Byte)) (ps : List Nat) : (c.store bs ps).extents = c.extents := rfl
@[simp] theorem Core.store_port (c : Core) (bs : List (Nat × Byte)) (ps : List Nat) : (c.store bs ps).port = c.port := rfl
@[simp] theorem Core.store_eng (c : Core) (bs : List (Nat × Byte)) (ps : List Nat) : (c.store bs ps).eng = c.eng := rfl
@[simp] theorem Core.store_sigma (c : Core) (bs : List (Nat × Byte)) (ps : List Nat) : (c.store bs ps).sigma = c.sigma := rfl
@[simp] theorem Core.store_a (c : Core) (bs : List (Nat × Byte)) (ps : List Nat) : (c.store bs ps).a = c.a := rfl
@[simp] theorem Core.store_p (c : Core) (bs : List (Nat × Byte)) (ps : List Nat) : (c.store bs ps).p = c.p := rfl
@[simp] theorem Core.store_v (c : Core) (bs : List (Nat × Byte)) (ps : List Nat) : (c.store bs ps).v = c.v := rfl
@[simp] theorem Core.store_m (c : Core) (bs : List (Nat × Byte)) (ps : List Nat) : (c.store bs ps).m = c.m := rfl

@[simp] theorem Core.storePart_tile (c : Core) (bs : List (Nat × Byte)) (whole ps : List Nat) : (c.storePart bs whole ps).tile = c.tile := rfl
@[simp] theorem Core.storePart_td (c : Core) (bs : List (Nat × Byte)) (whole ps : List Nat) : (c.storePart bs whole ps).td = c.td := rfl
@[simp] theorem Core.storePart_g (c : Core) (bs : List (Nat × Byte)) (whole ps : List Nat) : (c.storePart bs whole ps).g = c.g := rfl
@[simp] theorem Core.storePart_w (c : Core) (bs : List (Nat × Byte)) (whole ps : List Nat) : (c.storePart bs whole ps).w = c.w := rfl
@[simp] theorem Core.storePart_rx (c : Core) (bs : List (Nat × Byte)) (whole ps : List Nat) : (c.storePart bs whole ps).rx = c.rx := rfl
@[simp] theorem Core.storePart_win (c : Core) (bs : List (Nat × Byte)) (whole ps : List Nat) : (c.storePart bs whole ps).win = c.win := rfl
@[simp] theorem Core.storePart_bt (c : Core) (bs : List (Nat × Byte)) (whole ps : List Nat) : (c.storePart bs whole ps).bt = c.bt := rfl
@[simp] theorem Core.storePart_extents (c : Core) (bs : List (Nat × Byte)) (whole ps : List Nat) : (c.storePart bs whole ps).extents = c.extents := rfl
@[simp] theorem Core.storePart_port (c : Core) (bs : List (Nat × Byte)) (whole ps : List Nat) : (c.storePart bs whole ps).port = c.port := rfl
@[simp] theorem Core.storePart_eng (c : Core) (bs : List (Nat × Byte)) (whole ps : List Nat) : (c.storePart bs whole ps).eng = c.eng := rfl
@[simp] theorem Core.storePart_sigma (c : Core) (bs : List (Nat × Byte)) (whole ps : List Nat) : (c.storePart bs whole ps).sigma = c.sigma := rfl
@[simp] theorem Core.storePart_a (c : Core) (bs : List (Nat × Byte)) (whole ps : List Nat) : (c.storePart bs whole ps).a = c.a := rfl
@[simp] theorem Core.storePart_p (c : Core) (bs : List (Nat × Byte)) (whole ps : List Nat) : (c.storePart bs whole ps).p = c.p := rfl
@[simp] theorem Core.storePart_v (c : Core) (bs : List (Nat × Byte)) (whole ps : List Nat) : (c.storePart bs whole ps).v = c.v := rfl
@[simp] theorem Core.storePart_m (c : Core) (bs : List (Nat × Byte)) (whole ps : List Nat) : (c.storePart bs whole ps).m = c.m := rfl

/-! ## Places -/

/-- Changing a core changes that core. -/
theorem State.coreAt_modCore_same (s : State) (r c : Fin 8) (f : Core → Core) : (s.modCore r c f).coreAt r c = f (s.coreAt r c) := by
  simp [State.coreAt, State.modCore]

/-- Changing a core changes no other core. -/
theorem State.coreAt_modCore_other (s : State) {r c r' c' : Fin 8} (f : Core → Core) (h : ¬(r' = r ∧ c' = c)) :
    (s.modCore r c f).coreAt r' c' = s.coreAt r' c' := by
  simp only [State.coreAt, State.modCore, Fin.getElem_fin]
  by_cases hr : r' = r
  · subst hr
    have hc : c.1 ≠ c'.1 := fun e => h ⟨rfl, (Fin.ext e).symm⟩
    simp [hc]
  · have : r.1 ≠ r'.1 := fun e => hr (Fin.ext e).symm
    simp [this]

@[simp] theorem State.coreAt_modRow (s : State) (r r' c' : Fin 8) (f : Row → Row) : (s.modRow r f).coreAt r' c' = s.coreAt r' c' := rfl
@[simp] theorem State.coreAt_modTask (s : State) (t : Slot) (r' c' : Fin 8) (f : Task → Task) : (s.modTask t f).coreAt r' c' = s.coreAt r' c' := rfl
@[simp] theorem State.coreAt_modPkg (s : State) (r' c' : Fin 8) (f : Pkg → Pkg) : (s.modPkg f).coreAt r' c' = s.coreAt r' c' := rfl
@[simp] theorem State.coreAt_add (s : State) (r' c' : Fin 8) (e : Entry) : (s.add e).coreAt r' c' = s.coreAt r' c' := rfl

@[simp] theorem State.taskAt_modCore (s : State) (t : Slot) (r c : Fin 8) (f : Core → Core) : (s.modCore r c f).taskAt t = s.taskAt t := rfl
@[simp] theorem State.taskAt_modRow (s : State) (t : Slot) (r : Fin 8) (f : Row → Row) : (s.modRow r f).taskAt t = s.taskAt t := rfl
@[simp] theorem State.taskAt_modPkg (s : State) (t : Slot) (f : Pkg → Pkg) : (s.modPkg f).taskAt t = s.taskAt t := rfl
@[simp] theorem State.taskAt_add (s : State) (t : Slot) (e : Entry) : (s.add e).taskAt t = s.taskAt t := rfl

/-! ## The host's accesses (R426) -/

@[simp] theorem State.ifUp_up {s : State} (t : State) (h : s.hostUp = true) : s.ifUp t = t := by simp [State.ifUp, h]
@[simp] theorem State.ifUp_down {s : State} (t : State) (h : s.hostUp = false) : s.ifUp t = s := by simp [State.ifUp, h]

/-- A property of every core that `f` keeps holds of every core after a core is changed. -/
theorem State.modCore_cores {P : Core → Prop} (s : State) (r c : Fin 8) (f : Core → Core) (hf : ∀ k, P k → P (f k))
    (h : ∀ r' c', P (s.coreAt r' c')) (r' c' : Fin 8) : P ((s.modCore r c f).coreAt r' c') := by
  by_cases e : r' = r ∧ c' = c
  · obtain ⟨rfl, rfl⟩ := e
    rw [State.coreAt_modCore_same]
    exact hf _ (h r' c')
  · rw [State.coreAt_modCore_other s f e]
    exact h r' c'

/-! ## Reads of hard-wired registers (R159, R196, R219) -/

@[simp] theorem Core.ra_zero (c : Core) : c.ra 0 = 0 := rfl
@[simp] theorem Core.rp_seven (c : Core) : c.rp 7 = true := rfl
@[simp] theorem Core.rm_seven (c : Core) (i : Nat) : c.rm 7 i = true := rfl
@[simp] theorem Row.rk_zero (r : Row) (h : Bool) : r.rk h 0 = 0 := rfl
@[simp] theorem Row.rq_seven (r : Row) (h : Bool) : r.rq h 7 = true := rfl

/-! ## Repeated updates -/

/-- A property that every update of a list keeps holds after all of them. -/
theorem forEach_keeps {α : Type} {P : State → Prop} (xs : List α) (f : α → State → State) (hf : ∀ x s, P s → P (f x s)) {s : State}
    (h : P s) : P (forEach xs f s) := by
  unfold forEach
  induction xs generalizing s with
  | nil => exact h
  | cons x xs ih => exact ih (hf x s h)

/-- A field that every update of a list leaves is left by all of them. -/
theorem forEach_field {α β : Type} (g : State → β) (xs : List α) (f : α → State → State) (hf : ∀ x s, g (f x s) = g s) (s : State) :
    g (forEach xs f s) = g s :=
  forEach_keeps (P := fun t => g t = g s) xs f (fun x t h => (hf x t).trans h) rfl

end Sys2Proof.Machine
end

