-- ==== Sys2Proof/Laws/Ops.lean ====
section
/-! SUPPORT. The shared operations: which of them leave every memory as it is, and which keep its canonical form. -/

namespace Sys2Proof.Machine

open Sys2Proof

/-! ## Operations that store nothing -/

/-- Module memory, now and as it stood when a schedule stalled, host memory and every local store hold the same bytes. -/
def KeepsMemory (s t : State) : Prop :=
  t.modMem = s.modMem ∧ t.modBase = s.modBase ∧ t.host = s.host ∧ ∀ r c : Fin 8, (t.coreAt r c).ls = (s.coreAt r c).ls

theorem KeepsMemory.refl (s : State) : KeepsMemory s s := ⟨rfl, rfl, rfl, fun _ _ => rfl⟩

theorem KeepsMemory.trans {s t u : State} (h : KeepsMemory s t) (k : KeepsMemory t u) : KeepsMemory s u :=
  ⟨k.1.trans h.1, k.2.1.trans h.2.1, k.2.2.1.trans h.2.2.1, fun r c => (k.2.2.2 r c).trans (h.2.2.2 r c)⟩

theorem KeepsMemory.memoryForm {s t : State} (h : KeepsMemory s t) (hs : MemoryForm s) : MemoryForm t :=
  ⟨by rw [h.1]; exact hs.1, by rw [h.2.1]; exact hs.2.1, by rw [h.2.2.1]; exact hs.2.2.1, fun r c => by rw [h.2.2.2 r c]; exact hs.2.2.2 r c⟩

/-- An update that leaves the cores and both memories stores nothing. -/
theorem keepsMemory_of_fields {s t : State} (hm : t.modMem = s.modMem) (hb : t.modBase = s.modBase) (hh : t.host = s.host) (hc : t.cores = s.cores) :
    KeepsMemory s t :=
  ⟨hm, hb, hh, fun r c => by simp [State.coreAt, hc]⟩

/-- The same after a further update of the state that touches no memory. -/
theorem KeepsMemory.fields {s t u : State} (h : KeepsMemory s t) (hm : u.modMem = t.modMem) (hb : u.modBase = t.modBase) (hh : u.host = t.host)
    (hc : u.cores = t.cores) : KeepsMemory s u :=
  h.trans (keepsMemory_of_fields hm hb hh hc)

section
variable {s t : State} (h : KeepsMemory s t)
include h

theorem KeepsMemory.agenda (x : List Entry) : KeepsMemory s { t with agenda := x } := h.fields rfl rfl rfl rfl
theorem KeepsMemory.add (e : Entry) : KeepsMemory s (t.add e) := h.fields rfl rfl rfl rfl
theorem KeepsMemory.addCore (dt rank ord : Nat) (w : Work) : KeepsMemory s (t.addCore dt rank ord w) := h.fields rfl rfl rfl rfl
theorem KeepsMemory.addSeq (dt rank ord : Nat) (w : Work) : KeepsMemory s (t.addSeq dt rank ord w) := h.fields rfl rfl rfl rfl
theorem KeepsMemory.addGang (due rank ord : Nat) (p : Part) (w : Work) : KeepsMemory s (t.addGang due rank ord p w) := h.fields rfl rfl rfl rfl
theorem KeepsMemory.addDomain (due rank : Nat) (w : Work) : KeepsMemory s (t.addDomain due rank w) := h.fields rfl rfl rfl rfl
theorem KeepsMemory.modRow (r : Fin 8) (f : Row → Row) : KeepsMemory s (t.modRow r f) := h.fields rfl rfl rfl rfl
theorem KeepsMemory.hereRow (f : Row → Row) : KeepsMemory s (t.hereRow f) := h.fields rfl rfl rfl rfl
theorem KeepsMemory.modTask (k : Slot) (f : Task → Task) : KeepsMemory s (t.modTask k f) := h.fields rfl rfl rfl rfl
theorem KeepsMemory.hereTask (f : Task → Task) : KeepsMemory s (t.hereTask f) := h.fields rfl rfl rfl rfl
theorem KeepsMemory.modPkg (f : Pkg → Pkg) : KeepsMemory s (t.modPkg f) := h.fields rfl rfl rfl rfl
theorem KeepsMemory.fresh : KeepsMemory s t.fresh := h.fields rfl rfl rfl rfl
theorem KeepsMemory.send (x : Sent) : KeepsMemory s (t.send x) := h.fields rfl rfl rfl rfl
theorem KeepsMemory.tick : KeepsMemory s t.tick := h.fields rfl rfl rfl rfl

/-- Changing a core by a function that leaves its local store stores nothing. -/
theorem KeepsMemory.modCore (r c : Fin 8) {f : Core → Core} (hf : ∀ k, (f k).ls = k.ls) : KeepsMemory s (t.modCore r c f) :=
  h.trans ⟨rfl, rfl, rfl, fun r' c' => by
    by_cases e : r' = r ∧ c' = c
    · obtain ⟨rfl, rfl⟩ := e
      rw [State.coreAt_modCore_same, hf]
    · rw [State.coreAt_modCore_other t f e]⟩

theorem KeepsMemory.here {f : Core → Core} (hf : ∀ k, (f k).ls = k.ls) : KeepsMemory s (t.here f) := h.modCore _ _ hf

theorem KeepsMemory.forEach {α : Type} (xs : List α) {f : α → State → State} (hf : ∀ x u, KeepsMemory u (f x u)) :
    KeepsMemory s (forEach xs f t) :=
  forEach_keeps (P := KeepsMemory s) xs f (fun x u k => k.trans (hf x u)) h

end

/-! ## Stop fronts and traps (R178 to R182) -/

theorem stopCore_keepsMemory (slot : Slot) (r c : Fin 8) (x : Nat) (s : State) : KeepsMemory s (State.stopCore slot r c x s) := by
  unfold State.stopCore
  extract_lets old new
  split
  · exact .refl s
  · refine KeepsMemory.add ?_ _
    refine KeepsMemory.modCore (.refl s) r c ?_
    exact fun _ => rfl

theorem stopSeq_keepsMemory (slot : Slot) (r : Fin 8) (x : Nat) (s : State) : KeepsMemory s (State.stopSeq slot r x s) := by
  unfold State.stopSeq
  extract_lets old new
  split
  · exact .refl s
  · exact ((KeepsMemory.refl s).modRow r _).add _

section
variable {s t : State} (h : KeepsMemory s t)
include h

theorem KeepsMemory.stopCore (slot : Slot) (r c : Fin 8) (x : Nat) : KeepsMemory s (State.stopCore slot r c x t) := h.trans (stopCore_keepsMemory _ _ _ _ _)

theorem KeepsMemory.stopSeq (slot : Slot) (r : Fin 8) (x : Nat) : KeepsMemory s (State.stopSeq slot r x t) := h.trans (stopSeq_keepsMemory _ _ _ _)

theorem KeepsMemory.frontRow (slot : Slot) (r : Fin 8) (c x : Nat) : KeepsMemory s (State.frontRow slot r c x t) :=
  (h.stopSeq slot r _).forEach _ fun c' u => stopCore_keepsMemory slot r c' _ u

theorem KeepsMemory.frontAll (slot : Slot) (x : Nat) : KeepsMemory s (State.frontAll slot x t) :=
  h.forEach _ fun r u => (stopSeq_keepsMemory slot r x u).forEach _ fun c v => stopCore_keepsMemory slot r c x v

end

/-- Putting a register back leaves the local store. -/
theorem Core.restoreReg_ls (c : Core) (w : RegWrite) : (c.restoreReg w).ls = c.ls := by
  cases w with
  | coreCtl sel x =>
    simp only [Core.restoreReg]
    repeat' split
    all_goals rfl
  | a n x => simp [Core.restoreReg]
  | p n x => simp [Core.restoreReg]
  | m n x => simp [Core.restoreReg]
  | _ => rfl

theorem restoreAll_ls (ws : List RegWrite) (c : Core) : (ws.foldl Core.restoreReg c).ls = c.ls := by
  induction ws generalizing c with
  | nil => rfl
  | cons w ws ih => exact (ih (c.restoreReg w)).trans (c.restoreReg_ls w)

theorem undone_ls (us : List Undone) (c : Core) : (us.foldr (fun u k => u.olds.foldl Core.restoreReg k) c).ls = c.ls := by
  induction us with
  | nil => rfl
  | cons u us ih => exact (restoreAll_ls u.olds _).trans ih

theorem undoCore_keepsMemory (slot : Slot) (r c : Fin 8) (x : Nat) (s : State) : KeepsMemory s (State.undoCore slot r c x s) := by
  unfold State.undoCore
  extract_lets k t
  split
  · exact .refl s
  · refine KeepsMemory.agenda (t := t) ?_ _
    refine KeepsMemory.modCore (.refl s) r c ?_
    exact fun k => undone_ls k.undo k

theorem undoSeq_keepsMemory (slot : Slot) (r : Fin 8) (x : Nat) (s : State) : KeepsMemory s (State.undoSeq slot r x s) := by
  unfold State.undoSeq
  extract_lets w t
  split
  · exact .refl s
  · exact KeepsMemory.agenda (t := t) (KeepsMemory.modRow (.refl s) r _) _

theorem startDrains_keepsMemory (slot : Slot) (s : State) : KeepsMemory s (State.startDrains slot s) := by
  unfold State.startDrains
  extract_lets t go u
  split
  · exact .refl s
  · exact ((KeepsMemory.refl s).modTask slot _).forEach _ fun st v => (KeepsMemory.refl v).add _

theorem terminate_keepsMemory (slot : Slot) (rep : EndReport) (s : State) : KeepsMemory s (State.terminate slot rep s) := by
  unfold State.terminate
  extract_lets
  split
  · exact .refl s
  · refine KeepsMemory.add (KeepsMemory.trans ?_ (startDrains_keepsMemory slot _)) _
    exact keepsMemory_of_fields rfl rfl rfl rfl

theorem markSecondary_keepsMemory (s : State) (slot : Slot) (st : Stop) : KeepsMemory s (s.markSecondary slot st) := by
  unfold State.markSecondary
  repeat' split
  · exact .refl s
  · exact .refl s
  · exact (KeepsMemory.refl s).modRow _ _
  · refine KeepsMemory.modCore (.refl s) _ _ ?_
    exact fun _ => rfl

/-- Taking a trap stores nothing. -/
theorem takeTrap_keepsMemory (s : State) (place : Nat) (q : Bool) (x : Nat) (i : TrapInfo) : KeepsMemory s (s.takeTrap place q x i) := by
  unfold State.takeTrap
  extract_lets slot r t key c col prim sec a b b' d e g
  split
  · exact terminate_keepsMemory _ _ s
  · have ha : KeepsMemory s a := by
      show KeepsMemory s (if q then _ else _)
      split
      · exact (KeepsMemory.refl s).hereRow _
      · refine KeepsMemory.modCore (.refl s) _ _ ?_
        exact fun _ => rfl
    have hb : KeepsMemory s b := by
      show KeepsMemory s (match t.stop with | some st => _ | none => _)
      split
      · split
        · refine KeepsMemory.trans ?_ (markSecondary_keepsMemory _ _ _)
          refine KeepsMemory.forEach (ha.modTask slot _) _ ?_
          exact fun r u => KeepsMemory.modRow (.refl u) r _
        · exact ha
      · exact (ha.modTask slot _).addDomain _ _ _
    have hd : KeepsMemory s d := (hb.hereRow _).frontRow slot r c x
    have he : KeepsMemory s e := by
      show KeepsMemory s (if prim then _ else _)
      split
      · exact hd.frontAll slot _
      · exact hd
    have hg : KeepsMemory s g := by
      show KeepsMemory s (if c = 0 then _ else _)
      split
      · exact he.agenda _
      · exact he
    exact (hg.trans (undoCore_keepsMemory _ _ _ _ _)).trans (undoSeq_keepsMemory _ _ _ _)

theorem holdAccesses_keepsMemory (s : State) (stand : Bool) : KeepsMemory s (s.holdAccesses stand) := by
  unfold State.holdAccesses
  refine KeepsMemory.agenda ?_ _
  split
  · exact (KeepsMemory.refl s).here fun _ => rfl
  · exact .refl s

theorem trapWord_keepsMemory (s : State) (code detail info : Nat) : KeepsMemory s (s.trapWord code detail info) :=
  ((holdAccesses_keepsMemory s _).add _).trans (takeTrap_keepsMemory _ _ _ _ _)

theorem trapSeq_keepsMemory (s : State) (code detail : Nat) : KeepsMemory s (s.trapSeq code detail) :=
  ((KeepsMemory.refl s).add s.cur).trans (takeTrap_keepsMemory _ _ _ _ _)

theorem trapBack_keepsMemory (s : State) (code nth : Nat) (marks : Option Nat) : KeepsMemory s (s.trapBack code nth marks) :=
  takeTrap_keepsMemory _ _ _ _ _

theorem markPoison_keepsMemory (s : State) : KeepsMemory s s.markPoison := by
  unfold State.markPoison
  extract_lets c
  split
  · exact .refl s
  · exact (KeepsMemory.refl s).hereTask _

/-! ## Operations that store -/

/-- A store keeps the canonical form of the local store. -/
theorem Core.store_wf (c : Core) (bs : List (Nat × Byte)) (ps : List Nat) (h : Memory.wf c.ls = true) : Memory.wf (c.store bs ps).ls = true :=
  Sparse.wf_setMany 0 bs h

/-- A store leaves every byte outside its list. -/
theorem Core.store_other (c : Core) (bs : List (Nat × Byte)) (ps : List Nat) {a : Nat} (h : ∀ e ∈ bs, e.1 ≠ a) :
    Memory.byte (c.store bs ps).ls a = Memory.byte c.ls a :=
  Sparse.get_setMany_other 0 bs c.ls h

theorem Core.storeNibs_wf (c : Core) (ns : List (Nat × Nat)) (h : Memory.wf c.ls = true) : Memory.wf (c.storeNibs ns).ls = true := by
  exact Sparse.wf_setMany 0 _ h

/-- Changing a core by a function that keeps the form of its local store keeps the form of the state. -/
theorem modCore_memoryForm (s : State) (r c : Fin 8) (f : Core → Core) (hf : ∀ k : Core, Memory.wf k.ls = true → Memory.wf (f k).ls = true)
    (h : MemoryForm s) : MemoryForm (s.modCore r c f) :=
  ⟨h.1, h.2.1, h.2.2.1, s.modCore_cores (P := fun k => Memory.wf k.ls = true) r c f hf h.2.2.2⟩

theorem here_memoryForm (s : State) (f : Core → Core) (hf : ∀ k : Core, Memory.wf k.ls = true → Memory.wf (f k).ls = true) (h : MemoryForm s) :
    MemoryForm (s.here f) :=
  modCore_memoryForm s _ _ f hf h

/-- Writing module or host memory in form keeps the form of the state. -/
theorem modMem_memoryForm {s : State} {m : Memory} (hm : Memory.wf m = true) (h : MemoryForm s) : MemoryForm { s with modMem := m } :=
  ⟨hm, h.2.1, h.2.2.1, h.2.2.2⟩

theorem host_memoryForm {s : State} {m : Memory} (hm : Memory.wf m = true) (h : MemoryForm s) : MemoryForm { s with host := m } :=
  ⟨h.1, h.2.1, hm, h.2.2.2⟩

theorem forEach_memoryForm {α : Type} (xs : List α) (f : α → State → State) (hf : ∀ x s, MemoryForm s → MemoryForm (f x s)) {s : State}
    (h : MemoryForm s) : MemoryForm (forEach xs f s) :=
  forEach_keeps xs f hf h

/-! ## The agenda -/

/-- The work picked is on the agenda, it is ready, and the rest is the agenda without it. -/
theorem pickFrom_spec (s : State) (es : List Entry) {e : Entry} {rest : List Entry} (h : s.pickFrom es = some (e, rest)) :
    s.ready e = true ∧ es.Perm (e :: rest) := by
  induction es generalizing e rest with
  | nil => simp [State.pickFrom] at h
  | cons f fs ih =>
    rw [State.pickFrom] at h
    split at h
    · split at h
      · obtain ⟨rfl, rfl⟩ := by simpa using h
        exact ⟨‹_›, .refl _⟩
      · simp at h
    · rename_i g gs hg
      obtain ⟨hr, hp⟩ := ih hg
      split at h
      · rename_i hc
        obtain ⟨rfl, rfl⟩ := by simpa using h
        exact ⟨by simp at hc; exact hc.1, .refl _⟩
      · obtain ⟨rfl, rfl⟩ := by simpa using h
        exact ⟨hr, (hp.cons f).trans (.swap g f gs)⟩

/-- Nothing is picked only when nothing on the agenda is ready. -/
theorem pickFrom_none (s : State) (es : List Entry) (h : s.pickFrom es = none) : ∀ e ∈ es, s.ready e = false := by
  induction es with
  | nil => simp
  | cons f fs ih =>
    rw [State.pickFrom] at h
    split at h
    · rename_i hn
      split at h
      · simp at h
      · intro e he
        rcases List.mem_cons.1 he with rfl | he
        · simp_all
        · exact ih hn e he
    · split at h <;> simp at h

/-! ## Counts -/

@[simp] theorem Task.tick_live (t : Task) : t.tick.live = t.live := by
  unfold Task.tick
  repeat' split
  all_goals rfl

/-- GCC never falls as a cycle passes, and rises by one at most (R25). -/
theorem Task.tick_gcc (t : Task) : t.tick.gcc = t.gcc ∨ t.tick.gcc = t.gcc + 1 := by
  unfold Task.tick
  repeat' split
  all_goals simp

/-! ## Holds (R34, R37) -/

theorem requestHold_keepsMemory (slot : Slot) (h n : Nat) (late : Bool) (s : State) : KeepsMemory s (s.requestHold slot h n late) := by
  unfold State.requestHold State.announceStop
  simp only []
  split
  · exact .refl s
  split
  · exact (KeepsMemory.refl s).add _
  split
  · exact (KeepsMemory.refl s).add _
  split
  · exact (KeepsMemory.refl s).modTask _ _
  · exact ((KeepsMemory.refl s).modTask _ _).add _

theorem callAt_keepsMemory (slot : Slot) (id y : Nat) (s : State) : KeepsMemory s (s.callAt slot id y) := by
  unfold State.callAt
  simp only []
  split
  · exact .refl s
  · exact (KeepsMemory.refl s).add _

theorem callAgain_keepsMemory (slot : Slot) (id h : Nat) (s : State) : KeepsMemory s (s.callAgain slot id h) := by
  unfold State.callAgain
  simp only []
  split
  · exact callAt_keepsMemory ..
  · exact .refl s

theorem askHold_keepsMemory (slot : Slot) (l : LateMark) (s : State) : KeepsMemory s (s.askHold slot l) :=
  (((KeepsMemory.refl s).modTask _ _).trans (requestHold_keepsMemory ..)).trans (callAgain_keepsMemory ..)

theorem judgeLate_keepsMemory (slot : Slot) (l : LateMark) (s : State) : KeepsMemory s (s.judgeLate slot l) := by
  unfold State.judgeLate
  split
  · exact .refl s
  split
  · exact callAgain_keepsMemory ..
  · exact askHold_keepsMemory ..

theorem recall_keepsMemory (slot : Slot) (s : State) : KeepsMemory s (s.recall slot) :=
  ((KeepsMemory.refl s).agenda _).forEach _ fun _ u => callAt_keepsMemory _ _ _ u

/-! ## Scale-up ports (R419, R423, R424) -/

@[simp] theorem SuPort.settle_buf (p : SuPort) : p.settle.buf = p.buf := by unfold SuPort.settle; split <;> rfl
@[simp] theorem SuPort.settle_txs (p : SuPort) : p.settle.txs = p.txs := by unfold SuPort.settle; split <;> rfl
@[simp] theorem SuPort.settle_seq (p : SuPort) : p.settle.seq = p.seq := by unfold SuPort.settle; split <;> rfl
@[simp] theorem SuPort.settle_egress (p : SuPort) : p.settle.egress = p.egress := by unfold SuPort.settle; split <;> rfl
@[simp] theorem SuPort.settle_quar (p : SuPort) : p.settle.quar = p.quar := by unfold SuPort.settle; split <;> rfl

/-- OLD stands while the replay buffer holds a flit of the slot that transmitted before. -/
@[simp] theorem SuPort.settle_old (p : SuPort) : p.settle.old = (p.old && p.buf.any fun f => f.slot == some (1 - p.txs)) := by
  unfold SuPort.settle
  cases ho : p.old <;> cases p.buf.any (fun f => f.slot == some (1 - p.txs)) <;> simp [ho]

/-- The key of the slot that transmits is never touched. -/
theorem SuPort.settle_key (p : SuPort) {k : Nat} (h : k ≠ 1 - p.txs) :
    Sparse.get 0 p.settle.keys k = Sparse.get 0 p.keys k ∧ Sparse.get false p.settle.valid k = Sparse.get false p.valid k := by
  unfold SuPort.settle
  split
  · exact ⟨Sparse.get_set_other 0 p.keys 0 h, Sparse.get_set_other false p.valid false h⟩
  · exact ⟨rfl, rfl⟩

/-- Changing a task changes that task and no other. -/
theorem State.taskAt_modTask (s : State) (t u : Slot) (f : Task → Task) :
    (s.modTask t f).taskAt u = if u = t then f (s.taskAt t) else s.taskAt u :=
  Sparse.get_set ({} : Task) s.tasks t u _

/-- A domain cycle passes for every task. -/
theorem State.taskAt_tick (s : State) (t : Slot) : s.tick.taskAt t = (s.taskAt t).tick := Sparse.get_mapVals ({} : Task) Task.tick rfl s.tasks t

theorem countTags_keepsMemory (s : State) (via : Option (Nat × Nat)) (seals : List (Nat × BitVec 128)) (bs : List Byte) :
    KeepsMemory s (s.countTags via seals bs) := by
  unfold State.countTags
  split
  · exact (KeepsMemory.refl s).modPkg _
  · exact .refl s

theorem keptLate_keepsMemory (s : State) (via : Option (Nat × Nat)) (id : Nat) : KeepsMemory s (s.keptLate via id) := by
  unfold State.keptLate
  split
  · exact .refl s
  · exact (KeepsMemory.refl s).addDomain _ _ _

end Sys2Proof.Machine
end

