-- ==== Sys2Proof/Laws/Words.lean ====
section
/-! SUPPORT. What the shared frame of the words does: disabled words, results put on the agenda, write-backs, event records and
reads of the local store. -/

namespace Sys2Proof.Machine

open Sys2Proof

/-! ## The frame of a word -/

/-- A core word that is not enabled leaves the state (R59). -/
theorem coreWord_disabled {h : Hdr} {s : State} (f : State → State) (he : s.core.enabled h = false) : coreWord h f s = s := by
  simp [coreWord, he]

theorem coreWord_enabled {h : Hdr} {s : State} (f : State → State) (he : s.core.enabled h = true) : coreWord h f s = f s := by
  simp [coreWord, he]

/-- An S word that is not enabled leaves the state (R59). -/
theorem seqWord_disabled {h : Hdr} {s : State} (f : State → State) (he : s.row.enabled h = false) : seqWord h f s = s := by
  simp [seqWord, he]

theorem seqWord_enabled {h : Hdr} {s : State} (f : State → State) (he : s.row.enabled h = true) : seqWord h f s = f s := by
  simp [seqWord, he]

/-- A word stores nothing when its effect stores nothing. -/
theorem coreWord_keepsMemory (h : Hdr) {f : State → State} {s : State} (hf : KeepsMemory s (f s)) : KeepsMemory s (coreWord h f s) := by
  unfold coreWord
  split
  · exact hf
  · exact .refl s

theorem seqWord_keepsMemory (h : Hdr) {f : State → State} {s : State} (hf : KeepsMemory s (f s)) : KeepsMemory s (seqWord h f s) := by
  unfold seqWord
  split
  · exact hf
  · exact .refl s

/-! ## Results (R4, R161) -/

/-- Putting a result on the agenda changes the agenda and the model's counter, and nothing else. -/
theorem writeBack_eq (s : State) (lat : Nat) (ws : List RegWrite) (ev : EvCount) (b : Option Nat) :
    s.writeBack lat ws ev b = { s with
      agenda := s.agenda ++ [{ s.cur with
        gang := true, due := s.gcc + lat, rank := 3, ord := s.next, part := .core, urgent := false, args := []
        work := .ev (.registerWriteBack { wid := s.next, writes := ws, ev := ev, bound := b, nth := s.core.nIssued - 1 }) }]
      next := s.next + 1 } := rfl

theorem writeSeq_eq (s : State) (lat : Nat) (ws : List RegWrite) :
    s.writeSeq lat ws = { s with
      agenda := s.agenda ++ [{ s.cur with
        gang := true, due := s.gcc + lat, rank := 3, ord := s.next, part := if s.row.handler then .free else .seq, urgent := false, args := []
        work := .ev (.registerWriteBack { wid := s.next, writes := ws }) }]
      next := s.next + 1 } := rfl

theorem writeBack_keepsMemory (s : State) (lat : Nat) (ws : List RegWrite) (ev : EvCount) (b : Option Nat) : KeepsMemory s (s.writeBack lat ws ev b) :=
  keepsMemory_of_fields rfl rfl rfl rfl

theorem writeSeq_keepsMemory (s : State) (lat : Nat) (ws : List RegWrite) : KeepsMemory s (s.writeSeq lat ws) := keepsMemory_of_fields rfl rfl rfl rfl

theorem writeCtl_keepsMemory (s : State) (lat : Nat) (ws : List RegWrite) : KeepsMemory s (s.writeCtl lat ws) := keepsMemory_of_fields rfl rfl rfl rfl

theorem aluWord_keepsMemory (h : Hdr) (f : RRR) (lat : Nat) (g : Word → Word → Word) (s : State) : KeepsMemory s (aluWord h f lat g s) :=
  coreWord_keepsMemory h (writeBack_keepsMemory _ _ _ _ _)

theorem uniWord_keepsMemory (h : Hdr) (f : SRR) (lat : Nat) (g : Word → Word → Word) (s : State) : KeepsMemory s (uniWord h f lat g s) :=
  seqWord_keepsMemory h (writeSeq_keepsMemory _ _ _)

/-! ## Records and counts -/

theorem interrupt_keepsMemory (s : State) (v : Nat) : KeepsMemory s (s.interrupt v) := (KeepsMemory.refl s).modPkg _

theorem evqAdd_keepsMemory (s : State) (key : Nat) (r : List Byte) : KeepsMemory s (s.evqAdd key r) := by
  unfold State.evqAdd
  extract_lets first t
  split
  · exact ((KeepsMemory.refl s).modPkg _).add _
  · exact (KeepsMemory.refl s).modPkg _

theorem pkgEvent_keepsMemory (s : State) (type inst : Nat) (v : Option Nat) : KeepsMemory s (s.pkgEvent type inst v) := evqAdd_keepsMemory _ _ _

theorem modEvent_keepsMemory (s : State) (type m stack maddr ch task : Nat) : KeepsMemory s (s.modEvent type m stack maddr ch task) :=
  evqAdd_keepsMemory _ _ _

theorem countCorr_keepsMemory (s : State) (key ls tc : Nat) : KeepsMemory s (s.countCorr key ls tc) := by
  unfold State.countCorr
  extract_lets old l0 t0 l1 t1 a b
  have ha : KeepsMemory s a := (KeepsMemory.refl s).modPkg _
  have hb : KeepsMemory s b := by
    show KeepsMemory s (if crosses16 l0 l1 then _ else _)
    split
    · exact ha.trans (pkgEvent_keepsMemory _ _ _ _)
    · exact ha
  split
  · exact hb.trans (pkgEvent_keepsMemory _ _ _ _)
  · exact hb

/-- Counting events leaves the local store. -/
theorem Core.countAt_ls (c : Core) (e : EvCount) (n : Nat) : (c.countAt e n).1.ls = c.ls := by
  unfold Core.countAt
  extract_lets
  repeat' split
  all_goals rfl

theorem Core.count_ls (c : Core) (e : EvCount) : (c.count e).1.ls = c.ls := by
  simp only [Core.count, List.foldl_cons, List.foldl_nil, Core.countAt_ls]

theorem countHere_keepsMemory (s : State) (e : EvCount) : KeepsMemory s (s.countHere e).1 := by
  unfold State.countHere
  split
  · exact .refl s
  · have h : KeepsMemory s (s.here fun _ => (s.core.count e).1) := by
      refine ⟨rfl, rfl, rfl, fun r c => ?_⟩
      by_cases q : r = s.cur.row ∧ c = s.cur.core
      · obtain ⟨rfl, rfl⟩ := q
        exact (congrArg Core.ls (State.coreAt_modCore_same s _ _ _)).trans (Core.count_ls _ e)
      · exact congrArg Core.ls (State.coreAt_modCore_other s _ q)
    exact h.forEach _ fun _ u => pkgEvent_keepsMemory u _ _ _

theorem countPoison_keepsMemory (s : State) : KeepsMemory s s.countPoison := countHere_keepsMemory s _

theorem countCorrected_keepsMemory (s : State) (as : List Nat) : KeepsMemory s (s.countCorrected as) := by
  unfold State.countCorrected
  extract_lets n
  split
  · exact .refl s
  · exact countCorr_keepsMemory _ _ _ _

/-- Consuming poison stores nothing. -/
theorem consumePoison_keepsMemory (s : State) (as : List Nat) : KeepsMemory s (s.consumePoison as) := by
  have h : KeepsMemory s ((s.countCorrected as).here fun c => c.poisonUncorrectable as) :=
    KeepsMemory.here (countCorrected_keepsMemory s as) fun _ => rfl
  exact (h.trans (trapWord_keepsMemory _ _ _ _)).trans (markPoison_keepsMemory _)

theorem usePort_keepsMemory (s : State) (ws : List Nat) : KeepsMemory s (s.usePort ws) := KeepsMemory.here (.refl s) fun _ => rfl

theorem storeNow_keepsMemory (s : State) (bs : List (Nat × Byte)) (ns : List (Nat × Nat)) : KeepsMemory s (s.storeNow bs ns) :=
  keepsMemory_of_fields rfl rfl rfl rfl

theorem engineReadAt_keepsMemory (r c : Fin 8) (as : List Nat) (s : State) : KeepsMemory s (s.engineReadAt r c as) := by
  unfold State.engineReadAt
  extract_lets n t
  have ht : KeepsMemory s t := by
    show KeepsMemory s (if (s.coreAt r c).anyBad as then _ else _)
    split
    · refine KeepsMemory.modCore (.refl s) r c ?_
      exact fun _ => rfl
    · exact .refl s
  split
  · exact ht
  · exact ht.trans (countCorr_keepsMemory _ _ _ _)

/-- A read of the local store stores nothing when what it is read for stores nothing. -/
theorem lsRead_keepsMemory (ea n : Nat) (k : Nat → State → State) (hk : ∀ x u, KeepsMemory u (k x u)) (s : State) :
    KeepsMemory s (lsRead ea n k s) := by
  unfold lsRead
  split
  · exact trapWord_keepsMemory _ _ _ _
  · split
    · exact ((usePort_keepsMemory _ _).trans (countPoison_keepsMemory _)).trans (consumePoison_keepsMemory _ _)
    · exact ((usePort_keepsMemory _ _).trans (countCorrected_keepsMemory _ _)).trans (hk _ _)

/-! ## Write-backs (R83, R131, R224) -/

theorem Core.writeCtl_ls (c : Core) (sel : Nat) (x : Word) : (c.writeCtl sel x).ls = c.ls := by
  unfold Core.writeCtl
  repeat' split
  all_goals rfl

theorem armWindow_keepsMemory (s : State) (n : Nat) : KeepsMemory s (s.armWindow n) := by
  unfold State.armWindow
  extract_lets t
  have ht : KeepsMemory s t := (KeepsMemory.refl s).agenda _
  split
  · exact ht
  · exact ht.addGang _ _ _ _ _

/-- A register update stores nothing. -/
theorem applyWrite_keepsMemory (w : RegWrite) (s : State) : KeepsMemory s (applyWrite w s) := by
  cases w with
  | rowCtl sel x => exact (KeepsMemory.refl s).hereRow _
  | coreCtl sel x =>
    have h : KeepsMemory s (s.here fun c => c.writeCtl sel x) := KeepsMemory.here (.refl s) fun c => c.writeCtl_ls sel x
    simp only [applyWrite]
    split
    · exact h.trans (armWindow_keepsMemory _ _)
    · exact h
  | k h n x => exact (KeepsMemory.refl s).hereRow _
  | q h n x => exact (KeepsMemory.refl s).hereRow _
  | a n x => exact KeepsMemory.here (.refl s) fun c => c.wa_ls n x
  | p n x => exact KeepsMemory.here (.refl s) fun c => c.wp_ls n x
  | m n x => exact KeepsMemory.here (.refl s) fun c => c.wm_ls n x
  | _ => exact KeepsMemory.here (.refl s) fun _ => rfl

theorem applyWrites_keepsMemory (ws : List RegWrite) (s : State) : KeepsMemory s (applyWrites ws s) :=
  (KeepsMemory.refl s).forEach ws applyWrite_keepsMemory

theorem keepUndo_keepsMemory (s : State) (w : WriteBack) : KeepsMemory s (s.keepUndo w) := by
  unfold State.keepUndo
  extract_lets now c ws u
  split
  · exact KeepsMemory.here (.refl s) fun _ => rfl
  · exact (KeepsMemory.refl s).hereRow _
  · exact .refl s

/-! ## Ports (R412, R420) -/

theorem modSu_keepsMemory (s : State) (n : Nat) (f : SuPort → SuPort) : KeepsMemory s (s.modSu n f) := (KeepsMemory.refl s).modPkg _

theorem transmit_keepsMemory (n : Nat) (x : Sent) (s : State) : KeepsMemory s (s.transmit n x) :=
  ((KeepsMemory.refl s).send x).forEach _ fun _ u => (modSu_keepsMemory u n _).send _

/-- A transfer that comes to a port goes out or waits there, and stores nothing. -/
theorem emit_keepsMemory (n : Nat) (x : Sent) (s : State) : KeepsMemory s (s.emit n x) := by
  unfold State.emit
  split
  · exact transmit_keepsMemory n x s
  · exact modSu_keepsMemory s n _

/-- A port that takes nothing sends nothing. -/
theorem emit_sent (n : Nat) (x : Sent) (s : State) (h : (s.suPort n).takes n = false) : (s.emit n x).sent = s.sent := by
  simp [State.emit, h, State.modSu]

theorem flushPort_keepsMemory (n : Nat) (s : State) : KeepsMemory s (s.flushPort n) := by
  unfold State.flushPort
  split
  · exact (modSu_keepsMemory s n _).forEach _ fun x u => transmit_keepsMemory n x u
  · exact .refl s

/-! ## Memories in form -/

/-- A write applied to a memory in form leaves it in form. -/
theorem ModWrite.apply_wf (m : Memory × Sparse LsClass) (w : ModWrite) (h : Memory.wf m.1 = true) : Memory.wf (w.apply m).1 = true :=
  Sparse.wf_setMany 0 w.bytes h

theorem ModWrite.applyAll_wf (ws : List ModWrite) (m : Memory × Sparse LsClass) (h : Memory.wf m.1 = true) :
    Memory.wf (ws.foldl ModWrite.apply m).1 = true := by
  induction ws generalizing m with
  | nil => exact h
  | cons w ws ih => exact ih _ (ModWrite.apply_wf m w h)

/-- What a place in time finds of module memory is in form. -/
theorem modAt_wf (s : State) (key : Nat) (h : MemoryForm s) : Memory.wf (s.modAt key).1 = true := by
  unfold State.modAt
  split
  · exact h.1
  · split
    · exact h.1
    · exact ModWrite.applyAll_wf _ _ (h.2.1 _ ‹_›)

/-- A write of module memory keeps every memory in form, wherever its place in time lies. -/
theorem modPut_memoryForm (w : ModWrite) (s : State) (h : MemoryForm s) : MemoryForm (s.modPut w) := by
  unfold State.modPut
  split
  · exact ⟨ModWrite.apply_wf _ w h.1, h.2⟩
  · rename_i b hb
    refine ⟨?_, h.2.1, h.2.2⟩
    show Memory.wf (if _ then _ else _ : Memory × Sparse LsClass).1 = true
    split
    · exact ModWrite.apply_wf _ w h.1
    · exact ModWrite.applyAll_wf _ _ (h.2.1 b hb)

theorem modWrite_memoryForm (s : State) (bs : List (Nat × Byte)) (ps : List Nat) (h : MemoryForm s) : MemoryForm (s.modWrite bs ps) :=
  modPut_memoryForm _ s h

theorem streamWrite_memoryForm (s : State) (a : Nat) (bs : List Byte) (h : MemoryForm s) : MemoryForm (s.streamWrite a bs) := by
  unfold State.streamWrite
  split
  · exact modWrite_memoryForm s _ _ h
  · exact host_memoryForm (Memory.wf_putBytes _ _ h.2.2.1) h

end Sys2Proof.Machine
end

