-- ==== Sys2Proof/Tests/Slice0.lean ====
section
/-! SUPPORT. Tests of the model: ill-formed instructions that the checks refuse, words written out from the encoding tables, and
single steps whose results come from the specification's worked examples and rules. -/

open Sys2Proof Sys2Proof.Machine Sys2Proof.Claims

namespace Sys2Proof.Tests

set_option Elab.async false

/-! ## Small states -/

/-- A header that is always enabled, and one that never is. -/
def on : Hdr := ⟨0, 7, 0⟩
def off : Hdr := ⟨0, 7, 1⟩

/-- An RRR body with four registers and the other fields zero but the mask, which is full. -/
def rrr (d a b c : BitVec 6) : RRR := ⟨d, a, b, c, 0, 0, 0, 0, 7, 0, 0, 0⟩

/-- An SRR body with four registers. -/
def srr (d a b c : BitVec 7) : SRR := ⟨d, a, b, c, 0, 0, 0⟩

/-- A MEM body with D, BASE and an offset. -/
def mem (d base : BitVec 6) (ofs : BitVec 24) : MEM := ⟨d, base, ofs, 0, 0, 7, 0⟩

/-- Core 0 of row 0 changed in the reset state. -/
def atCore (f : Core → Core) : State := State.reset.modCore 0 0 f

/-- Row 0 changed in the reset state. -/
def atRow (f : Row → Row) : State := State.reset.modRow 0 f

/-- A task of one row in slot 0, at GCC 1000. -/
def running : State :=
  (State.reset.modTask 0 fun t => { t with live := true, nrows := 1, taskid := 7, gcc := 1000 }).modRow 0 fun r =>
    { r with task := some 0, running := true, fb := 900, slen := 16 }

/-- The state with a clause of row 0 whose first word is the work in hand. -/
def inWord (cls : Nat) (s : State) : State :=
  { s.modRow 0 fun r => { r with clauses := [{ id := 5, addr := 3, cls := cls, cnt := 2, start := 40, fb := some 900, wait := 0 }] } with
    cur := { part := if cls = 0 then .seq else .core, work := .word 5 0 } }

/-- The next state of an instruction. -/
def after (i : Instr) (s : State) : State :=
  match exec i s with
  | .next t => t
  | _ => s

/-- The results on the agenda: cycle and writes. -/
def results (s : State) : List (Nat × List RegWrite) :=
  s.agenda.filterMap fun e => match e.work with
    | .ev (.registerWriteBack w) => some (e.due, w.writes)
    | _ => none

/-- The stores on the agenda. -/
def stores (s : State) : List (Nat × Byte) :=
  s.agenda.flatMap fun e => match e.work with
    | .cont (.lsWrite bs _) => bs
    | _ => []

/-! ## Ill-formed instructions (R61 to R72, R81) -/

theorem test_rrr_fields_refused :
    (Instr.add on (rrr 32 1 2 0)).fault = some 2 ∧ (Instr.add on (rrr 1 32 2 0)).fault = some 2 ∧ (Instr.add on (rrr 1 2 32 0)).fault = some 2
      ∧ (Instr.sel on (rrr 1 2 3 8)).fault = some 2 ∧ (Instr.add on { rrr 1 2 3 0 with ty := 1 }).fault = some 3
      ∧ (Instr.add on { rrr 1 2 3 0 with rnd := 1 }).fault = some 3 ∧ (Instr.add on { rrr 1 2 3 0 with cnd := 1 }).fault = some 3
      ∧ (Instr.div on { rrr 1 2 3 0 with sat := 1 }).fault = some 3 ∧ (Instr.add on { rrr 1 2 3 0 with msk := 0 }).fault = some 3
      ∧ (Instr.plog on { rrr 1 2 3 0 with ub := 1 }).fault = some 3 ∧ (Instr.add on { rrr 1 2 32 0 with ub := 1, ubh := 1 }).fault = some 3
      ∧ (Instr.mov on (rrr 1 2 3 0)).fault = some 1 ∧ (Instr.add on (rrr 1 2 3 1)).fault = some 1
      ∧ (Instr.add on { rrr 1 2 3 0 with ubh := 1 }).fault = some 1 ∧ (Instr.add on { rrr 1 2 3 0 with aux := 1 }).fault = some 1
      ∧ (Instr.add on (rrr 1 2 3 0)).fault = none := by decide

theorem test_core_word_limits_refused :
    (Instr.bfx on { rrr 1 2 0 63 with aux := 1 }).fault = some 1 ∧ (Instr.cmp on (rrr 1 2 3 0)).fault = some 3
      ∧ (Instr.movk on (rrr 1 0 3 0)).fault = some 3 ∧ (Instr.movk on { rrr 32 0 3 0 with ub := 1 }).fault = some 2
      ∧ (Instr.movk on { rrr 1 0 25 0 with ub := 1, ubh := 1, aux := 1 }).fault = some 2
      ∧ (Instr.movk on { rrr 1 1 3 0 with ub := 1 }).fault = some 1
      ∧ (Instr.addi on ⟨32, 1, 0, 0⟩).fault = some 2 ∧ (Instr.movi on ⟨1, 1, 0, 0⟩).fault = some 1 ∧ (Instr.movi on ⟨1, 0, 0, 2⟩).fault = some 1
      ∧ (Instr.ld on (mem 32 1 0)).fault = some 2 ∧ (Instr.ld on (mem 1 32 0)).fault = some 2
      ∧ (Instr.ld on { mem 1 1 0 with ty := 1 }).fault = some 3 ∧ (Instr.ld on { mem 1 1 0 with msk := 0 }).fault = some 3
      ∧ (Instr.ld on { mem 1 1 0 with aux := 1 }).fault = some 1 ∧ (Instr.amo on { mem 1 1 0 with aux := 7 }).fault = some 3
      ∧ (Instr.acas on (mem 31 1 0)).fault = some 2 ∧ (Instr.acas on (mem 0 1 0)).fault = some 2 := by decide

theorem test_vector_and_matrix_limits_refused :
    (Instr.vadd on { rrr 48 1 2 0 with ty := 1 }).fault = some 2
      ∧ (Instr.vcvt on { rrr 1 2 0 0 with ty := 9, aux := 0x20 }).fault = some 3
      ∧ (Instr.vcvt on { rrr 1 2 0 0 with ty := 1, aux := 0x10 }).fault = some 3
      ∧ (Instr.vbq on { rrr 1 2 0 1 with ty := 4 }).fault = some 2 ∧ (Instr.vmxd on { rrr 1 2 3 0 with ty := 4, aux := 0x60 }).fault = some 1
      ∧ (Instr.vmxd on { rrr 1 2 0 0 with ty := 4, aux := 0x40 }).fault = some 3
      ∧ (Instr.vshf on { rrr 1 2 3 0 with aux := 3 }).fault = some 3 ∧ (Instr.vvote on { rrr 1 2 0 0 with aux := 3 }).fault = some 3
      ∧ (Instr.mmovp on { rrr 1 2 0 0 with aux := 3 }).fault = some 3 ∧ (Instr.vred on { rrr 1 2 0 0 with aux := 6 }).fault = some 3
      ∧ (Instr.vred on { rrr 1 2 0 0 with ty := 1, aux := 3 }).fault = some 3 ∧ (Instr.vscan on { rrr 1 2 0 0 with rnd := 1 }).fault = some 3
      ∧ (Instr.vpart on ⟨0, 0, 3, 0⟩).fault = some 1 ∧ (Instr.vld on { mem 1 1 0 with aux := 2 }).fault = some 3
      ∧ (Instr.mtv on { rrr 47 1 0 0 with aux := 0x20 }).fault = some 2 ∧ (Instr.mtv on { rrr 1 1 0 0 with aux := 0x3F }).fault = some 1
      ∧ (Instr.mvt on { rrr 1 47 0 0 with aux := 0x20 }).fault = some 2 ∧ (Instr.mvt on { rrr 1 1 0 0 with aux := 0x13F }).fault = some 1
      ∧ (Instr.mscl on (rrr 1 2 3 0)).fault = some 3 ∧ (Instr.mtld on { mem 16 1 0 with ty := 0 }).fault = some 2
      ∧ (Instr.mtld on { mem 1 1 0 with ty := 1 }).fault = some 3 := by decide

theorem test_far_and_mesh_limits_refused :
    (Instr.shpEdit on (rrr 1 2 3 0)).fault = some 1 ∧ (Instr.tfetch on { rrr 16 1 2 3 with aux := 8 }).fault = some 2
      ∧ (Instr.tfetch on (rrr 1 1 2 3)).fault = some 1 ∧ (Instr.tgath on { rrr 1 1 2 3 with aux := 0x100 }).fault = some 2
      ∧ (Instr.tscat on { rrr 0 1 2 3 with aux := 0x100 }).fault = some 2 ∧ (Instr.mired on { rrr 1 1 2 3 with aux := 0x100 }).fault = some 2
      ∧ (Instr.maadd on { rrr 0 1 2 3 with aux := 0x100 }).fault = some 2 ∧ (Instr.mcmdCopy on (rrr 1 1 0 0)).fault = some 1
      ∧ (Instr.wchk on ⟨8, 0, 1, 1⟩).fault = some 2 ∧ (Instr.wchk on ⟨1, 0, 1, 0⟩).fault = some 1 ∧ (Instr.mfence on ⟨1, 0, 0, 5⟩).fault = some 3
      ∧ (Instr.crun on ⟨1, 1, 0, 0⟩).fault = some 1 ∧ (Instr.crun on ⟨16, 1, 0, 1⟩).fault = some 2 ∧ (Instr.crun on ⟨0, 1, 0x40, 0⟩).fault = some 1
      ∧ (Instr.send on { rrr 1 1 0 0 with aux := 1 }).fault = some 3 ∧ (Instr.send on { rrr 0 47 0 0 with aux := 1 }).fault = some 2
      ∧ (Instr.recv on { rrr 1 1 0 0 with aux := 0x101 }).fault = some 3 ∧ (Instr.recv on { rrr 47 1 0 0 with aux := 1 }).fault = some 2
      ∧ (Instr.facc on (rrr 0 1 2 3)).fault = some 1 := by decide

theorem test_sequencer_limits_refused :
    (Instr.br ⟨0, 0, 0⟩ ⟨0, 0, 0⟩).fault = some 3 ∧ (Instr.br on ⟨0, 0, 1⟩).fault = some 1 ∧ (Instr.brc on ⟨0, 0, 0⟩).fault = some 3
      ∧ (Instr.brc ⟨0, 0, 0⟩ ⟨0, 0, 1⟩).fault = some 1 ∧ (Instr.loop on ⟨0, 0, 0⟩).fault = some 2 ∧ (Instr.loop on ⟨96, 0, 0⟩).fault = some 2
      ∧ (Instr.call on ⟨0, 0, 1⟩).fault = some 1 ∧ (Instr.ret on ⟨1, 0, 0⟩).fault = some 1
      ∧ (Instr.slack on ⟨0, 0, 1024, 0⟩).fault = some 1 ∧ (Instr.slack on ⟨1, 0, 0, 0⟩).fault = some 1 ∧ (Instr.slack on ⟨0, 0, 0, 1⟩).fault = some 1
      ∧ (Instr.trap on ⟨0, 0, 65536, 0⟩).fault = some 1 ∧ (Instr.prept on ⟨0, 0, 256, 0⟩).fault = some 1
      ∧ (Instr.uniformAdd on (srr 96 1 2 0)).fault = some 2 ∧ (Instr.uniformCmp on { srr 95 1 2 0 with cnd := 1 }).fault = some 2
      ∧ (Instr.uniformAdd on { srr 1 1 2 0 with ty := 1 }).fault = some 3 ∧ (Instr.uniformCmp on (srr 96 1 2 0)).fault = some 3
      ∧ (Instr.uniformAnd on { srr 1 1 2 0 with aux := 4096 }).fault = some 3 ∧ (Instr.uniformMov on (srr 1 1 2 0)).fault = some 1
      ∧ (Instr.uniformBfx on (srr 1 1 0 64)).fault = some 1 ∧ (Instr.uniformBfx on { srr 1 1 0 63 with aux := 1 }).fault = some 1
      ∧ (Instr.uniformAdd on { srr 1 1 2 0 with aux := 1 }).fault = some 1
      ∧ (Instr.uniformAddi on ⟨96, 1, 0, 0⟩).fault = some 2 ∧ (Instr.uniformMovi on ⟨1, 1, 0, 0⟩).fault = some 1
      ∧ (Instr.dccrd on (srr 1 0 0 0)).fault = some 2 ∧ (Instr.dccrd on (srr 95 0 0 0)).fault = some 2
      ∧ (Instr.crd on ⟨96, 0xF00, 0⟩).fault = some 2 ∧ (Instr.crd on ⟨1, 0xF13, 0⟩).fault = some 2 ∧ (Instr.crd on ⟨1, 0x005, 0⟩).fault = some 2
      ∧ (Instr.crd on ⟨1, 0x804, 0⟩).fault = some 2 ∧ (Instr.cwr on ⟨1, 0xF00, 1⟩).fault = some 1
      ∧ (Instr.qvote on (srr 1 0 0 0)).fault = some 2 ∧ (Instr.qvote on (srr 96 8 0 0)).fault = some 2
      ∧ (Instr.qvote on { srr 1 0 0 0 with aux := 3 }).fault = some 3 ∧ (Instr.qvote on (srr 96 0 1 0)).fault = some 1 := by decide

/-! ## Words from the encoding tables and the worked examples -/

/-- What a column decodes a word to. -/
def reads (c : Col) (w : Word) : Option Instr :=
  match decodeWord c w with
  | .ok i => some i
  | .error _ => none

theorem test_words_of_column_a :
    reads .a 0x74B8_1000_0000_01C0 = some (.movi ⟨2, 7, 0⟩ ⟨1, 0, 7, 0⟩)
      ∧ reads .a 0x4438_2040_0000_0140 = some (.addi on ⟨2, 1, 5, 0⟩)
      ∧ reads .a 0xA038_3100_0010_04F8 = some (.ld on ⟨3, 4, 64, 0, 19, 7, 0⟩)
      ∧ reads .a 0xA438_5080_0002_05B9 = some (.amo on ⟨5, 2, 8, 0, 22, 7, 1⟩)
      ∧ reads .a 0x6C38_2151_0001_BC00 = some (.cmp on ⟨2, 5, 17, 0, 0, 0, 3, 0, 7, 1, 0, 0⟩)
      ∧ reads .a 0x8438_1028_0000_3C01 = some (.movk on ⟨1, 0, 40, 0, 0, 0, 0, 0, 7, 1, 0, 1⟩) := by decide +kernel

theorem test_words_of_column_v :
    reads .v 0x0878_4146_1C20_3800 = some (.vfma ⟨1, 7, 0⟩ ⟨4, 5, 6, 7, 1, 0, 0, 0, 7, 0, 0, 0⟩)
      ∧ reads .v 0x0218_8151_0028_3C00 = some (.vadd ⟨0, 3, 0⟩ ⟨8, 5, 17, 0, 1, 1, 0, 0, 7, 1, 0, 0⟩)
      ∧ reads .v 0x0C38_9081_0020_1000 = some (.vmax on ⟨9, 2, 1, 0, 1, 0, 0, 0, 2, 0, 0, 0⟩)
      ∧ reads .v 0x8038_0000_0000_FFFF = some (.viota on ⟨0, 0, 1023, 63⟩) := by decide +kernel

theorem test_words_of_column_s :
    reads .s 0x7438_1800_0000_00A0 = some (.uniformMovi on ⟨3, 0, 10, 0⟩)
      ∧ reads .s 0x4438_2040_0000_0030 = some (.uniformAddi on ⟨4, 4, 3, 0⟩)
      ∧ reads .s 0x0638_1800_0000_0010 = some (.loop on ⟨3, 0, 16⟩)
      ∧ reads .s 0x0238_0000_C000_0190 = some (.br on ⟨0x30, 200, 0⟩)
      ∧ reads .s 0x1238_0000_0000_0000 = some (.halt on) ∧ reads .s 0x1838_0000_0000_0000 = some (.prept on ⟨0, 0, 0, 0⟩)
      ∧ reads .s 0x1E38_3000_0000_0001 = some (.galign on { srr 6 0 0 0 with aux := 1 }) := by decide +kernel

theorem test_words_of_columns_m_and_x :
    reads .m 0x0FF8_4008_0C00_384F = some (.mmas ⟨7, 7, 0⟩ ⟨4, 0, 8, 3, 0, 0, 0, 0, 7, 0, 0, 0x4F⟩)
      ∧ reads .x 0x0208_0000_0000_3800 = some (.send ⟨0, 1, 0⟩ ⟨0, 0, 0, 0, 0, 0, 0, 0, 7, 0, 0, 0⟩)
      ∧ reads .x 0x0A4C_0014_0000_3C07 = some (.fput ⟨1, 1, 1⟩ ⟨0, 0, 20, 0, 0, 0, 0, 0, 7, 1, 0, 7⟩) := by decide +kernel

/-- The headers of the worked examples carry the check bits of R53. -/
theorem test_headers :
    headerFault 0x4400_0028_0004_0005 = none ∧ headerFault 0x5200_0008_0000_0090 = none ∧ headerFault 0x2200_0020_0000_0011 = none
      ∧ headerFault 0x0200_0020_0000_0090 = none ∧ headerFault 0x0200_0028_0000_0081 = none ∧ headerFault 0x0200_000A_0000_8082 = none
      ∧ headerFault 0x4400_0028_0004_0004 = some 5 ∧ (clauseHdrOf 0x4400_0028_0004_0005).start = 40 := by decide +kernel

/-! ## Integer words (R203 to R210) -/

/-- a1 = 7 and a2 = -2. -/
def regs : State := atCore fun c => (c.wa 1 7).wa 2 0xFFFFFFFFFFFFFFFE

/-- The result of an A word on a1 and a2 into a3. -/
def aOf (i : Hdr → RRR → Instr) (ty : BitVec 5) (sat : BitVec 1) (s : State) : List (Nat × List RegWrite) :=
  results (after (i on { rrr 3 1 2 0 with ty := ty, sat := sat }) s)

theorem test_add : aOf .add 0 0 regs = [(1, [.a 3 5])] := by decide +kernel
theorem test_sub : aOf .sub 0 0 regs = [(1, [.a 3 9])] := by decide +kernel
theorem test_mul : aOf .mul 0 0 regs = [(3, [.a 3 0xFFFFFFFFFFFFFFF2])] := by decide +kernel
theorem test_mulh : aOf .mulh 0 0 regs = [(3, [.a 3 0xFFFFFFFFFFFFFFFF])] := by decide +kernel
theorem test_mulhu : aOf .mulhu 0 0 regs = [(3, [.a 3 6])] := by decide +kernel
/-- 7 div -2 is -3 toward zero, and the remainder is 1 (R205). -/
theorem test_div : aOf .div 0 0 regs = [(18, [.a 3 0xFFFFFFFFFFFFFFFD])] := by decide +kernel
theorem test_rem : aOf .rem 0 0 regs = [(18, [.a 3 1])] := by decide +kernel
theorem test_divu : aOf .divu 0 0 regs = [(18, [.a 3 0])] := by decide +kernel
theorem test_remu : aOf .remu 0 0 regs = [(18, [.a 3 7])] := by decide +kernel
/-- A zero divisor gives all ones, under .ui32 in 32 bits (R205). -/
theorem test_div_by_zero : aOf .div 20 0 (atCore fun c => c.wa 1 7) = [(18, [.a 3 0xFFFFFFFFFFFFFFFF])]
    ∧ aOf .divu 21 0 (atCore fun c => c.wa 1 7) = [(18, [.a 3 0xFFFFFFFF])] := by decide +kernel
theorem test_logic : aOf .and 0 0 regs = [(1, [.a 3 6])] ∧ aOf .or 0 0 regs = [(1, [.a 3 0xFFFFFFFFFFFFFFFF])]
    ∧ aOf .xor 0 0 regs = [(1, [.a 3 0xFFFFFFFFFFFFFFF9])] ∧ aOf .andn 0 0 regs = [(1, [.a 3 1])] := by decide +kernel
/-- A shift by the width or more gives 0, and takes its amount from all 64 bits (R203). -/
theorem test_shifts : aOf .shl 20 0 (atCore fun c => (c.wa 1 1).wa 2 32) = [(1, [.a 3 0])]
    ∧ aOf .shr 0 0 (atCore fun c => (c.wa 1 0xF0).wa 2 4) = [(1, [.a 3 0xF])]
    ∧ aOf .sra 20 0 (atCore fun c => (c.wa 1 0x80000000).wa 2 0x100000000) = [(1, [.a 3 0xFFFFFFFFFFFFFFFF])]
    ∧ aOf .rotl 0 0 regs = [(1, [.a 3 0xC000000000000001])] := by decide +kernel
theorem test_min_max : aOf .min 0 0 regs = [(1, [.a 3 0xFFFFFFFFFFFFFFFE])] ∧ aOf .max 0 0 regs = [(1, [.a 3 7])]
    ∧ aOf .minu 0 0 regs = [(1, [.a 3 7])] ∧ aOf .maxu 0 0 regs = [(1, [.a 3 0xFFFFFFFFFFFFFFFE])] := by decide +kernel
/-- .i32 wraps at 32 bits and extends its sign; .sat clamps (R203, R204). -/
theorem test_add_narrow : aOf .add 20 0 (atCore fun c => (c.wa 1 0x7FFFFFFF).wa 2 1) = [(1, [.a 3 0xFFFFFFFF80000000])]
    ∧ aOf .add 20 1 (atCore fun c => (c.wa 1 0x7FFFFFFF).wa 2 1) = [(1, [.a 3 0x7FFFFFFF])] := by decide +kernel
theorem test_sub_saturates : aOf .sub 21 1 (atCore fun c => c.wa 2 1) = [(1, [.a 3 0])] := by decide +kernel
theorem test_bits : aOf .clz 21 0 regs = [(1, [.a 3 29])] ∧ aOf .popc 0 0 regs = [(1, [.a 3 3])]
    ∧ aOf .brev 21 0 regs = [(1, [.a 3 0xE0000000])] ∧ aOf .mov 0 0 regs = [(1, [.a 3 7])] := by decide +kernel
/-- Bits [11:4] of 0xABC are 0xAB, which .i64 extends by its sign (R208). -/
theorem test_bfx : results (after (.bfx on { rrr 3 1 0 4 with aux := 7 }) (atCore fun c => c.wa 1 0xABC)) = [(1, [.a 3 0xAB])]
    ∧ results (after (.bfx on { rrr 3 1 0 4 with aux := 7, ty := 22 }) (atCore fun c => c.wa 1 0xABC)) = [(1, [.a 3 0xFFFFFFFFFFFFFFAB])] := by decide +kernel
theorem test_bfi : results (after (.bfi on { rrr 3 1 2 4 with aux := 7 }) (atCore fun c => (c.wa 1 0xFFFF).wa 2 0x12)) = [(1, [.a 3 0xF12F])] := by decide +kernel
theorem test_addsh : results (after (.addsh on { rrr 3 1 2 0 with aux := 3 }) (atCore fun c => (c.wa 1 1).wa 2 5)) = [(1, [.a 3 41])] := by decide +kernel
theorem test_immediates : results (after (.movi on ⟨1, 0, 0x80000000, 0⟩) State.reset) = [(1, [.a 1 0xFFFFFFFF80000000])]
    ∧ results (after (.movi on ⟨1, 0, 0x80000000, 1⟩) State.reset) = [(1, [.a 1 0x80000000])]
    ∧ results (after (.movhi on ⟨4, 1, 0x12345678, 0⟩) regs) = [(1, [.a 4 0x1234567800000007])]
    ∧ results (after (.addi on ⟨2, 1, 0xFFFFFFFF, 0⟩) regs) = [(1, [.a 2 6])] := by decide +kernel
theorem test_cmp : results (after (.cmp on { rrr 2 1 2 0 with cnd := 3 }) regs) = [(1, [.p 2 false])]
    ∧ results (after (.cmp on { rrr 2 1 2 0 with cnd := 7 }) regs) = [(1, [.p 2 true])] := by decide +kernel
/-- PLOG looks a and b up as bit 2a + b of its table; SEL chooses by a predicate (R206). -/
theorem test_plog_sel : results (after (.plog on { rrr 2 7 1 0 with aux := 4 }) State.reset) = [(1, [.p 2 true])]
    ∧ results (after (.sel on (rrr 3 1 2 7)) regs) = [(1, [.a 3 7])] := by decide +kernel
/-- A word whose predicate reads false changes nothing (R59). -/
theorem test_disabled : after (.add off (rrr 3 1 2 0)) regs = regs := by decide +kernel
/-- A write to a0 is discarded (R196). -/
theorem test_a0 : ((after (.registerWriteBack { wid := 1, writes := [.a 0 5] }) { State.reset with cur := { part := .core } }).core).ra 0 = 0 := by decide +kernel
theorem test_write_back : ((after (.registerWriteBack { wid := 1, writes := [.a 3 5] }) { State.reset with cur := { part := .core } }).core).ra 3 = 5 := by decide +kernel

/-! ## Scalar access to the local store (R211 to R216) -/

/-- The bytes 0x80 and 0x01 at 0x40. -/
def bytesAt40 : State := atCore fun c => { c.wa 1 0x40 with ls := [(0x40, 0x80), (0x41, 0x01)] }

theorem test_ld : results (after (.ld on { mem 3 1 0 with ty := 16 }) bytesAt40) = [(5, [.a 3 0xFFFFFFFFFFFFFF80])]
    ∧ results (after (.ld on { mem 3 1 0 with ty := 19 }) bytesAt40) = [(5, [.a 3 0x180])] := by decide +kernel
theorem test_st : stores (after (.st on { mem 2 1 0 with ty := 19 }) (atCore fun c => (c.wa 1 0x40).wa 2 0xABCD)) = [(0x40, 0xCD), (0x41, 0xAB)] := by decide +kernel
theorem test_amo : results (after (.amo on { mem 2 1 0 with ty := 21, aux := 1 }) bytesAt40) = [(8, [.a 2 0x180])]
    ∧ stores (after (.amo on { mem 2 1 0 with ty := 21, aux := 1 }) (bytesAt40.here fun c => c.wa 2 0x10))
      = [(0x40, 0x90), (0x41, 0x01), (0x42, 0), (0x43, 0)] := by decide +kernel
theorem test_acas : stores (after (.acas on { mem 2 1 0 with ty := 21, aux := 3 }) (bytesAt40.here fun c => (c.wa 2 0x180).wa 3 5))
      = [(0x40, 5), (0x41, 0), (0x42, 0), (0x43, 0)]
    ∧ results (after (.acas on { mem 2 1 0 with ty := 21, aux := 3 }) (bytesAt40.here fun c => c.wa 3 5)) = [(8, [.a 2 0x180, .p 3 false])] := by decide +kernel
/-- An unaligned access traps with 0x0F and detail 1, one above the store with detail 0 (R134, R211). -/
theorem test_ld_traps : (after (.ld on { mem 3 1 1 with ty := 20 }) (inWord 1 running)).core.trapf = 0x0F10000100000000
    ∧ (after (.ld on (mem 3 1 0)) ((inWord 1 running).here fun c => c.wa 1 0x1800000)).core.trapf = 0x0F00000100000000 := by decide +kernel

/-! ## The sequencer (R160 to R177) -/

/-- The loop of the worked example (R163): k3 = 10 in a frame at 900. -/
def atLoop : State := (inWord 0 running).modRow 0 fun r => { r with k := [(3, 10)] }

theorem test_loop : (after (.loop on ⟨3, 0, 16⟩) atLoop).row.fb = 916 ∧ results (after (.loop on ⟨3, 0, 16⟩) atLoop) = [(1001, [.k false 3 9])] := by decide +kernel
theorem test_loop_ends : (after (.loop on ⟨3, 0, 16⟩) (atLoop.modRow 0 fun r => { r with k := [(3, 1)] })).row.fb = 900 := by decide +kernel
theorem test_br : (after (.br on ⟨0x30, 200, 0⟩) (inWord 0 running)).row.fb = 1100
    ∧ ((after (.br on ⟨0x30, 200, 0⟩) (inWord 0 running)).agenda.map fun e => (e.due, e.work)) = [(1002, .cont (.fetchFrom 0x33))] := by decide +kernel
theorem test_call_ret : (after (.call on ⟨0x30, 8, 0⟩) (inWord 0 running)).row.rstack = [6]
    ∧ (after (.ret on ⟨0, 8, 0⟩) ((inWord 0 running).modRow 0 fun r => { r with rstack := [6] })).row.rstack = [] := by decide +kernel
/-- RET on an empty stack traps with 0x01 and detail 0xA at the sequencer (R162, R194). -/
theorem test_ret_empty : (after (.ret on ⟨0, 8, 0⟩) (inWord 0 running)).row.trapfs = 0x01A0000100000000 := by decide +kernel
theorem test_frame_words : (after (.fbset on ⟨0, 3, 6, 0⟩) atLoop).row.fb = 916 ∧ (after (.fbabs on (srr 0 3 3 0)) atLoop).row.fb = 20 := by decide +kernel
theorem test_halt : (after (.halt on) (inWord 0 running)).row.halted = some 1000 := by decide +kernel
theorem test_slack : (after (.slack on ⟨0, 0, 5, 0⟩) (inWord 0 running)).row.nSlack = 1 := by decide +kernel
theorem test_idemb : ((after (.idemb on ⟨0, 0, 9, 0⟩) atLoop).row.region.map fun g => (g.tag, g.addr, g.entry, g.fb)) = some (9, 3, 940, 900) := by decide +kernel
theorem test_dccrd : results (after (.dccrd on (srr 4 0 0 0)) { inWord 0 running with dcc := 1234 }) = [(1001, [.k false 4 1234, .k false 5 1000])] := by decide +kernel
theorem test_uniform_add : results (after (.uniformAdd on (srr 4 3 3 0)) atLoop) = [(1001, [.k false 4 20])] := by decide +kernel
theorem test_uniform_cmp : results (after (.uniformCmp on { srr 98 3 0 0 with cnd := 5 }) atLoop) = [(1001, [.q false 2 true])] := by decide +kernel

/-! ## The vector engine -/

/-- Lane 0 of v1, v2 and v5 set, and a mask m1 of lane 0 alone. -/
def lanes (x y z : Lane) : State := atCore fun c => (((c.wv 1 [(0, x)]).wv 2 [(0, y)]).wv 5 [(0, z)]).wm 1 [(0, true)]

/-- The code of lane 0 of a V word under the mask of lane 0. -/
def v0 (i : Hdr → RRR → Instr) (f : RRR → RRR) (x y z : Lane) : List (Nat × List RegWrite) :=
  results (after (i on (f { rrr 3 1 2 5 with msk := 1 })) (lanes x y z))

theorem test_vadd : v0 .vadd id 0x3F800000 0x40000000 0 = [(4, [.v 3 [(0, 0x40400000)]])] := by decide +kernel
theorem test_vsub : v0 .vsub id 0x3F800000 0x3F800000 0 = [(4, [.v 3 [(0, 0)]])] := by decide +kernel
theorem test_vmul : v0 .vmul id 0x40000000 0xC0400000 0 = [(4, [.v 3 [(0, 0xC0C00000)]])] := by decide +kernel
theorem test_vfma : v0 .vfma id 0x40000000 0x40400000 0x3F800000 = [(6, [.v 3 [(0, 0x40E00000)]])] := by decide +kernel
/-- 1 + 2^-25 rounds to 1 under .rn (R98), and a signalling NaN gives the canonical one (R112). -/
theorem test_vadd_rounds : v0 .vadd id 0x3F800000 0x33000000 0 = [(4, [.v 3 [(0, 0x3F800000)]])]
    ∧ v0 .vadd id 0x7F800001 0x3F800000 0 = [(4, [.v 3 [(0, 0x7FC00000)]])] := by decide +kernel
theorem test_vmin_vmax : v0 .vmin id 0x3F800000 0xC0000000 0 = [(4, [.v 3 [(0, 0xC0000000)]])]
    ∧ v0 .vmax id 0x3F800000 0xC0000000 0 = [(4, [.v 3 [(0, 0x3F800000)]])] := by decide +kernel
theorem test_vabs_vneg : v0 .vabs id 0xC0000000 0 0 = [(4, [.v 3 [(0, 0x40000000)]])] ∧ v0 .vneg id 0x3F800000 0 0 = [(4, [.v 3 [(0, 0xBF800000)]])] := by decide +kernel
theorem test_vrcp_vsqrt : v0 .vrcp id 0x40000000 0 0 = [(12, [.v 3 [(0, 0x3F000000)]])] ∧ v0 .vsqrt id 0x40800000 0 0 = [(12, [.v 3 [(0, 0x40000000)]])]
    ∧ v0 .vrsq id 0x40800000 0 0 = [(12, [.v 3 [(0, 0x3F000000)]])] := by decide +kernel
theorem test_vexp2_vlog2 : v0 .vexp2 id 0x40400000 0 0 = [(12, [.v 3 [(0, 0x41000000)]])] ∧ v0 .vlog2 id 0x41000000 0 0 = [(12, [.v 3 [(0, 0x40400000)]])] := by decide +kernel
theorem test_vsin_vcos : v0 .vsin id 0 0 0 = [(12, [.v 3 [(0, 0)]])] ∧ v0 .vcos id 0 0 0 = [(12, [.v 3 [(0, 0x3F800000)]])] := by decide +kernel
theorem test_vtanh_vsigm : v0 .vtanh id 0 0 0 = [(12, [.v 3 [(0, 0)]])] ∧ v0 .vsigm id 0 0 0 = [(12, [.v 3 [(0, 0x3F000000)]])] := by decide +kernel
theorem test_viadd : v0 .viadd id 0x7FFFFFFF 1 0 = [(4, [.v 3 [(0, 0x80000000)]])]
    ∧ v0 .viadd (fun f => { f with sat := 1 }) 0x7FFFFFFF 1 0 = [(4, [.v 3 [(0, 0x7FFFFFFF)]])] := by decide +kernel
theorem test_vimulh : v0 .vimulh id 0xFFFFFFFF 2 0 = [(4, [.v 3 [(0, 0xFFFFFFFF)]])]
    ∧ v0 .vimulh (fun f => { f with ty := 21 }) 0xFFFFFFFF 2 0 = [(4, [.v 3 [(0, 1)]])] := by decide +kernel
theorem test_vshl : v0 .vshl id 1 31 0 = [(4, [.v 3 [(0, 0x80000000)]])] ∧ v0 .vshl id 1 32 0 = [(4, [.v 3 [(0, 0)]])] := by decide +kernel
theorem test_vicmp : v0 .vicmp (fun f => { f with cnd := 3 }) 0xFFFFFFFF 0 0 = [(4, [.m 3 [(0, true)]])] := by decide +kernel
/-- 1.0 is 0x38 in E4M3 (R95), and 300 to .i8 gives the limit 127 (R106). -/
theorem test_vcvt : v0 .vcvt (fun f => { f with ty := 4, aux := 0x10 }) 0x3F800000 0 0 = [(4, [.v 3 [(0, 0x38)]])]
    ∧ v0 .vcvt (fun f => { f with ty := 16, aux := 0x10 }) 0x43960000 0 0 = [(4, [.v 3 [(0, 127)]])] := by decide +kernel
theorem test_vsel : v0 .vsel (fun f => { f with c := 1 }) 8 9 0 = [(2, [.v 3 [(0, 8)]])] ∧ v0 .vsel (fun f => { f with c := 0 }) 8 9 0 = [(2, [.v 3 [(0, 9)]])] := by decide +kernel
theorem test_vext : results (after (.vext on { rrr 3 1 0 0 with aux := 0 }) (lanes 0x80000000 0 0)) = [(3, [.a 3 0xFFFFFFFF80000000])] := by decide +kernel
theorem test_vred : v0 .vred id 5 0 0 = [(8, [.v 3 [(0, 5)]])] := by decide +kernel
theorem test_vscan : v0 .vscan (fun f => { f with aux := 0x10 }) 5 0 0 = [(8, [.v 3 [(0, 0)]])] := by decide +kernel
theorem test_vvote : v0 .vvote (fun f => { f with a := 1, aux := 1 }) 0 0 0 = [(4, [.m 3 [(0, true)]])] := by decide +kernel
theorem test_vpart : results (after (.vpart on ⟨0, 0, 32, 0⟩) State.reset) = [(1, [.seg 32])] := by decide +kernel

/-! ## The matrix engine -/

/-- The two examples of R120 on E4M3 operands. -/
theorem test_accumulation_case_1 :
    (accumulate false 0x43000000 (groupSums ((List.replicate 32 1).map (mmaValue .e4m3)) ((List.replicate 32 1).map (mmaValue .e4m3))
      (List.replicate 16 127) (List.replicate 16 127))).code = 0x43000008 := by decide +kernel
theorem test_accumulation_case_2 :
    (accumulate false 0 (groupSums (([0x7E, 0x01, 0x7E] ++ List.replicate 29 0).map (mmaValue .e4m3)) (([0x7E, 0x01, 0xFE] ++ List.replicate 29 0).map (mmaValue .e4m3))
      (List.replicate 16 127) (List.replicate 16 127))).code = 0x36800000 := by decide +kernel
/-- A descriptor whose rows are longer than 256 bytes is refused (R274). -/
theorem test_mtd : results (after (.mtd on (rrr 3 0 2 0)) (atCore fun c => c.wa 2 0x0100007F00000000)) = []
    ∧ results (after (.mtd on (rrr 3 0 2 0)) (atCore fun c => c.wa 2 0x0100003F00000000)) = [(1, [.td 3 0x0100003F00000000])] := by decide +kernel

/-! ## Links, window, modules -/

/-- A SEND to the east reaches the western receive buffer of the next core two cycles on (R246). -/
theorem test_send : ((after (.send on (rrr 0 1 0 0)) running).agenda.map fun e => (e.due, e.core)) = [(1002, 1)] := by decide +kernel
/-- At the eastern edge the port is closed (R245). -/
theorem test_send_closed : (after (.send on (rrr 0 1 0 0)) { running with cur := { core := 7 } }).core.trapf.extractLsb' 52 12 = 0x052 := by decide +kernel
theorem test_recv_empty : (after (.recv on (rrr 1 0 0 0)) running).core.trapf.extractLsb' 52 12 = 0x050 := by decide +kernel
theorem test_warm : ((after (.warm on ⟨2, 0, 64, 0⟩) running).core.rw 2).pend = 64 ∧ ((after (.warm on ⟨2, 0, 64, 0⟩) running).core.rw 2).arm = true := by decide +kernel
theorem test_walw : results (after (.walw on (rrr 0 0 2 0)) (atCore fun c => c.wa 2 0x500001)) = [(1, [.limit 0x400000])] := by decide +kernel
/-- A transfer with no landing share traps with 0x07 and detail 3 (R311). -/
theorem test_tfetch_no_share : (after (.tfetch on (rrr 0 1 2 0)) (running.here fun c => { c with g := [(0, shpEdited (shpEdited (shpEdited (shpEdited 1 0 false 16) 1 false 1) 2 false 1) 3 false 1)] })).core.trapf.extractLsb' 56 8 = 7 := by decide +kernel
theorem test_landing_counts : ((after (.mfenceCompletion 2) (running.here fun c => { c with w := [(2, { arm := true, pend := 1 })] })).core.rw 2).pend = 0 := by decide +kernel
/-- A byte beyond the count sets OVR (R305). -/
theorem test_overrun : ((after (.mfenceCompletion 2) running).core.rw 2).ovr = true := by decide +kernel

/-! ## Gang time -/

theorem test_hold_quantum : (after (.holdQuantum 0) (running.modTask 0 fun t => { t with holding := some (⟨1000, 2, false, 0⟩, 1000) })).task.holds = 256 := by decide +kernel
theorem test_hold_end : (after .holdEnd ({ running.modTask 0 fun t => { t with holding := some (⟨1000, 2, false, 0⟩, 1000) } with dcc := 1512 })).task.holding = none := by decide +kernel
theorem test_handler_entry : (after .handlerEntry (running.modRow 0 fun r => { r with tvec := 0x8000000000000040 })).row.rpos = some 0x40 := by decide +kernel
theorem test_tick_in_hold : (match step (running.modTask 0 fun t => { t with holding := some (⟨1000, 2, false, 0⟩, 1000) }) with
    | .next t => (t.dcc, (t.taskAt 0).gcc)
    | _ => (0, 0)) = (1, 1000) := by decide +kernel

/-! ## Package -/

theorem test_stream_enable : ((after (.streamEnable 3) State.reset).stream 3).en = true := by decide +kernel
theorem test_laser_enable : ((after (.laserEnable 2 true) State.reset).laser 2).en = true := by decide +kernel
theorem test_bias_step : ((after (.biasServoStep 0 101 5) (State.reset.modLaser 0 fun l => { l with bias := 100, bias0 := 100 })).laser 0).drift = 10 := by decide +kernel
theorem test_get_version : (after .getVersion State.reset).sent = [.note 0x40 [0x12, 0x13]] := by decide +kernel
theorem test_dbgin : (after (.dbginWrite 2 77) State.reset).rows[2].dbgin = 77 := by decide +kernel
/-- A package without fuses stays in reset (R426). -/
theorem test_no_fuses : (after (.packageReset 1 ⟨false, true, [], [], [], [], true, true, 0, [], [], true⟩) State.reset).pkg.boot.full = false := by decide +kernel
/-- The word of the smallest program runs as the machine's next work. -/
theorem test_fetched_word_runs : (match step (State.reset.withFetchWord 128 (0x74B81000000001C0 * 2 ^ 64 + 0x2200002000000011)) with
    | .next t => results t
    | _ => []) = [(1, [.a 1 7])] := by decide +kernel

end Sys2Proof.Tests
end

