-- ==== Sys2Proof/Tests/Witness0.lean ====
section
/-! SUPPORT. For every statement with hypotheses, a state and operands that meet them together, clause by clause: encoding, integer
words, the local store, the sequencer, the vector engine and the matrix engine. -/

open Sys2Proof Sys2Proof.Machine Sys2Proof.Claims

namespace Sys2Proof.Tests

set_option Elab.async false

/-! ## Encoding -/

theorem decodes_of_reads {c : Col} {w : Word} {i : Instr} (h : reads c w = some i) : decodeWord c w = .ok i := by
  unfold reads at h
  split at h
  · simp_all
  · simp at h

/-- The detail with which a column refuses a word. -/
def refusal (c : Col) (w : Word) : Option Nat :=
  match decodeWord c w with
  | .ok _ => none
  | .error d => some d

theorem refuses_of_refusal {c : Col} {w : Word} {d : Nat} (h : refusal c w = some d) : decodeWord c w = .error d := by
  unfold refusal at h
  split at h
  · simp at h
  · simp_all

theorem witness_EncodedWordsDecode :
    WellFormed (.movi ⟨2, 7, 0⟩ ⟨1, 0, 7, 0⟩) ∧ encode (.movi ⟨2, 7, 0⟩ ⟨1, 0, 7, 0⟩) = some (.a, 0x74B8_1000_0000_01C0)
      ∧ WellFormed (.mcmdFill on (rrr 0 1 0 0)) ∧ ((encode (.mcmdFill on (rrr 0 1 0 0))).map Prod.fst) = some .f
      ∧ WellFormed (.mcmdReduce on (rrr 0 1 0 0)) ∧ ((encode (.mcmdReduce on (rrr 0 1 0 0))).map Prod.fst) = some .f := by decide +kernel

theorem witness_DecodedWordsEncode : decodeWord .a 0x74B8_1000_0000_01C0 = .ok (.movi ⟨2, 7, 0⟩ ⟨1, 0, 7, 0⟩) :=
  decodes_of_reads (by decide +kernel)

theorem witness_DecodingRefusesIllFormedWords : decodeWord .s 0x1238_0000_0000_0000 = .ok (.halt on) :=
  decodes_of_reads (by decide +kernel)

/-- An opcode column A has not, a reserved bit of MOV, register 32 and a type that ADD does not take. -/
theorem witness_RefusedWordsNameTheirDetail :
    decodeWord .a 0xFE38_0000_0000_0000 = .error 0 ∧ decodeWord .a 0x7438_1040_0000_01C0 = .error 1
      ∧ decodeWord .a 0x743A_0000_0000_01C0 = .error 2 ∧ decodeWord .a 0x4438_2040_0000_0141 = .ok (.addi on ⟨2, 1, 5, 1⟩) :=
  ⟨refuses_of_refusal (by decide +kernel), refuses_of_refusal (by decide +kernel), refuses_of_refusal (by decide +kernel),
    decodes_of_reads (by decide +kernel)⟩

/-! ## Integer words and the local store -/

theorem witness_IntegerWideResults :
    wideOps.length = 21 ∧ regs.core.enabled on = true ∧ (rrr 3 1 2 0).sat = 0 ∧ (rrr 3 1 2 0).ty = 0 ∧ ({ rrr 3 1 2 0 with ty := 22 } : RRR).ty = 22 := by
  decide +kernel

theorem witness_IntegerNarrowResults :
    narrowOps.length = 15 ∧ regs.core.enabled on = true ∧ ({ rrr 3 1 2 0 with ty := 20 } : RRR).sat = 0
      ∧ ({ rrr 3 1 2 0 with ty := 20 } : RRR).ty = 20 ∧ ({ rrr 3 1 2 0 with ty := 21 } : RRR).ty = 21 := by decide +kernel

theorem witness_IntegerSaturation :
    satOps.length = 3 ∧ regs.core.enabled on = true ∧ ({ rrr 3 1 2 0 with sat := 1 } : RRR).sat = 1 ∧ ({ rrr 3 1 2 0 with sat := 1 } : RRR).ty = 0
      ∧ atLoop.row.enabled on = true ∧ ({ srr 4 3 3 0 with aux := 4096 } : SRR).aux.getLsbD 12 = true ∧ ({ srr 4 3 3 0 with aux := 4096 } : SRR).ty = 0 := by
  decide +kernel

theorem witness_UniformResults :
    atLoop.row.enabled on = true ∧ (srr 4 3 3 0).aux.getLsbD 12 = false ∧ (srr 4 3 3 0).ty = 0
      ∧ ({ srr 4 3 3 0 with ty := 20 } : SRR).aux.getLsbD 12 = false ∧ ({ srr 4 3 3 0 with ty := 20 } : SRR).ty = 20 := by decide +kernel

theorem witness_FieldResults :
    fieldOps.length = 7 ∧ regs.core.enabled on = true ∧ WidthType (rrr 3 1 2 0).ty ∧ atLoop.row.enabled on = true ∧ WidthType (srr 4 3 3 0).ty := by
  unfold WidthType; decide +kernel

theorem witness_PredicateResults :
    comparisons.length = 8 ∧ (comparisons.map Prod.fst)[2]? = some 3 ∧ regs.core.enabled on = true ∧ WidthType ({ rrr 2 1 2 0 with cnd := 3 } : RRR).ty
      ∧ ({ rrr 2 1 2 0 with cnd := 3 } : RRR).cnd = 3 ∧ atLoop.row.enabled on = true ∧ WidthType ({ srr 98 3 0 0 with cnd := 5 } : SRR).ty
      ∧ ({ srr 98 3 0 0 with cnd := 5 } : SRR).cnd = 5 := by
  unfold WidthType; decide +kernel

theorem witness_ImmediateResults : regs.core.enabled on = true ∧ atLoop.row.enabled on = true := by decide +kernel

/-- The last aligned doubleword of the local store, and the types of AMO and ACAS. -/
theorem witness_ScalarMemoryResults :
    (let s := running.here fun c => c.wa 1 0x17FFFF8
     s.core.enabled on = true ∧ Readable s (s.core.memAddr (mem 3 1 0)) (elemBytes (mem 3 1 0).ty) ∧ (mem 3 1 0).ty = 0)
      ∧ bytesAt40.core.enabled on = true ∧ Readable bytesAt40 (bytesAt40.core.memAddr { mem 2 1 0 with ty := 21 }) (elemBytes 21) := by
  unfold Readable; decide +kernel

/-- An access one byte beyond the store, an unaligned one, one whose bank the core port already reads, and one of a poisoned word. -/
theorem witness_ScalarMemoryTraps :
    (let s := running.here fun c => c.wa 1 0x17FFFF9
     s.core.enabled on = true ∧ 0x1800000 < s.core.memAddr (mem 3 1 0) + elemBytes (mem 3 1 0).ty)
      ∧ (let s := running.here fun c => c.wa 1 1
         s.core.memAddr (mem 3 1 0) + elemBytes (mem 3 1 0).ty ≤ 0x1800000 ∧ s.core.memAddr (mem 3 1 0) % elemBytes (mem 3 1 0).ty ≠ 0)
      ∧ (let s := running.here fun c => { c with port := [⟨1000, [64]⟩] }
         s.core.memAddr (mem 3 0 0) % elemBytes (mem 3 0 0).ty = 0 ∧ s.core.portFails s.gcc [s.core.memAddr (mem 3 0 0) / 64] = true)
      ∧ (let s := running.here fun c => { c with lsCls := [(8, .poisoned)] }
         s.core.memAddr (mem 3 0 64) % elemBytes (mem 3 0 64).ty = 0 ∧ s.core.portFails s.gcc [s.core.memAddr (mem 3 0 64) / 64] = false
           ∧ s.core.cls (s.core.memAddr (mem 3 0 64)) = .poisoned ∧ Instr.ld on (mem 3 0 64) ≠ .st on (mem 3 0 64)) := by decide +kernel

/-- A disabled ADD, a disabled uniform ADD and a disabled BRC. -/
theorem witness_DisabledWordsDoNothing :
    (∃ w, encode (.add off (rrr 3 1 2 0)) = some (.a, w) ∧ regs.core.enabled (hdrOf w) = false)
      ∧ (∃ w, encode (.uniformAdd off (srr 4 3 3 0)) = some (.s, w) ∧ atLoop.row.enabled (hdrOf w) = false ∧ frameChanging w = false ∧ opcOf w ≠ 8
          ∧ opcOf w ≠ 0xC)
      ∧ ∃ w, encode (.brc off ⟨0x30, 200, 0⟩) = some (.s, w) ∧ atLoop.row.enabled (hdrOf w) = false ∧ frameChanging w = true ∧ opcOf w ≠ 0xF :=
  ⟨⟨((encode (.add off (rrr 3 1 2 0))).getD (.a, 0)).2, by decide +kernel⟩, ⟨((encode (.uniformAdd off (srr 4 3 3 0))).getD (.s, 0)).2, by decide +kernel⟩,
    ⟨((encode (.brc off ⟨0x30, 200, 0⟩)).getD (.s, 0)).2, by decide +kernel⟩⟩

/-! ## The sequencer -/

/-- A return stack with one place left, in the task and in a handler, and a LOOP in its last turn. -/
theorem witness_FrameWords :
    (let s := atLoop.modRow 0 fun r => { r with rstack := List.replicate 15 6 }
     s.row.enabled on = true ∧ s.row.stack.length < (if s.row.handler then 4 else 16) ∧ s.row.stack = 6 :: List.replicate 14 6)
      ∧ (let s := atLoop.modRow 0 fun r => { r with handler := true, hstack := List.replicate 3 6 }
         s.row.enabled on = true ∧ s.row.stack.length < (if s.row.handler then 4 else 16))
      ∧ (let s := atLoop.modRow 0 fun r => { r with k := [(3, 1)] }
         s.row.enabled on = true ∧ s.k (⟨3, 0, 16⟩ : SLP).kc = 1)
      ∧ (inWord 0 running).lastFrameWord = true ∧ (inWord 0 running).row.halted = none := by decide +kernel

theorem witness_LoopRepeats : atLoop.row.enabled on = true ∧ atLoop.k (⟨3, 0, 16⟩ : SLP).kc ≠ 1 := by decide +kernel

theorem witness_ReturnStackTraps :
    (let s := atLoop.modRow 0 fun r => { r with rstack := List.replicate 16 6 }
     s.row.enabled on = true ∧ s.row.stack.length = if s.row.handler then 4 else 16)
      ∧ (let s := atLoop.modRow 0 fun r => { r with handler := true, hstack := List.replicate 4 6 }
         s.row.enabled on = true ∧ s.row.stack.length = if s.row.handler then 4 else 16)
      ∧ atLoop.row.enabled on = true ∧ atLoop.row.stack = [] := by decide +kernel

/-- A row with one clause that has started and one that starts after the present cycle. -/
def twoClauses : State := atLoop.modRow 0 fun r => { r with clauses := r.clauses ++ [{ id := 6, addr := 6, cls := 1, cnt := 1, start := 101, fb := some 900, wait := 0 }] }

theorem witness_HaltEndsTheStream :
    twoClauses.row.enabled on = true ∧ twoClauses.row.handler = false ∧ (twoClauses.row.clauses.map (·.startGcc)) = [some 940, some 1001] ∧ twoClauses.gcc = 1000
      ∧ (twoClauses.modRow 0 fun r => { r with handler := true }).row.handler = true
      ∧ (twoClauses.modRow 0 fun r => { r with handler := true }).row.enabled on = true := by decide +kernel

theorem witness_SlackReports :
    atLoop.row.handler = false ∧ atLoop.row.enabled on = true ∧ (⟨0, 0, 5, 0⟩ : SRI).imm ≠ 0 ∧ (atLoop.modRow 0 fun r => { r with handler := true }).row.handler = true := by
  decide +kernel

theorem witness_GalignReports : atLoop.row.enabled on = true ∧ atLoop.row.enabled off = false := by decide +kernel

/-- A task under a pending pre-emption request that its members agree on. -/
def underPreempt : State := atLoop.modTask 0 fun t => { t with preempt := some { strm := 0, pkt := ⟨7, false, 0x10000, 0x8000, 0x400⟩, q := 990, pending := true } }

theorem witness_DisabledWordsDoNothing_tiles :
    regs.core.enabled off = false ∧ mtstPair .f32 .i8 = false ∧ mtstPair .f32 .e4m3 = true := by decide +kernel

theorem witness_PreptStopsForAPreemption :
    underPreempt.row.handler = false ∧ underPreempt.row.enabled on = true ∧ underPreempt.task.preemptTakes = true ∧ underPreempt.task.preempt ≠ none ∧ atLoop.task.preempt = none
      ∧ atLoop.row.handler = false ∧ atLoop.task.preemptTakes = false ∧ atLoop.row.enabled off = false
      ∧ (atLoop.modRow 0 fun r => { r with handler := true }).row.handler = true := by decide +kernel

theorem witness_TrapAndBreakpoint :
    atLoop.row.enabled on = true ∧ atLoop.row.sstep.getLsbD 1 = false ∧ (atLoop.modRow 0 fun r => { r with sstep := 2 }).row.sstep.getLsbD 1 = true
      ∧ (atLoop.modRow 0 fun r => { r with sstep := 2 }).row.enabled on = true := by decide +kernel

theorem witness_RegionsOpenAndClose :
    atLoop.row.enabled on = true ∧ atLoop.row.handler = false ∧ (atLoop.clause?.map (·.startGcc)) = some (some 940) := by decide +kernel

theorem witness_SequencerReadsAndWrites :
    atLoop.row.enabled on = true ∧ (⟨1, 0xF00, 0⟩ : SCR).sel.toNat / 256 = 15 ∧ (⟨1, 0xF00, 0⟩ : SCR).sel.toNat % 256 ≠ 0x0E
      ∧ (⟨1, 0xF0E, 0⟩ : SCR).sel.toNat / 256 = 15 ∧ (⟨1, 0xF0E, 0⟩ : SCR).sel.toNat % 256 = 0x0E ∧ (⟨1, 0x704, 0⟩ : SCR).sel.toNat / 256 = (7 : Fin 8).1
      ∧ (⟨1, 0x004, 0⟩ : SCR).sel.toNat / 256 = (0 : Fin 8).1 := by decide +kernel

theorem witness_CoreReadsReturnToTheSequencer :
    ({ running with cur := { core := 6 } } : State).cur.core < 7 ∧ ({ running with cur := { core := 6 } } : State).cur.gang = true ∧ ({ running with cur := { core := 7 } } : State).cur.core = 7 := by decide +kernel

/-! ## The vector engine -/

theorem witness_VectorIntegerResults :
    laneOps.length = 15 ∧ (lanes 1 2 3).core.enabled on = true ∧ comparisons.length = 8 ∧ (comparisons.map Prod.fst)[0]? = some 1
      ∧ ({ rrr 3 1 2 5 with cnd := 1 } : RRR).cnd = 1 := by decide +kernel

theorem witness_VectorFloatResults : floatOps.length = 17 ∧ (lanes 1 2 3).core.enabled on = true := by decide +kernel

/-- A signalling and a quiet NaN, under every word but VCLASS. -/
theorem witness_NanOperandsGiveTheCanonicalNan :
    (floatOps[0]?.map fun o => o.1 on (rrr 3 1 2 5)) = some (.vadd on (rrr 3 1 2 5)) ∧ Instr.vadd on (rrr 3 1 2 5) ≠ .vclass on (rrr 3 1 2 5)
      ∧ (f32 0x7F800001).isNan = true ∧ (f32 0x7F800001).isSnan = true ∧ (f32 0x7FC00000).isNan = true ∧ (f32 0x3F800000).isNan = false := by decide +kernel

theorem witness_VectorMoves : moveOps.length = 6 ∧ (lanes 1 2 3).core.enabled on = true := by decide +kernel

/-- A whole vector and the narrowest segments. -/
theorem witness_IntegerReductions :
    (lanes 1 2 3).core.enabled on = true ∧ (rrr 3 1 2 0).ty ≠ 1 ∧ (lanes 1 2 3).core.seg ≤ 128 ∧ ((lanes 1 2 3).here fun c => { c with seg := 1 }).core.seg ≤ 128 := by
  decide +kernel

theorem witness_FloatReductions : (lanes 1 2 3).core.enabled on = true ∧ ({ rrr 3 1 2 0 with ty := 1 } : RRR).ty = 1 := by decide +kernel

theorem witness_VotesAndMasks : (lanes 1 2 3).core.enabled on = true := by decide +kernel

theorem witness_VectorConversions : (lanes 1 2 3).core.enabled on = true := by decide +kernel

/-- Word elements that end at the end of the store, half-byte elements, and a gather of two lanes from one bank word. -/
theorem witness_VectorMemoryResults :
    (let s := running.here fun c => c.wa 1 0x17FFE00
     let f := { mem 3 1 0 with ty := 20 }
     s.core.enabled on = true ∧ s.vecCheck (Ty.of f.ty) f.swz.toNat (s.core.memBase f) = none
       ∧ CleanBytes s ((addrs (s.core.memBase f) (64 * (Ty.of f.ty).nibbles)).map (swizzle f.swz.toNat)))
      ∧ (let s := running.here fun c => c.wm 1 [(0, true), (5, true)]
         let f := { rrr 3 1 2 0 with msk := 1, ty := 20 }
         s.core.enabled on = true ∧ s.gatherCheck (gatherTy f.ty) ((s.core.lanes f.msk.toNat).map (s.gatherAddr f)) = .inr [(0, [0])]
           ∧ CleanBytes s ((s.core.lanes f.msk.toNat).map (s.gatherAddr f))) := by
  unfold CleanBytes; decide +kernel

theorem witness_VectorMemoryTraps :
    (let s := running.here fun c => c.wa 1 0x17FFE01
     let f := { mem 3 1 0 with ty := 20 }
     s.core.enabled on = true ∧ s.vecCheck (Ty.of f.ty) f.swz.toNat (s.core.memBase f) = some 0 ∧ lsEnd < s.core.memBase f + 64 * (Ty.of f.ty).nibbles
       ∧ 0 < (Ty.of f.ty).nibbles)
      ∧ (let s := running.here fun c => c.wa 1 0x17FFDFF
         let f := { mem 3 1 0 with ty := 20 }
         s.vecCheck (Ty.of f.ty) f.swz.toNat (s.core.memBase f) = some 1 ∧ s.core.memBase f + 64 * (Ty.of f.ty).nibbles ≤ lsEnd
           ∧ s.core.memBase f % max 1 ((Ty.of f.ty).nibbles / 2) ≠ 0)
      ∧ (let s := running.here fun c => (c.wm 1 [(0, true)]).wa 1 0x1800000
         let f := { rrr 3 1 2 0 with msk := 1, ty := 20 }
         s.core.enabled on = true ∧ s.gatherCheck (gatherTy f.ty) ((s.core.lanes f.msk.toNat).map (s.gatherAddr f)) = .inl 0) := by decide +kernel

/-! ## The matrix engine -/

/-- A descriptor of a type with rows and columns. -/
def desc (ty rows cols : Nat) : Word := BitVec.ofNat 64 (ty * 2 ^ 56 + (rows - 1) * 2 ^ 41 + (cols - 1) * 2 ^ 32)

/-- TD1 and TD2 for two rows of 32 E4M3 elements, TD3 for the FP32 product, TD4 for 64 rows of 64 FP32 elements. -/
def tiles : State := (inWord 3 running).here fun c => { c with td := [(1, desc 4 2 32), (2, desc 4 2 32), (3, desc 1 2 2), (4, desc 1 64 64)] }

theorem witness_TileDescriptors :
    (let s := tiles.here fun c => c.wa 2 0x0100003F00000000
     s.core.enabled on = true ∧ tdValid (s.opB (rrr 3 0 2 0)) = true)
      ∧ (let s := tiles.here fun c => c.wa 2 0x0100007F00000000
         s.core.enabled on = true ∧ tdValid (s.opB (rrr 3 0 2 0)) = false) := by decide +kernel

/-- The same with the first word of tiles 1 to 4 uncorrectable. -/
def spoiled : State := tiles.here fun c => { c with tileCls := [(2048, .uncorrectable), (4096, .uncorrectable), (6144, .uncorrectable), (8192, .uncorrectable)] }

theorem badTileWord_of {s : State} {xs : List (Nat × Nat × Nat)} (t hi : Nat) (h : (t, 0, hi) ∈ xs) (h0 : 0 < hi)
    (h1 : Sparse.get .clean s.core.tileCls (2048 * t) = .uncorrectable) : BadTileWord s xs :=
  ⟨(t, 0, hi), h, 0, by simp, by simpa using h0, by simpa using h1⟩

/-- No word that a word of column M reads is uncorrectable, and some word is: the operands of MMA and MTT, the rows of MTST, a whole tile. -/
theorem witness_TileWords :
    (∀ xs, ¬BadTileWord tiles xs) ∧ BadTileWord spoiled (operandSpans 1 (desc 4 2 32)) ∧ BadTileWord spoiled (operandSpans 4 (desc 1 64 64))
      ∧ BadTileWord spoiled ((List.range (tdRows (desc 1 2 2))).map fun r => (3, 256 * r, 256 * r + tdRowBytes (desc 1 2 2)))
      ∧ BadTileWord spoiled [(1, 0, 16384)] := by
  have h0 : tiles.core.tileCls = [] := by decide +kernel
  refine ⟨?_, badTileWord_of 1 32 ?_ ?_ ?_, badTileWord_of 4 256 ?_ ?_ ?_, badTileWord_of 3 8 ?_ ?_ ?_, badTileWord_of 1 16384 ?_ ?_ ?_⟩
  · rintro xs ⟨x, _, j, _, _, h⟩
    rw [h0] at h
    simp [Sparse.get] at h
  all_goals decide +kernel

/-- A whole FP32 tile, one that does not fit below the end of the store, and a raw tile. -/
theorem witness_TileLoads :
    (let f := mem 4 0 0
     let d := tiles.core.rtd f.d.toNat
     tiles.core.enabled on = true ∧ tdType d ≠ .none ∧ tdRows d = 64 ∧ tdRowBytes d = 256
       ∧ tiles.tileCheck 0 256 256 64 (groupBanks tiles.gcc (tileGroups 0 256 f.swz.toNat 256 64)) = none)
      ∧ (let s := tiles.here fun c => c.wa 1 0x17FC040
         s.tileCheck 0x17FC040 256 256 64 (groupBanks s.gcc (tileGroups 0x17FC040 256 0 256 64)) = some 0 ∧ tdType (s.core.rtd (mem 4 1 0).d.toNat) ≠ .none)
      ∧ tdType (tiles.core.rtd (mem 0 0 0).d.toNat) = .none := by decide +kernel

theorem witness_TileStores :
    (let f := { mem 3 0 0 with ty := 4 }
     let d := tiles.core.rtd f.d.toNat
     tiles.core.enabled on = true ∧ (mtstPair (tdType d) (Ty.of f.ty) && !(Ty.of f.ty == .e2m1 && tdCols d % 2 == 1)) = true
       ∧ tiles.tileCheck 0 2 (tileBytes .e4m3 2) 2 (groupBanks (tiles.gcc + 4) (tileGroups 0 2 0 (tileBytes .e4m3 2) 2)) = none)
      ∧ (mtstPair (tdType (tiles.core.rtd 3)) (Ty.of 16) && !(Ty.of 16 == .e2m1 && tdCols (tiles.core.rtd 3) % 2 == 1)) = false
      ∧ tiles.tileCheck 0x17FFFFE 2 (tileBytes .e4m3 2) 2 (groupBanks (tiles.gcc + 4) (tileGroups 0x17FFFFE 2 0 (tileBytes .e4m3 2) 2)) = some 0 := by decide +kernel

/-- A group of a load from a clean word, one from a poisoned word, and a group of a store. -/
theorem witness_TileGroups :
    (let g : TileGroup := { wid := 1, store := false, tile := 4, done := 8, loads := [(0x40, 0)], clear := [], stores := [], nth := 0 }
     g.store = false ∧ CleanBytes running (g.loads.map Prod.fst)
       ∧ ∃ a ∈ g.loads.map Prod.fst, (running.here fun c => { c with lsCls := [(8, .poisoned)] }).core.cls a = .poisoned)
      ∧ ({ wid := 1, store := true, tile := 4, done := 8, loads := [], clear := [], stores := [(0x40, 1)], nth := 0 } : TileGroup).store = true := by
  unfold CleanBytes; decide +kernel

theorem witness_Products :
    tiles.core.enabled on = true ∧ mmaOk (tiles.core.rtd 1) (tiles.core.rtd 2) (tiles.core.rtd 3) 1 = true
      ∧ mmaOk (tiles.core.rtd 1) (tiles.core.rtd 2) (tiles.core.rtd 3) 2 = false ∧ (rrr 3 1 2 0).aux.toNat % 8 + 1 = 1 := by decide +kernel

theorem witness_AccumulatorReads :
    (after (.mma on (rrr 3 1 2 0)) tiles).agenda.any (fun e => match e.work with
      | .ev (.registerWriteBack w) => w.job.isSome
      | _ => false) = true := by decide +kernel

theorem witness_IntegerProductsAreExact :
    ([0xFF, 2] : List Byte).length = ([3, 0x80] : List Byte).length ∧ (∀ k ∈ [127, 127], k = 127) ∧ (∀ k ∈ ([] : List Nat), k = 127) := by decide +kernel

/-- A stream at its head, one with an arrived header, none, one whose product does not fit, and one that core 7 cannot forward. -/
theorem witness_StreamsBegin :
    (let f := { rrr 3 1 2 7 with aux := 0 }
     tiles.core.enabled on = true ∧ tiles.core.rp f.c.toNat = true ∧ (tiles.header true false 2).isSome = true
       ∧ ((tiles.header true false 2).map fun y => mmaOk (tiles.core.rtd 1) y.desc (tiles.core.rtd 3) 1) = some true
       ∧ ((tiles.header true false 2).map fun y => mmaOk (tiles.core.rtd 1) y.desc (tiles.core.rtd 3) 2) = some false
       ∧ tiles.core.rp (f.aux.toNat / 8 % 8) = false ∧ tiles.neighbour tiles.cur.row tiles.cur.core 0 ≠ none)
      ∧ tiles.header false false 2 = none ∧ tiles.header false true 1 = none
      ∧ mmaOwnOk (tiles.core.rtd 1) (tiles.core.rtd 3) 1 = true ∧ mmaOwnOk (tiles.core.rtd 1) (tiles.core.rtd 3) 2 = false
      ∧ (let s := { tiles with cur := { tiles.cur with core := 7 } }
         s.core.rp (({ rrr 3 1 2 7 with aux := 0x38 } : RRR).aux.toNat / 8 % 8) = true ∧ s.neighbour s.cur.row s.cur.core 0 = none)
      ∧ ((tiles.header true true 1).map fun y => (tdValid y.desc, tdType y.desc)) = some (true, .e4m3) := by decide +kernel

/-- A stream of two slices that has its first. -/
def inStream : State := tiles.here fun c => { c with stream := some { wid := 1, mfwd := false, head := false, fwd := true, n := 2, tile := 3, zero := false, start := 999, descA := 0, slices := [[1]] } }
def slice (idx : Nat) : StreamCyc := { (tiles.core.streamSlice false 2 (desc 4 2 32) idx) with idx := idx, mfwd := false, bad := false }

theorem witness_StreamCycles :
    (slice 0).idx = 0 ∧ (slice 2).idx ≠ 0 ∧ tiles.core.stream = none
      ∧ (inStream.core.stream.map fun u => (u.mfwd, u.slices.length + 1, u.dead, u.fwd, u.n)) = some ((slice 2).mfwd, (slice 2).idx, false, true, 2)
      ∧ (slice 2).bad = false ∧ (inStream.core.stream.map fun u => u.slices.length + 1) ≠ some (slice 1).idx
      ∧ inStream.neighbour inStream.cur.row inStream.cur.core 0 = some (0, 1) := by decide +kernel

theorem witness_TileMoves :
    tiles.core.enabled on = true
      ∧ (let z := tileNibs (tdType (tiles.core.rtd 4)) / 2
         z = 4 ∧ ¬(tdType (tiles.core.rtd 4) = .none ∨ z = 0 ∨ 4 / z ≤ 0 ∨ 4 / z ≤ 0) ∧ 4 / z ≤ 1)
      ∧ (tdType (tiles.core.rtd 4) = .f32 ∧ tdRows (tiles.core.rtd 4) = tdRows (tiles.core.rtd 4))
      ∧ ¬(tdType (tiles.core.rtd 1) = .f32) := by decide +kernel

end Sys2Proof.Tests
end

