-- ==== Sys2Proof/Tests/Witness1.lean ====
section
/-! SUPPORT. For every statement with hypotheses, a state and operands that meet them together, clause by clause: links, the window,
modules, collective plans, gang time, stops, the dispatcher and the step. -/

open Sys2Proof Sys2Proof.Machine Sys2Proof.Claims

namespace Sys2Proof.Tests

set_option Elab.async false

/-! ## Mesh links and puts -/

/-- Core 0 of a running row, in a word of column X. -/
def linked : State := inWord 5 running

/-- The neighbour's western buffer with some places taken. -/
def taken (n : Nat) : State := linked.modCore 0 1 fun c => c.modRx 1 fun b => { b with occupied := n }

/-- The own eastern buffer holding two entries, the second poisoned or not. -/
def holding (poison : List Nat) : State :=
  linked.here fun c => c.modRx 0 fun b => { b with entries := [⟨[1], []⟩, ⟨[2], poison⟩], occupied := 2 }

/-- The last free place of a buffer and one too few; two entries taken, a poisoned one, a missing one; a closed port. -/
theorem witness_MeshSendAndReceive :
    linked.core.enabled on = true
      ∧ ((taken 127).neighbour 0 0 0 = some (0, 1) ∧ (((taken 127).coreAt 0 1).rxb 1).occupied + ((taken 127).sendEntries (rrr 0 1 0 0)).length = 128)
      ∧ 128 < (((taken 128).coreAt 0 1).rxb 1).occupied + ((taken 128).sendEntries (rrr 0 1 0 0)).length
      ∧ linked.neighbour 0 0 1 = none
      ∧ ((holding []).neighbour 0 0 0 ≠ none ∧ (((holding []).core.rxb 0).entries.take 2).length = 2 ∧ ∀ e ∈ ((holding []).core.rxb 0).entries.take 2, e.poison = [])
      ∧ (∃ e ∈ ((holding [3]).core.rxb 0).entries.take 2, e.poison ≠ [])
      ∧ (((holding []).core.rxb 0).entries.take 3).length < 3 := by decide +kernel

/-- One piece at the last place of the store that holds it, one beyond, one unaligned, and a transfer of one entry each way. -/
theorem witness_MeshTransfers :
    (let s := linked.here fun c => c.wa 2 0x17FFE00
     s.core.enabled on = true ∧ (s.opB (rrr 0 0 2 0)).toNat + 512 * 1 ≤ 0x1800000 ∧ (s.opB (rrr 0 0 2 0)).toNat % 64 = 0
       ∧ s.neighbour 0 0 0 = some (0, 1) ∧ ((s.coreAt 0 1).rxb (opposite 0)).occupied + 1 ≤ 128 ∧ s.core.engFails ⟨s.gcc, 0x17FFE00, 512, 512, 0⟩ = false
       ∧ s.recvtReady 0 1 = false)
      ∧ ((taken 128).neighbour 0 0 0 = some (0, 1) ∧ 128 < (((taken 128).coreAt 0 1).rxb (opposite 0)).occupied + 1)
      ∧ linked.neighbour 0 0 1 = none
      ∧ (let s := (holding []).here fun c => { c with eng := [⟨1000, 0x1000, 512, 512, 0⟩] }
         s.neighbour 0 0 0 = some (0, 1) ∧ ((s.coreAt 0 1).rxb (opposite 0)).occupied + 2 ≤ 128 ∧ s.recvtReady 0 2 = true
           ∧ s.core.engFails ⟨s.gcc, 0, 1024, 512, 0⟩ = true)
      ∧ 0x1800000 < ((linked.here fun c => c.wa 2 0x17FFE40).opB (rrr 0 0 2 0)).toNat + 512 * 1
      ∧ ((linked.here fun c => c.wa 2 0x17FFDC1).opB (rrr 0 0 2 0)).toNat % 64 ≠ 0
      ∧ (holding []).recvtReady 0 2 = true ∧ (holding []).neighbour 0 0 0 ≠ none
      ∧ (holding []).core.engFails ⟨(holding []).gcc, 0, 1024, 512, 0⟩ = false := by decide +kernel

theorem witness_MeshPieces : linked.neighbour linked.cur.row linked.cur.core 0 = some (0, 1) ∧ 0 + 1 < 2 := by decide +kernel

theorem witness_MeshArrivals :
    (linked.core.rxb 0).entries = [] ∧ ((holding []).core.rxb 0).entries = ⟨[1], []⟩ :: [⟨[2], []⟩]
      ∧ (let s := { holding [] with cur := { (holding []).cur with due := 1000 } }
         s.cur.due = s.gcc ∧ s.cur.gang = true) := by decide +kernel

/-- A route of two members and a put descriptor to row 0, column 0. -/
def routed : State := linked.modTask 0 fun t => { t with routes := [(1, 2 ^ 127 + 2 ^ 72 * 500)] }

/-- Windows at the end of the store, beyond it, and empty; a put that passes and the faults of its route, row and source. -/
theorem witness_PutWords :
    (let s := linked.here fun c => (c.wa 1 0x17FFFC0).wa 2 0x40
     s.core.enabled on = true ∧ (s.core.ra 1).toNat % 64 = 0 ∧ (s.opB (rrr 0 1 2 0)).toNat % 64 = 0 ∧ (s.opB (rrr 0 1 2 0)).toNat ≠ 0
       ∧ (s.core.ra 1).toNat + (s.opB (rrr 0 1 2 0)).toNat ≤ 0x1800000)
      ∧ (let s := linked.here fun c => (c.wa 1 0x17FFFC0).wa 2 0x80
         0x1800000 < (s.core.ra 1).toNat + (s.opB (rrr 0 1 2 0)).toNat)
      ∧ (linked.opB (rrr 0 1 2 0)).toNat = 0
      ∧ routed.fputFault 0x17FFFC0 64 (2 ^ 52) = none ∧ routed.fputFault 0x17FFFC0 128 (2 ^ 52) = some (0x0F, 0)
      ∧ routed.fputFault 0 64 0 = some (6, 1) ∧ routed.fputFault 0 64 (2 ^ 52 + 2 ^ 47) = some (6, 2) ∧ routed.fputFault 0 64 (2 ^ 52 + 1) = some (6, 3) := by
  decide +kernel

/-- A window of two words with a barrier. -/
def windowed : State := linked.here fun c => { c with win := [(0, { base := 0x40, len := 0x80, ben := true, w := 2 })], w := [(2, { arm := true, pend := 128 })] }
def piece : PutPiece := { rank := 0, row := 0, col := 1, order := 1, win := 0, ofs := 0, bytes := List.replicate 128 5, poison := [] }

/-- At the place of a piece among the deliveries of its cycle. -/
def pieceAt (s : State) : State := { s with cur := { s.cur with rank := 28, ord := pieceOrd piece } }

/-- A piece at its place and one before it, over a port that opens it and one that does not; a piece as long as its window, and a third
piece of a cycle. -/
theorem witness_PutPieces_places :
    (pieceAt windowed).cur.gang = true ∧ (pieceAt windowed).cur.rank = 28 ∧ (pieceAt windowed).cur.ord = pieceOrd piece ∧ windowed.cur.rank ≠ 28
      ∧ (let s : State := { linked with cur := { linked.cur with gang := false }, pkg := { linked.pkg with su := [(4, { en := true, up := true, quar := true })] } }
         s.cur.gang = false ∧ s.opens (some (4, 0)) = false) := by decide +kernel

theorem witness_PutPieces :
    (let w := windowed.core.rwin piece.win
     ¬(3 ≤ (windowed.core.ingressNow windowed.gcc).1 ∨ windowed.core.putRoom
         < (windowed.core.ingressWait windowed.gcc (((List.range 128).map fun j => w.base + (piece.ofs + j) % w.len).zip piece.bytes)).length)
       ∧ piece.bytes.length = w.len ∧ w.ben = true)
      ∧ (let s := windowed.here fun c => { c with ingressPieces := 3, ingressAt := 1000 }
         3 ≤ (s.core.ingressNow s.gcc).1) := by decide +kernel

theorem witness_IngressDrains :
    (let s := linked.here fun c => { c with ingress := [⟨1, [(64, 1)], [], false⟩] }
     s.core.ingress ≠ [] ∧ s.core.eng = [] ∧ s.core.ingressAt ≠ s.gcc) := by decide +kernel

/-! ## The window -/

/-- The bounds of a size and of a stride, and values just outside. -/
theorem witness_ShapeWords :
    (let ok := fun (v : Int) (dim : Nat) (stride : Bool) => decide ((stride = false ∧ 0 ≤ v ∧ v < 2 ^ 24) ∨ (stride = true ∧ dim = 0 ∧ -(2 ^ 31) ≤ v ∧ v < 2 ^ 31)
       ∨ (stride = true ∧ dim ≠ 0 ∧ -(2 ^ 39) ≤ v ∧ v < 2 ^ 39))
     linked.core.enabled on = true ∧ (linked.opB (rrr 0 0 0 0)).toInt = 0 ∧ ok 0 0 false ∧ ok (2 ^ 24 - 1) 3 false ∧ !ok (2 ^ 24) 3 false ∧ ok (-(2 ^ 31)) 0 true
       ∧ !ok (2 ^ 31) 0 true ∧ ok (2 ^ 39 - 1) 1 true ∧ !ok (-(2 ^ 39) - 1) 1 true) := by decide +kernel

/-- Four bytes in one row, a share of 64, an extent of 4 KiB of module 3 and an index list of one word. -/
def shape4 : BitVec 256 := shpEdited (shpEdited (shpEdited (shpEdited 1 0 false 1) 1 false 1) 2 false 1) 3 false 1
def windowOn : State :=
  linked.here fun c => { (c.wa 1 0x1000).wa 2 0x40000 with
    g := [(1, setField (setField shape4 8 32 4) 192 40 64)], share := 64, extents := [⟨0x40000, 0x1000, 0x2000, 3, true, true, true⟩] }

def fetchBody : RRR := rrr 0 1 2 1
def gatherBody : RRR := { rrr 0 1 2 1 with aux := 3 * 8 }

theorem witness_FetchWords :
    windowOn.core.enabled on = true ∧ (fetchAsk windowOn fetchBody).x.n = 4 ∧ windowOn.xferFault (fetchAsk windowOn fetchBody) 0 = none
      ∧ (gatherAsk windowOn gatherBody).x.n ≠ 0 ∧ windowOn.xferFault (gatherAsk windowOn gatherBody) 0 = none
      ∧ (fetchAsk windowOn (rrr 0 1 2 0)).x.n = 0
      ∧ (let s := windowOn.here fun c => c.wa 1 0x17FFFFD
         s.xferFault (fetchAsk s fetchBody) 0 = some (0x0F, 0))
      ∧ (let s := windowOn.here fun c => { c with lfree := 9193 }
         s.xferFault (fetchAsk s fetchBody) 0 = some (7, 1))
      ∧ (let s := windowOn.here fun c => { c with limit := 3 }
         s.xferFault (fetchAsk s fetchBody) 0 = some (7, 0)) := by decide +kernel

theorem witness_StoreWords :
    windowOn.core.enabled on = true ∧ (storeAsk windowOn fetchBody).x.n = 4 ∧ windowOn.xferFault (storeAsk windowOn fetchBody) 0 = none
      ∧ (scatterAsk windowOn gatherBody).x.n ≠ 0 ∧ windowOn.xferFault (scatterAsk windowOn gatherBody) 1 = none
      ∧ (storeAsk windowOn (rrr 0 1 2 0)).x.n = 0
      ∧ (let s := windowOn.here fun c => { c with sfree := 1001 }
         s.xferFault (storeAsk s fetchBody) 0 = some (7, 2))
      ∧ (let s := windowOn.here fun c => c.wa 2 0x40FFD
         s.xferFault (storeAsk s fetchBody) 0 = some (6, 0)) := by decide +kernel

/-- The greatest count and one too many; a barrier that has come and one that has not. -/
theorem witness_BarrierWords :
    (let s := linked.here fun c => { c.wa 1 0xFFFFFFFF with w := [(2, { arm := true, pend := 0 }), (3, { arm := true, pend := 1 })] }
     s.core.enabled on = true ∧ (s.core.ra 1).toNat + (0 : BitVec 32).toNat < 2 ^ 32 ∧ 2 ^ 32 ≤ (s.core.ra 1).toNat + (1 : BitVec 32).toNat
       ∧ (s.core.rw 2).pend + (s.core.ra 1).toNat < 2 ^ 32 ∧ 2 ^ 32 ≤ (s.core.rw 3).pend + (s.core.ra 1).toNat
       ∧ (⟨2, 1, 4, 1⟩ : RRI).md.getLsbD 0 = true ∧ (⟨0, 0, 4, 0⟩ : RRI).md.getLsbD 0 = false
       ∧ (∀ n < 16, (⟨0, 0, 4, 0⟩ : RRI).imm.getLsbD n = true → (s.core.rw n).fault = none)
       ∧ (⟨0, 0, 12, 0⟩ : RRI).imm.getLsbD 3 = true ∧ (s.core.rw 3).fault ≠ none ∧ ∀ k < 3, (⟨0, 0, 12, 0⟩ : RRI).imm.getLsbD k = true → (s.core.rw k).fault = none)
      ∧ 2 ^ 32 ≤ ((linked.here fun c => c.wa 1 0xFFFFFFFFFFFFFFFF).core.ra 1).toNat + (1 : BitVec 32).toNat := by
  decide +kernel

/-- An enabled core whose barriers 0 to 2 have come, and a count at its greatest. -/
theorem witness_BarrierWordsTakeEffect :
    (let s := linked.here fun c => { c.wa 1 0xFFFFFFFF with w := [(2, { arm := true, pend := 0 })] }
     let f : RRI := ⟨3, 1, 0, 0⟩
     s.core.enabled on = true ∧ f.md.getLsbD 0 = false ∧ (s.core.ra f.a.toNat).toNat + f.imm.toNat < 2 ^ 32
       ∧ ∀ n < 16, (⟨0, 0, 7, 0⟩ : RRI).imm.getLsbD n = true → (s.core.rw n).fault = none) := by decide +kernel

theorem witness_Fences :
    (let s := linked.modTask 0 fun t => { t with effects := [(0, 999, 5096)] }
     s.core.enabled on = true ∧ (0, 999, 5096) ∈ s.task.effects ∧ 999 < s.gcc ∧ coreKey s.cur.row s.cur.core = 0) := by decide +kernel

/-- A transfer of 100 bytes that lands 64 bytes a cycle. -/
def landing : Xfer := { id := 9, kind := .fetch, row := 0, core := 0, g := 900, ch := 0, la := 0x1000, n := 100, s := 64, bar := some 2, shape := shape4, data := [(0, 5)] }
def withXfer (x : Xfer) : State := windowOn.modTask 0 fun t => { t with xfers := [x] }

/-- A cycle that is followed by another, and the last. -/
theorem witness_Landings :
    (withXfer landing).xfer? 9 = some landing ∧ 0 < landing.s ∧ 0 * landing.s < landing.n ∧ 1 * landing.s < landing.n ∧ landing.sw < 8
      ∧ min ((0 + 1) * landing.s) landing.n < landing.n ∧ min ((1 + 1) * landing.s) landing.n = landing.n := by decide +kernel

/-! ## The modules -/

/-- Rows of one FP32 element with a stride of 64 bytes; the index list at 0x2000 names row 1. -/
def tableOn : State := windowOn.here fun c => { c.wa 3 0x2000 with ls := [(0x2000, 1)] }

theorem witness_TableWords :
    tableOn.core.enabled on = true ∧ shpSize (Sparse.get 0 tableOn.core.g 1) 0 ≠ 0 ∧ shpSize (Sparse.get 0 tableOn.core.g 1) 3 ≠ 0
      ∧ tableOn.tableFault (tableOn.tableXfer gatherBody .mired) (tableOn.listAddr gatherBody) 1 true = none
      ∧ tableOn.tableFault (tableOn.tableXfer gatherBody .maadd) (tableOn.listAddr gatherBody) 1 false = none
      ∧ shpSize (Sparse.get 0 tableOn.core.g 0) 0 = 0
      ∧ (let s := tableOn.here fun c => { c with sfree := 1001 }
         s.tableFault (s.tableXfer gatherBody .mired) (s.listAddr gatherBody) 1 true = some (7, 2)
           ∧ s.tableFault (s.tableXfer gatherBody .maadd) (s.listAddr gatherBody) 1 false = some (7, 2)) := by decide +kernel

/-- The block of a copy of 64 bytes from 0x40000 to 0x40040, at the last place of the store. -/
def copyOn (op : Byte) : State :=
  windowOn.here fun c => { c.wa 1 0x17FFFC0 with
    ls := [(0x17FFFC0, op), (0x17FFFC4, 64), (0x17FFFC8, 0x40), (0x17FFFCA, 4), (0x17FFFD2, 4)] }

theorem witness_ModuleCommands :
    (let s := copyOn 1
     let a := (s.core.ra 1).toNat
     let x := s.blockXfer (rrr 0 1 0 0) (Memory.bytes s.core.ls a 64)
     s.core.enabled on = true ∧ a + 64 ≤ 0x1800000 ∧ a % 64 = 0 ∧ CleanBytes s (addrs a 64) ∧ blockFault (Memory.bytes s.core.ls a 64) = none ∧ s.core.share ≠ 0
       ∧ s.core.sfree ≤ s.gcc ∧ s.core.infl + 64 ≤ s.core.limit ∧ s.core.oneModule x.cmdAsks = none ∧ s.core.engFails ⟨s.gcc, a, 64, 512, 0⟩ = false
       ∧ x.len = 64)
      ∧ (let s := copyOn 4
         blockFault (Memory.bytes s.core.ls (s.core.ra 1).toNat 64) = some 0)
      ∧ (let s := (copyOn 4).here fun c => { c with lsCls := [(0x17FFFC0 / 8, .corrected)] }
         blockFault (Memory.bytes s.core.ls (s.core.ra 1).toNat 64) = some 0 ∧ s.core.cls (s.core.ra 1).toNat = .corrected
           ∧ ∀ x ∈ addrs (s.core.ra 1).toNat 64, s.core.cls x ≠ .poisoned ∧ s.core.cls x ≠ .uncorrectable)
      ∧ 0x1800000 < (((copyOn 1).here fun c => c.wa 1 0x17FFFC1).core.ra 1).toNat + 64
      ∧ (((copyOn 1).here fun c => c.wa 1 0x17FFFBF).core.ra 1).toNat % 64 ≠ 0 := by
  unfold CleanBytes; decide +kernel

theorem witness_TransfersMeetTheirModules :
    (let x := { landing with waits := [3] }
     (withXfer x).xfer? 9 = some x ∧ x.waits ≠ [])
      ∧ windowOn.xfer? 9 = none
      ∧ 16384 * (0 + 1) < ({ landing with len := 16385 } : Xfer).len := by decide +kernel

/-- A store of the word's four bytes to module 3, and the same with the schedule there stalled. -/
def storeX : Xfer := { landing with n := 4, kind := .store, shape := setField (setField shape4 8 32 4) 192 40 64, base := 0x40000, waits := [3] }

/-- A memory port that carries traffic to module 3. -/
def ported (s : State) : State := { s with pkg := { s.pkg with ports := [(5, { en := true, live := true, md := 3 })] } }

theorem witness_ModulesServe :
    (let s := ported (withXfer storeX)
     s.xfer? 9 = some storeX ∧ s.task.stallAt 3 = none ∧ s.pkg.offline.contains 3 = false ∧ s.portless 3 = false ∧ s.modBase = none
       ∧ (s.taskList.all fun t => t.stalls.isEmpty) = true ∧ s.lackingAt 3 (.store 9) = [] ∧ s.lackingAt 3 (.snapshot 9) = [] ∧ storeX.kind ≠ .mired
       ∧ (List.range 4).map (s.located storeX) = [some (3, 0x2000), some (3, 0x2001), some (3, 0x2002), some (3, 0x2003)])
      ∧ (let s := (ported (withXfer storeX)).modTask 0 fun t => { t with stalls := [{ md := 3, w := 990 }] }
         s.xfer? (opId (.store 9)) = some storeX ∧ (s.task.stallAt 3).isSome ∧ s.lackingAt 3 (.store 9) = []) := by decide +kernel

/-- A transfer that is late at its module, and no port to a module. -/
theorem witness_ModulesServe_absent :
    (let s := (withXfer storeX).modTask 0 fun t => { t with lates := [⟨9, 1000, none⟩] }
     s.lackingAt 3 (.store 9) ≠ [] ∧ s.portless 3 = true) := by decide +kernel

theorem witness_ModuleEvents :
    (withXfer landing).xfer? 9 = some landing ∧ landing.bar = some 2 ∧ (withXfer landing).modBase = none ∧ ∀ k, 0 < (withXfer landing).spares 3 (k % 8) := by
  refine ⟨by decide +kernel, by decide +kernel, by decide +kernel, fun _ => ?_⟩
  show 0 < 512 - 0
  decide

/-- A schedule without a stall; one that a further item is missing from; drains that lack something, that have come to the gang's GCC,
and that stand before it. -/
theorem witness_SchedulesStallAndDrain :
    linked.task.stallAt 3 = none
      ∧ (let s := linked.modTask 0 fun t => { t with stalls := [{ md := 3, w := 990, pos := 990, missing := [⟨⟨9, 990, none⟩, 5, 1064, 0⟩] }] }
         ∃ st, s.task.stallAt 3 = some st ∧ (∀ k ∈ st.missing, k.mark.id ≠ s.next) ∧ st.lacks = true ∧ s.pkg.offline.contains 3 = false)
      ∧ (let s := ported (linked.modTask 0 fun t => { t with stalls := [{ md := 3, w := 1000, pos := 1000 }] })
         (s.task.stallAt 3).map (fun st => (st.queue, st.waiters, st.lacks, decide (s.gcc ≤ st.pos))) = some ([], [], false, true)
           ∧ s.pkg.offline.contains 3 = false ∧ s.portless 3 = false)
      ∧ (let s := ported (linked.modTask 0 fun t => { t with stalls := [{ md := 3, w := 990, pos := 990 }] })
         (s.task.stallAt 3).map (fun st => (st.queue, st.lacks, decide (st.pos < s.gcc))) = some ([], false, true) ∧ s.task.ending = none
           ∧ s.pkg.offline.contains 3 = false ∧ s.portless 3 = false ∧ s.task.frozen = false)
      ∧ (let s := linked.modTask 0 fun t => { t with stalls := [{ md := 3, w := 990, pos := 990, gaps := [(991, 7)] }], schedFreeze := some 995 }
         (s.task.stallAt 3).map (fun st => decide (st.gaps = [(st.pos + 1, 7)])) = some true ∧ s.task.frozen = true
           ∧ s.pkg.offline.contains 3 = false) := by
  refine ⟨by decide +kernel, ⟨_, rfl, ?_⟩, by decide +kernel, by decide +kernel, by decide +kernel⟩
  decide +kernel

/-! ## Collective plans -/

/-- A plan of one SEND into the own chunk buffer, one DELIVER to column 0 and one RECV. -/
def sendEntry : PlanEntry := ⟨0, 2, 0, 1, 0, 2 ^ 15, 1, 1, 0, 2 ^ 15, 0x100, 0, 0x200, 5⟩
def recvEntry : PlanEntry := ⟨0, 1, 0, 1, 0, 2 ^ 15, 1, 1, 0, 0, 0, 0, 0x200, 5⟩
def deliverEntry : PlanEntry := ⟨4, 5, 0, 1, 0, 2 ^ 15, 1, 1, 0, 0, 0x100, 0, 0, 5⟩
def checkedEntry : PlanEntry := { sendEntry with flags := 1 }
def planned : State := linked.modTask 0 fun t => { t with plans := [{ index := 3, cbuf := 0, entries := [sendEntry, recvEntry, deliverEntry, checkedEntry] }] }

theorem witness_CollectiveRegisters :
    planned.core.enabled on = true ∧ (planned.task.plan? (({ rrr 1 0 0 0 with aux := 3 } : RRR).aux.toNat % 64)).isSome = true
      ∧ planned.task.plan? ((rrr 1 0 0 0).aux.toNat % 64) = none := by decide +kernel

/-- A run of the plan that is active. -/
def aRun : Run := { plan := 3, row := 0, core := 0, g := 990, p0 := 1118, e := 10, bases := [], ctrs := [(2, { pend := 1, got := 1 })], tags := [(5, 0x200, 2)] }
def inRun : State := planned.modTask 0 fun t => { t with runs := [aRun] }

/-- The greatest offset and one too great; an absent and an active plan. -/
theorem witness_RunsStart :
    (let s := planned.here fun c => c.wa 1 0xFFFFFF
     let f : RRI := ⟨1, 1, 3, 1⟩
     let es := ((s.task.plan? 3).map fun p => p.mine s.task.rank).getD []
     let p0 := s.gcc + s.task.llead + 64 + 0xFFFFFF
     let u : Run := { plan := 3, row := s.cur.row, core := s.cur.core, g := s.gcc, p0 := p0, e := runEnd es, bases := s.captureBases s.cur.slot es, bar := some 1 }
     s.core.enabled on = true ∧ f.imm.toNat % 64 = 3 ∧ (s.task.plan? 3).isSome ∧ (s.core.ra f.a.toNat).toNat < 2 ^ 24 ∧ es.length = 4
       ∧ (s.task.runs.any fun u => u.plan == 3) = false ∧ basesOk u es = true ∧ Sparse.get 0 s.task.crunAt 3 ≠ s.gcc + 1
       ∧ usesFail (s.task.activeUses ++ s.otherUses ++ runUses s.task.routes p0 es) = false ∧ s.putMeets s.cur.slot u es = false
       ∧ (s.claimRun s.cur.slot (runClaims u es)).isSome = true)
      ∧ 2 ^ 24 ≤ ((planned.here fun c => c.wa 1 0x1000000).core.ra 1).toNat
      ∧ planned.task.plan? 4 = none ∧ (inRun.task.runs.any fun u => u.plan == 3) = true ∧ Sparse.get 0 inRun.task.crunAt 3 ≠ inRun.gcc + 1
      ∧ (let s := planned.here fun c => { c with bt := [(0, 1)] }
         let es := ((s.task.plan? 3).map fun p => p.mine s.task.rank).getD []
         basesOk { plan := 3, row := 0, core := 0, g := s.gcc, p0 := 0, e := runEnd es, bases := s.captureBases s.cur.slot es } es = false) := by decide +kernel

/-- An unarmed and an armed counter; a check that fails and one that is not made. -/
theorem witness_ChunkOperations :
    inRun.task.run? 3 = some aRun ∧ inRun.task.entry? 3 1 = some recvEntry ∧ inRun.task.entry? 3 0 = some sendEntry ∧ inRun.task.entry? 3 2 = some deliverEntry
      ∧ (Sparse.get {} aRun.ctrs recvEntry.cntA).pend = 0 ∧ (Sparse.get {} aRun.ctrs 2).pend ≠ 0
      ∧ inRun.task.entry? 3 3 = some checkedEntry ∧ planChkA checkedEntry = true ∧ aRun.counted checkedEntry.cntA 0 = false
      ∧ planChkA sendEntry = false ∧ planChkB sendEntry = false ∧ inRun.rowOfId inRun.cur.slot (lsRef deliverEntry.d).1 = some 0
      ∧ planCvt deliverEntry = false ∧ 0 < deliverEntry.nb := by decide +kernel

/-- A beat for the run's tag, in its place among the landings of its cycle. -/
def aBeat (tag : Nat) : BeatMsg := { rank := 2, loc := false, plan := 3, k := 1, tag := tag, entry := 1, beat := ⟨List.replicate 64 7, []⟩ }
def landingBeat (s : State) : State := { s with cur := { s.cur with gang := true, rank := 31, ord := beatOrd (aBeat 5), part := .exch } }

/-- A beat before its place and at it; no run, an armed and an unarmed counter; a pairing of two members that is complete and one that is
not; a port that forwards, one that holds, and a beat that cannot be opened. -/
theorem witness_RunsGoOn :
    planned.cur.rank ≠ 31 ∧ (landingBeat planned).cur.rank = 31 ∧ (landingBeat planned).cur.ord = beatOrd (aBeat 5) ∧ (landingBeat planned).task.run? 3 = none
      ∧ (landingBeat inRun).task.run? 3 = some aRun ∧ aRun.tags.find? (fun x => x.1 == (aBeat 5).tag) = some ((aBeat 5).tag, 0x200, 2)
      ∧ (Sparse.get {} aRun.ctrs 2).pend ≠ 0 ∧ (Sparse.get {} ({ aRun with ctrs := [] } : Run).ctrs 2).pend = 0
      ∧ linked.opens none = true := by decide +kernel

/-- The run in a gang of two members, with starts that the other has announced. -/
def paired (ps : List (Nat × Nat × Nat × Nat)) : State := inRun.modTask 0 fun t => { t with members := 2, peerP0 := ps }

theorem witness_RunsGoOn_pairing :
    (paired [(3, 0, 1, 1118)]).task.members = 2 ∧ (paired [(3, 0, 1, 1118)]).task.rank = 0 ∧ Sparse.get 0 (paired [(3, 0, 1, 1118)]).task.runCount 3 = 0
      ∧ (3, 0, 1, 1118) ∈ (paired [(3, 0, 1, 1118)]).task.peerP0 ∧ (3, 0, 1, 1118) ∉ (paired []).task.peerP0
      ∧ ({ linked with pkg := { linked.pkg with su := [(4, { en := true, up := true, quar := true })] } } : State).opens (some (4, 0)) = false := by
  decide +kernel

theorem witness_RunsGoOn_down : (linked.suPort 4).takes 4 = false := rfl

/-- A port that is up takes traffic where it is not encrypted, or its key is in place. -/
theorem witness_RunsGoOn_port :
    (let s : State := { linked with pkg := { linked.pkg with su := [(4, { en := true, up := true, valid := [(0, true)] })] } }
     (s.suPort 4).takes 4 = true) := by
  show (true && !false && !false && (!suEncrypted 4 || true)) = true
  cases suEncrypted 4 <;> rfl

/-! ## Gang time -/

/-- A hold of two quanta announced for GCC 1100. -/
def announcedHold : State := linked.modTask 0 fun t => { t with announced := [⟨1100, 2, false, 0⟩] }

/-- As many quanta as announced, more than the limit, too late, just in time, and in a debugger's hold. -/
theorem witness_HoldRequests :
    2 ≤ (announcedHold.task.holdAt 1100).getD 0
      ∧ ((linked.task.holdAt 1064).getD 0 < 65 ∧ linked.task.holdLim + linked.task.freeAt linked.dcc 1064 < 65)
      ∧ ((linked.task.holdAt 1063).getD 0 < 1 ∧ 1 ≤ linked.task.holdLim ∧ (linked.task.holdRec 1063).any HoldRec.debug = false
          ∧ ¬(linked.dcc + linked.task.llead ≤ linked.dccReach 0 1063 + 256 * 0))
      ∧ ((linked.task.holdAt 1064).getD 0 < 64 ∧ 64 ≤ linked.task.holdLim ∧ linked.dcc + linked.task.llead ≤ linked.dccReach 0 1064 + 256 * 0
          ∧ linked.task.holdAt 1064 = none)
      ∧ (let s := { linked.modTask 0 fun t => { t with holding := some (⟨1000, 2, true, 0⟩, 1000) } with dcc := 2025 }
         (s.task.holdRec 1000).any HoldRec.debug = true ∧ (s.task.holdAt 1000).getD 0 < 65 ∧ s.task.freeAt s.dcc 1000 = 2 ∧ 65 ≤ s.task.holdLim + 2) := by
  decide +kernel

/-- The state in a hold of two quanta that began at DCC 1000. -/
def held (dcc : Nat) : State := { linked.modTask 0 fun t => { t with holding := some (⟨1000, 2, false, 0⟩, 1000) } with dcc := dcc }

/-- The same state, the report of the debugger that ends a hold being its operand. -/
def given (s : State) (xs : List Nat) : State := { s with cur := { s.cur with args := xs } }

theorem witness_HoldsRunAndEnd_operands :
    (held 1511).arg 0 0 = 0 ∧ (held 1512).arg 0 0 = 0 ∧ (given (held 1511) [1]).arg 0 0 ≠ 0 ∧ (given (held 1511) [1]).task.holding = some (⟨1000, 2, false, 0⟩, 1000)
      ∧ (given (held 1511) [1]).task.holding.any (fun x => x.1.debug) = false := by
  decide +kernel

theorem witness_HoldsRunAndEnd :
    linked.task.announced.find? (fun r => r.h == 1100) = none ∧ announcedHold.task.announced.find? (fun r => r.h == 1100) = some ⟨1100, 2, false, 0⟩
      ∧ (held 1256).task.holding ≠ none ∧ (1 < (⟨1000, 2, false, 0⟩ : HoldRec).length ∧ (⟨1000, 2, false, 0⟩ : HoldRec).length ≤ 2)
      ∧ (held 1511).task.holding = some (⟨1000, 2, false, 0⟩, 1000) ∧ (held 1511).dcc < 1000 + 256 * (⟨1000, 2, false, 0⟩ : HoldRec).length
      ∧ 1000 + 256 * (⟨1000, 2, false, 0⟩ : HoldRec).length ≤ (held 1512).dcc ∧ 1000 < (⟨1000, 0, true, 0⟩ : HoldRec).length
      ∧ (let s := linked.modTask 0 fun t => { t with armed := 5, armedFrom := 1000 }
         s.task.armedFrom ≤ s.gcc ∧ min s.task.armed 3 ≠ 0 ∧ s.task.slackHold = false)
      ∧ linked.row.running = true ∧ linked.row.halted = none
      ∧ (linked.modRow 0 fun r => { r with halted := some 999 }).row.halted ≠ none := by decide +kernel

/-- A transfer that is late for GCC 1064, at its last call and after a request, and one that a module waits for. -/
theorem witness_Lateness :
    (let l : LateMark := ⟨9, 1064, none⟩
     let s := linked.modTask 0 fun t => { t with lates := [l], asked := [(9, 1064)] }
     (∀ st ∈ s.task.stalls, ∀ k ∈ st.missing, k.mark.id ≠ l.id) ∧ s.task.lates = [l] ∧ (l.id, l.due) ∈ s.task.asked ∧ s.task.stalls = []
       ∧ s.task.atModule l = false ∧ s.gcc ≤ l.due ∧ s.markHeld s.cur.slot l = false
       ∧ s.lastCallOf s.cur.slot l.due ≤ s.dcc ∧ (s.task.holdAt l.due).getD 0 < s.lateLength s.cur.slot l
       ∧ s.lateLength s.cur.slot l ≤ s.task.holdLim ∧ s.dcc + s.task.llead ≤ s.dccReach s.cur.slot l.due + 256 * (s.task.holdAt l.due).getD 0)
      ∧ (let s := linked.modTask 0 fun t => { t with stalls := [{ md := 3, w := 990, missing := [⟨⟨9, 990, none⟩, 5, 1064, 0⟩] }] }
         ∃ st ∈ s.task.stalls, s.task.frozen = false ∧ st.draining = false ∧ st.missing ≠ [] ∧ ∀ k ∈ st.missing, k.mark.id = 9)
      ∧ (linked.modTask 0 fun t => { t with schedFreeze := some 1000 }).task.frozen = true
      ∧ (∀ k ∈ linked.task.lates, k.id ≠ 9) ∧ ∀ st ∈ linked.task.stalls, ∀ k ∈ st.missing, k.mark.id ≠ 9 := by decide +kernel

/-- A gang that stops. -/
def stoppedFor : State := linked.modTask 0 fun t => { t with stop := some { primary := ⟨1000, 0, 0, 1⟩, code := 0x0D } }

theorem witness_Reports :
    (let r : Point := ⟨.slack, 1, 0, 1, 990, 5, true⟩
     let s := linked.modTask 0 fun t => { t with points := [⟨.slack, 1, 0, 0, 980, 5, true⟩] }
     r.kind ≠ .idemb ∧ r.kind ≠ .ideme ∧ r.kind ≠ .halt ∧ (s.task.points.filter fun p => p.kind == r.kind && p.k == r.k).any (pointDiffers { r with gcc := r.gcc - s.task.shiftc }) = true
       ∧ s.task.awaited .slack 1 none = false)
      ∧ (linked.task.points.filter fun p => p.kind == .slack && p.k == 1) = [] ∧ linked.task.ending = none ∧ linked.task.stop = none
      ∧ linked.task.awaited .slack 1 none = true
      ∧ (let r : Point := ⟨.galign, 1, 1, 0, 990, 0, true⟩
         let s := linked.modTask 0 fun t => { t with points := [⟨.galign, 1, 0, 0, 980, 0, true⟩] }
         let same := s.task.points.filter fun p => p.kind == r.kind && p.k == r.k
         r.kind ≠ .halt ∧ same ≠ [] ∧ same.any (pointDiffers { r with gcc := r.gcc - s.task.shiftc }) = false
           ∧ ∀ p ∈ same, (r.kind == .galign && r.arg == 0) = true ∧ p.rank ≠ r.rank)
      ∧ stoppedFor.task.ending = none ∧ stoppedFor.task.stop ≠ none
      ∧ (linked.modTask 0 fun t => { t with ending := some { code := 1 } }).task.ending ≠ none
      ∧ (⟨.idemb, 0, 0, 0, 990, 9, true⟩ : Point).rank = linked.task.rank
      ∧ (⟨.ideme, 0, 1, 0, 990, 9, true⟩ : Point).rank ≠ linked.task.rank := by decide +kernel

theorem witness_Alignment :
    (let s := linked.modRow 0 fun r => { r with galign := some (1, 1000, 4), frameOpen := true }
     0 ∈ s.rowsOf s.cur.slot ∧ s.rows[0].galign = some (1, 1000, 4))
      ∧ (let s := linked.modRow 0 fun r => { r with handler := true, galignTask := some (1, 1000, 4), frameOpenTask := true }
         0 ∈ s.rowsOf s.cur.slot ∧ s.rows[0].handler = true ∧ s.rows[0].galign = none ∧ s.rows[0].galignTask = some (1, 1000, 4)) := by decide +kernel

/-! ## Stops, handlers and what follows -/

/-- The stop GCC of core 0 is the cycle of the work in hand. -/
def stopping : State := { linked.here fun c => { c with sigma := some 1000 } with cur := { linked.cur with due := 1000 } }

theorem witness_StopsReachEveryCore :
    linked.task.stop = none ∧ linked.task.ending = none ∧ 0 ∈ linked.rowsOf linked.cur.slot ∧ (linked.modTask 0 fun t => { t with ending := some { code := 1 } }).task.ending ≠ none
      ∧ stopping.cur.part = .core ∧ stopping.core.sigma = some stopping.cur.due ∧ stopping.core.frozen = false ∧ stopping.row.prept = none ∧ stopping.core.trapped = false
      ∧ (stopping.here fun c => { c with trapped := true }).core.trapped = true ∧ linked.cur.part = .core ∧ linked.core.sigma ≠ some linked.cur.due
      ∧ (let s := { inWord 0 running with cur := { (inWord 0 running).cur with due := 1000 } }.modRow 0 fun r => { r with sigma := some 1000 }
         s.cur.part = .seq ∧ s.row.sigma = some s.cur.due ∧ s.row.frozen = false ∧ s.row.front = none ∧ s.row.prept = none ∧ s.row.trapped = false
           ∧ (s.modRow 0 fun r => { r with trapped := true }).row.trapped = true) := by decide +kernel

theorem witness_HandlersBegin :
    (linked.modRow 0 fun r => { r with handler := true }).row.handler = true ∧ linked.row.handler = false ∧ linked.row.running = true ∧ linked.cur.core = 0 := by
  decide +kernel

/-- A stopped gang, and one that a debugger holds. -/
def stopped : State := linked.modTask 0 fun t => { t with stop := some { primary := ⟨1000, 0, 0, 1⟩, code := 0x0D } }

theorem witness_GangsResume :
    linked.task.stop = none ∧ stopped.task.stop ≠ none ∧ stopped.task.ending = none ∧ stopped.task.held = false ∧ 0 ∈ stopped.rowsOf stopped.cur.slot
      ∧ (let s := stopped.modTask 0 fun t => { t with holding := some (⟨1000, 0, true, 0⟩, 0) }
         s.task.stop ≠ none ∧ s.task.ending = none ∧ s.task.held = true ∧ s.task.holding = some (⟨1000, 0, true, 0⟩, 0)) := by decide +kernel

/-- A region of row 0. -/
def aRegion : Region := { tag := 9, addr := 3, entry := 940, k := [(3, 10)], q := [], rstack := [], fb := 900 }

theorem witness_RegionsRestart :
    linked.task.ending = none ∧ (∃ r ∈ linked.rowsOf linked.cur.slot, linked.rows[r].region = none)
      ∧ (let s := stopped.modRow 0 fun r => { r with region := some aRegion }
         s.task.ending = none ∧ ∀ r ∈ s.rowsOf s.cur.slot, s.rows[r].region = some aRegion) := by decide +kernel

/-- The operands left out, a common restart cycle with a least entry of the gang, and a restart that a row without a region rules out. -/
theorem witness_RegionsRestart_operands :
    stopped.arg 3 1 ≠ 0 ∧ (given stopped [2000, 900, 0, 1]).arg 3 1 ≠ 0 ∧ (given stopped [2000, 900, 0, 0]).arg 3 1 = 0
      ∧ (given stopped [2000, 900, 0, 0]).task.ending = none := by decide +kernel

/-! ## The dispatcher -/

/-- A clause of seven words at word 3, whose header has been read, with the dispatcher at a word of it. -/
def reading (a : Nat) : State :=
  linked.modRow 0 fun r => { r with rpos := some a, slen := 16, clauses := [{ id := 5, addr := 3, cls := 1, cnt := 7, start := 200, fb := some 900, wait := 0, read := decide (3 < a) }] }

def sframe : Word := 0x0200_0028_0000_0081

/-- A clause whose start is due in this cycle, beside other work of the cycle. -/
def starting1 (delivered : Option Nat) : State :=
  { (linked.modRow 0 fun r => { r with clauses := [{ id := 5, addr := 3, cls := 1, cnt := 1, start := 100, fb := some 900, wait := 4, delivered := delivered }] }) with
    cur := { linked.cur with due := 1000 }
    agenda := [{ due := 1000, part := .core, work := .ev (.clauseStart 5) }] }

/-- Reads beyond the end and of a word that no clause covers; a pad clause with a fault, and a clause delivered where the stream ends. -/
theorem witness_DispatcherReads_fail :
    ((reading 16).row.rpos = some 16 ∧ (reading 16).row.slen ≤ 16)
      ∧ ((reading 12).row.rpos = some 12 ∧ (reading 12).row.reading 12 = none)
      ∧ (reading 4).outranked 1 = false
      ∧ (starting1 (some 1001)).outranked 1 = true
      ∧ (let s := linked.modRow 0 fun r => { r with
            rpos := some 4, slen := 16, clauses := [{ id := 5, addr := 3, cls := 7, cnt := 1, start := 200, fb := some 900, wait := 0, read := true, fault := some 4 }] }
         s.row.rpos = some 4 ∧ (s.row.reading 4).map (fun c => (c.addr + c.cnt, c.cls, c.fault)) = some (4, 7, some 4) ∧ 4 < s.row.slen
           ∧ s.row.handler = false ∧ s.row.refeed = [])
      ∧ (let s := linked.modRow 0 fun r => { r with
            rpos := some 4, slen := 5, clauses := [{ id := 5, addr := 3, cls := 1, cnt := 1, start := 200, fb := some 900, wait := 0, read := true }] }
         s.row.rpos = some 4 ∧ (s.row.reading 4).map (fun c => (c.addr + c.cnt, c.cls, c.fault)) = some (4, 1, none) ∧ s.row.slen = 4 + 1
           ∧ s.row.framed 3 = false ∧ s.row.refeed = [] ∧ ∀ k ∈ s.row.clauses, k.id = 5 → s.row.reading 4 = some k) := by decide +kernel

/-- The cycle in the middle of a clause, the last word of a clause of column S whose run ends there, and a full queue. -/
theorem witness_DispatcherReads :
    ((reading 4).row.rpos = some 4 ∧ ((reading 4).row.reading 4).map (fun c => (c.addr, c.cnt)) = some (3, 7) ∧ 4 < (reading 4).row.slen
        ∧ 4 + 3 < 3 + 7 ∧ ∀ i < 4, (reading 4).row.reading (4 + i) = (reading 4).row.reading 4)
      ∧ (let s := (inWord 0 running).modRow 0 fun r => { r with
            rpos := some 4, slen := 16, sram := [(3, 0), (4, 0x1238_0000_0000_0000)]
            clauses := [{ id := 5, addr := 3, cls := 0, cnt := 1, start := 200, fb := some 900, wait := 0, read := true }] }
         s.row.rpos = some 4 ∧ (s.row.reading 4).map (fun c => (c.addr + c.cnt, c.cls, c.fault)) = some (4, 0, none) ∧ 4 < s.row.slen
           ∧ s.row.framed 3 = true ∧ s.row.refeed = [])
      ∧ (let s := (reading 3).modRow 0 fun r => { r with
            clauses := r.clauses ++ (List.range 32).map fun i => { id := 10 + i, addr := 100, cls := 1, cnt := 1, start := 0, fb := some 0, wait := 0, read := true, delivered := some 1 } }
         s.row.rpos = some 3 ∧ (s.row.reading 3).map (fun c => (c.addr, c.read, c.cls, c.column)) = some (3, false, 1, 1) ∧ s.row.queued 1 = 32) := by decide +kernel

/-- The start of a clause of column A: in time, late, faulty, claiming what is taken, with a barrier that has not come, and discarded. -/
def starting (f : Clause → Clause) : State :=
  { linked.modRow 0 fun r => { r with clauses := [f { id := 5, addr := 3, cls := 1, cnt := 1, start := 100, fb := some 900, wait := 4, delivered := some 990 }] } with
    cur := { due := 1000, part := .core, work := .ev (.clauseStart 5) } }

def aClause (f : Clause → Clause) : Option (Option (Nat × Nat)) := ((starting f).row.clauses.find? fun k => k.id == 5).map (·.dispatchFault 1000)

theorem witness_ClausesStart :
    aClause id = some none ∧ aClause (fun c => { c with delivered := some 1001 }) = some (some (3, 0)) ∧ aClause (fun c => { c with fault := some 5 }) = some (some (1, 5))
      ∧ aClause (fun c => { c with clash := true }) = some (some (2, 0)) ∧ (starting id).core.waitFault 4 = none ∧ (starting id).cur.core = 0
      ∧ ((starting id).here fun c => { c with w := [(2, { pend := 1 })] }).core.waitFault 4 = some (2, 0)
      ∧ (starting id).outranked 0 = false ∧ (starting id).outranked 3 = false
      ∧ aClause (fun c => { c with cls := 0, fault := some 5 }) = some (some (1, 5)) ∧ dispatchPlace 1 = 1
      ∧ (starting fun c => { c with cls := 0, fault := some 5 }).outranked 1 = false ∧ (starting1 (some 1001)).outranked (dispatchPlace 1) = true
      ∧ (aClause (fun c => { c with handler := true }) = some none ∧ (starting fun c => { c with handler := true }).task.ending = none)
      ∧ ((starting fun c => { c with dropped := true }).row.clauses.find? fun k => k.id == 5).map (·.dropped) = some true := by decide +kernel

theorem witness_CounterWindows :
    evWindow (Sparse.get 0 linked.core.evcfg 0) = none ∧ (evWindow (2 ^ 63 + 2 ^ 62 - 1)).isSome = true := by decide +kernel

/-! ## Results, stores, traps and the step -/

/-- A result for a3, one of another word for the same register in the same cycle, and one for a k register. -/
def result (ws : List RegWrite) : WriteBack := { wid := 1, writes := ws }
def atResult (part : Part) : State := { linked with cur := { rank := 3, due := 1000, part := part } }

theorem witness_ResultsAreWritten :
    (result [.a 3 5]).job = none ∧ (result [.a 3 5]).bound = none ∧ (result [.a 3 5]).ev = {} ∧ (result [.a 3 5]).hitTrap = false ∧ (result [.a 3 5]).acc = false
      ∧ (∀ x ∈ (result [.a 3 5]).writes, (atResult .core).conflicts 1 x = false) ∧ (atResult .core).cur.part = .core
      ∧ (∀ x ∈ (result [.k false 3 5]).writes, (atResult .seq).conflicts 1 x = false)
      ∧ (atResult .seq).cur.part = .seq ∧ (result [.v 3 ([127].map fun i => (i, 7))]).writes = [.v 3 [(127, 7)]]
      ∧ (let s := (atResult .core).add { due := 1000, rank := 3, part := .core, work := .ev (.registerWriteBack { wid := 2, writes := [.a 3 6] }) }
         s.cur.rank < 21 ∧ (∀ x ∈ (result [.a 3 5]).writes, s.conflicts 1 x = true)
           ∧ 21 ≤ ({ s with cur := { s.cur with rank := 21 } } : State).cur.rank) := by decide +kernel

/-- A clamping and a trapping bound register of v3 with the bounds −1 and 1, and lanes on either side. -/
theorem witness_EventsAndBounds :
    (atResult .core).cur.part = .core ∧ (result []).writes = [] ∧ (result []).late = false
      ∧ (∀ n < 4, Sparse.get 0 (atResult .core).core.evlim n = 0 ∧ (Sparse.get 0 (atResult .core).core.evcnt n).toNat < 2 ^ 32)
      ∧ (let b := (2 ^ 63 + 2 ^ 59 + 3 * 2 ^ 52 + 1 * 2 ^ 16 + 0xFFFF : Nat)
         let s := (atResult .core).here fun c => { c with bnd := [(0, BitVec.ofNat 64 b)] }
         s.core.boundOf 3 = some (BitVec.ofNat 64 b) ∧ (BitVec.ofNat 64 b).getLsbD 59 = true ∧ (BitVec.ofNat 64 b).extractLsb' 60 2 = 0#2
           ∧ (BitVec.ofNat 64 (b + 2 ^ 60)).extractLsb' 60 2 = 1#2 ∧ (∀ n < 4, (Sparse.get 0 s.core.evcfg n).getLsbD 63 = false)
           ∧ ((-2 : Lane)).slt (((BitVec.ofNat 64 b).extractLsb' 0 16).signExtend 32) = true ∧ s.row.handler = false ∧ s.task.stop = none ∧ s.core.undoAt ≠ s.gcc) := by
  decide +kernel

theorem witness_EventsAndBounds_no_conflict : ∀ x, (atResult .core).conflicts 1 x = false := fun _ => rfl

theorem witness_StoresTakeEffect :
    0x17FFFF8 % 8 = 0 ∧ 0 < 4 ∧ 4 < 8 ∧ 4 % 8 + 4 ≤ 8 ∧ (linked.here fun c => { c with lsCls := [(8, .poisoned)] }).core.cls 68 = .poisoned := by decide +kernel

theorem witness_TrapsAreTaken :
    linked.task.ending = none ∧ linked.row.handler = false ∧ linked.task.stop = none ∧ linked.core.undoAt ≠ linked.gcc ∧ linked.row.undoAt ≠ linked.gcc
      ∧ linked.cur.work ≠ .ev .singleStepTrap ∧ linked.row.front = none ∧ (linked.modRow 0 fun r => { r with handler := true }).row.handler = true
      ∧ (let s := linked.modRow 1 fun r => { r with task := some 0, rowid := 1 }
         1 ∈ s.rowsOf s.cur.slot) := by decide +kernel

/-- A due event, a due continuation, and a due word of the smallest program. -/
theorem witness_StepRunsWhatIsDue :
    ((linked.add { due := 1000, work := .ev .singleStepTrap }).pick.map fun p => p.1.work) = some (.ev .singleStepTrap)
      ∧ ((linked.add { due := 1000, work := .cont .idle }).pick.map fun p => p.1.work) = some (.cont .idle)
      ∧ (let s := State.reset.withFetchWord 128 (0x74B81000000001C0 * 2 ^ 64 + 0x2200002000000011)
         (s.pick.bind fun p => match p.1.work with
           | .word _ _ => (({ s with agenda := p.2, cur := p.1 } : State).word?).map fun x => (x.2.2.1, x.2.2.2)
           | _ => none) = some (.a, 0x74B8_1000_0000_01C0))
      ∧ encode (.movi ⟨2, 7, 0⟩ ⟨1, 0, 7, 0⟩) = some (.a, 0x74B8_1000_0000_01C0) ∧ WellFormed (.movi ⟨2, 7, 0⟩ ⟨1, 0, 7, 0⟩)
      ∧ Instr.movi ⟨2, 7, 0⟩ ⟨1, 0, 7, 0⟩ ≠ .mcmdCopy on fetchBody := by decide +kernel

theorem witness_DomainCyclesPass :
    linked.pick = none ∧ (linked.taskAt 0).live = true ∧ (linked.taskAt 1).live = false ∧ (linked.taskAt 0).slackHold = false ∧ (linked.taskAt 0).holding = none
      ∧ (held 1000).pick = none ∧ ((held 1000).taskAt 0).holding ≠ none
      ∧ (linked.modTask 0 fun t => { t with slackHold := true }).pick = none := by decide +kernel

/-- A word whose clause has gone. -/
theorem witness_StepsAreNotRefused :
    (match step (linked.add { due := 1000, work := .word 99 0 }) with
      | .fault x => some x
      | _ => none) = some .clauseGone := by decide +kernel

/-- Row 0 of the running task and core 0 hold nothing in their memories. -/
theorem witness_StepsKeepMemoryForm :
    (Memory.wf linked.modMem = true ∧ Memory.wf linked.host = true ∧ ∀ r c : Fin 8, Memory.wf (linked.coreAt r c).ls = true)
      ∧ linked.modBase = none ∧ (match step linked with
        | .next t => t.dcc
        | _ => 0) = 1 := by decide +kernel

theorem witness_MemoryReadsBack : Memory.wf [(3, 1), (9, 2)] = true ∧ Memory.wf ([] : Memory) = true := by decide +kernel

end Sys2Proof.Tests
end

