-- ==== Sys2Proof/Tests/Witness2.lean ====
section
/-! SUPPORT. For every statement with hypotheses, a state and operands that meet them together, clause by clause: streams, launch and
end of a task, pre-emption and restore, ports and lasers, start-up and management. -/

open Sys2Proof Sys2Proof.Machine Sys2Proof.Claims

namespace Sys2Proof.Tests

set_option Elab.async false

/-! ## Streams -/

/-- Stream 3 changed in the reset state. -/
def streamed (f : Stream → Stream) : State := State.reset.modStream 3 f

/-- A stream at base 0x8000 whose packets have the given bytes. -/
def packets (bs : List Byte) (f : Stream → Stream) : State :=
  { (streamed fun k => f { k with en := true, base := 0x8000 }) with host := Memory.putBytes [] 0x8000 bs }

/-- A packet in execution at offset 0. -/
def inPacket : State := streamed fun k => { k with en := true, base := 0x8000, tail := 64, busy := some { id := 1, pos := 0, next := 4, irq := true } }

/-- The package in safe function. -/
def safe : State := State.reset.modPkg fun p => { p with boot := { p.boot with full := false } }

/-- A package whose PCIe has not trained. -/
def hostDown : State := State.reset.modPkg fun p => { p with boot := { p.boot with stage := 0, full := false } }

theorem witness_hostUp : State.reset.hostUp = true ∧ hostDown.hostUp = false := by decide +kernel

theorem witness_StreamRegisters :
    State.reset.pkg.boot.full = true ∧ safe.pkg.boot.full = false ∧ (State.reset.stream 3).err = false
      ∧ (let s := packets [0, 0, 0, 0] fun k => { k with err := true, code := 0x10, pos := 0, tail := 4 }
         (s.stream 3).err = true ∧ (s.stream 3).badTail = false ∧ (s.stream 3).pos ≤ (s.stream 3).tail ∧ (s.stream 3).tail < (s.stream 3).size
           ∧ (s.stream 3).pos + 4 + 4 * (s.streamNat ((s.stream 3).base + (s.stream 3).pos) 4 / 2 ^ 12 % 2 ^ 12) ≤ (s.stream 3).tail) := by decide +kernel

/-- A PNOP at the last word of the stream, a packet with a reserved opcode, a tail that is no multiple of four and one at the size. -/
theorem witness_PacketsAreRead :
    (let s := packets [] fun k => { k with head := 4092, tail := 0 }
     (s.stream 3).en = true ∧ (s.stream 3).err = false ∧ (s.stream 3).busy = none ∧ (s.stream 3).head ≠ (s.stream 3).tail ∧ (s.stream 3).tail % 4 = 0
       ∧ (s.stream 3).tail < (s.stream 3).size ∧ s.readPacket 3 (s.stream 3) = some (.pnop 3)
       ∧ s.cut (2 ^ 64 - 1) ((s.stream 3).base + (s.stream 3).head) = false)
      ∧ (let s := packets [] id
         let s := s.modStream 3 fun k => { k with base := 2 ^ 63, tail := 4 }
         (s.stream 3).head ≠ (s.stream 3).tail ∧ s.cut (2 ^ 64 - 1) ((s.stream 3).base + (s.stream 3).head) = true)
      ∧ (let s := packets [0, 0, 0, 0xEE] fun k => { k with tail := 4 }
         (s.stream 3).head ≠ (s.stream 3).tail ∧ s.readPacket 3 (s.stream 3) = none)
      ∧ (let s := packets [] fun k => { k with tail := 6 }
         (s.stream 3).tail % 4 ≠ 0)
      ∧ (let s := packets [] fun k => { k with tail := 4096 }
         (s.stream 3).size ≤ (s.stream 3).tail) := by decide +kernel

theorem witness_PlainPackets :
    (inPacket.stream 3).busy ≠ none ∧ (inPacket.stream 3).saves = [] ∧ ((inPacket.modStream 3 fun k => { k with saves := [0x10000] }).stream 3).saves ≠ []
      ∧ ((inPacket.modStream 3 fun k => { k with saves := [0x10000] }).stream 3).busy ≠ none := by decide +kernel

/-- A module that no port leads to, a poisoned sector of module memory, and a task whose writes are not done. -/
def moduleAddr : Nat := 2 ^ 63 + 0x40

/-- The stream's PODMAP holds module 0. -/
def mapped (s : State) : State := s.modStream 3 fun k => { k with ctx := { k.ctx with podMap := 1 } }

theorem witness_Semaphores :
    (inPacket.stream 3).busy ≠ none ∧ inPacket.addrAway (inPacket.stream 3).ctx.podMap 0x9000 = false ∧ inPacket.addrBad 0x9000 = false
      ∧ inPacket.accessFails 0x9000 = false ∧ (inPacket.modPkg fun p => { p with hostBad := [0x9000 / 64] }).accessFails 0x9000 = true ∧ inPacket.modBase = none
      ∧ inPacket.streamNat 0x9000 8 = 0 ∧ ¬(1 ≤ inPacket.streamNat 0x9000 8) ∧ (inPacket.stream 3).wait = none
      ∧ (let s := inPacket.modStream 3 fun k => { k with wait := some ⟨0x9000, 1, false, 5⟩ }
         (s.stream 3).wait = some ⟨0x9000, 1, false, 5⟩ ∧ (s.stream 3).wait ≠ none)
      ∧ streamOk 0x9000 = true ∧ 0x9000 % 8 = 0 ∧ inPacket.owesWrites 3 = false
      ∧ (inPacket.modTask 0 fun t => { t with live := true, ghost := some 0x10000, strm := 3 }).owesWrites 3 = true
      ∧ inPacket.cut (inPacket.stream 3).ctx.podMap 0x9000 = false 
      ∧ (let s := mapped inPacket
         s.cut (s.stream 3).ctx.podMap moduleAddr = true ∧ s.addrAway (s.stream 3).ctx.podMap moduleAddr = false ∧ (s.stream 3).busy ≠ none)
      ∧ (let s := inPacket.modPkg fun p => { p with offline := [0] }
         streamOk moduleAddr = true ∧ s.addrAway (s.stream 3).ctx.podMap moduleAddr = true)
      ∧ ({ inPacket with modCls := [(1, .poisoned)] } : State).addrBad moduleAddr = true := by decide +kernel

def launchPkt : LaunchPkt := { taskid := 7, firstRow := 0xFF, flags := 0, holdLim := 0, image := 0x10000, dcc := 4096, report := 0x400, rank := 0, members := 1, gangTag := 0 }

/-- A RESUME of an image whose writes have not all taken effect. -/
theorem witness_EngineRequests :
    launchPkt.flags % 2 = 0 ∧ ({ launchPkt with flags := 1 } : LaunchPkt).flags % 2 = 1 ∧ ((inPacket.stream 3).busy.map (·.id)) = some 1
      ∧ ({ launchPkt with flags := 1 } : LaunchPkt).members ≤ 1
      ∧ (let s := { inPacket with host := Memory.putBytes [] 0x10000 (leBytes 4 0x5854435A ++ [1, 0, 1, 2]) }
         s.streamNat 0x10000 4 = 0x5854435A ∧ s.streamNat (0x10000 + 4) 2 = 1 ∧ s.streamNat (0x10000 + 7) 1 % 2 = 0)
      ∧ inPacket.streamNat 0x10000 4 ≠ 0x5854435A ∧ inPacket.modBase = none ∧ inPacket.cut (inPacket.stream 3).ctx.podMap 0x10000 = false
      ∧ (mapped inPacket).cut ((mapped inPacket).stream 3).ctx.podMap moduleAddr = true := by decide +kernel

/-- A request of stream 3 in an empty queue. -/
def asking (j : EngJob) : State := inPacket.modPkg fun p => { p with reqs := [(3, j)] }

theorem witness_EngineGrants :
    State.reset.pkg.reqs = [] ∧ ((asking (.planld 7 0x10000 0x400)).grant.map fun x => (x.2.1, x.2.2)) = some (3, .planld 7 0x10000 0x400) := by decide +kernel

/-- A plan in a module that no port leads to. -/
theorem witness_JobsWaitForPorts :
    (let s := mapped (asking (.planld 7 moduleAddr 0x400))
     (s.stream 3).prio < 4 ∧ s.pkg.engine = none ∧ s.pkg.reqs = [(3, .planld 7 moduleAddr 0x400)] ∧ s.jobCut 3 (.planld 7 moduleAddr 0x400) = true) := by
  decide +kernel

/-- The longest copy of one turn of the engine. -/
theorem witness_Copies :
    (let s := asking (.hcopy 0 0x10000 65536 none)
     (3 < 64) ∧ (s.stream 3).prio < 4 ∧ (s.stream 3).busy ≠ none ∧ s.pkg.engine = none ∧ s.pkg.reqs = [(3, .hcopy 0 0x10000 65536 none)] ∧ 0 < 65536 ∧ 65536 % 64 = 0
       ∧ 0 + 65536 ≤ 2 ^ 63 ∧ 0x10000 + 65536 ≤ 2 ^ 63 ∧ 0 + 65536 ≤ 0x10000 ∧ s.copyFails 0 0x10000 65536 = false) := by decide +kernel

/-- Between host memory and module 0: the module absent, an access that the host refuses, a clean copy each way, and a poisoned sector. -/
theorem witness_CopiesOfModules :
    (let src := moduleAddr
     let dst := 0x10000
     let s := asking (.hcopy src dst 128 none)
     let s' := (mapped s).modPort 5 fun p => { p with en := true, live := true, md := 0 }
     (src + 128 ≤ dst ∨ dst + 128 ≤ src) ∧ s.modBase = none ∧ (∀ a ∈ [src, dst], streamOk a = true ∧ streamOk (a + 128 - 1) = true ∧ a + 128 ≤ 2 ^ 64 ∧ inModule (a + 128 - 1) = inModule a)
       ∧ s.jobCut 3 (.hcopy src dst 128 none) = false ∧ s.addrAway (s.stream 3).ctx.podMap src = true
       ∧ s'.jobCut 3 (.hcopy src dst 128 none) = false ∧ s'.addrAway (s'.stream 3).ctx.podMap src = false ∧ s'.addrAway (s'.stream 3).ctx.podMap dst = false
       ∧ s'.copyFails src dst 128 = false ∧ (∀ k < 128 / 64, s'.addrBad (src + 64 * k) = false)
       ∧ (s'.modPkg fun p => { p with hostBad := [dst / 64] }).copyFails src dst 128 = true
       ∧ (let t : State := { s' with modCls := [(1, .poisoned)] }
          t.copyFails src dst 128 = false ∧ t.addrBad (src + 64 * 0) = true ∧ t.addrBad (src + 64 * 1) = false)) := by decide +kernel

/-! ## Launch and end of a task -/

/-- A task image of one row: the header, the section table, and a stream of one word. -/
def imageBytes : List Byte :=
  leBytes 4 0x4E45495A ++ leBytes 2 1 ++ leBytes 2 64 ++ leBytes 2 1 ++ leBytes 2 1 ++ leBytes 4 96 ++ leBytes 4 64 ++ leBytes 4 1 ++ leBytes 40 0
    ++ leBytes 2 1 ++ leBytes 1 1 ++ leBytes 1 0xFF ++ leBytes 4 0 ++ leBytes 4 80 ++ leBytes 4 16 ++ leBytes 8 0x0200_0020_0000_0090 ++ leBytes 8 0x1238_0000_0000_0000

def anImage : Image := ⟨1, 1, 96, [⟨1, 1, 0xFF, 0, 80, 16⟩]⟩
def launching : State := { asking (.launch launchPkt) with host := Memory.putBytes [] 0x10000 imageBytes }

/-- A task image of one row with these sections beside its stream. -/
def imageOf (secs : List (Nat × List Byte)) : List Byte :=
  let n := secs.length + 1
  let body := (leBytes 8 0x0200_0020_0000_0090 ++ leBytes 8 0x1238_0000_0000_0000) ++ secs.flatMap fun x => x.2
  let table := (secs.foldl (fun (a : List Byte × Nat) x =>
    (a.1 ++ leBytes 2 x.1 ++ leBytes 1 1 ++ leBytes 1 0xFF ++ leBytes 4 0 ++ leBytes 4 a.2 ++ leBytes 4 x.2.length, a.2 + x.2.length))
    (leBytes 2 1 ++ leBytes 1 1 ++ leBytes 1 0xFF ++ leBytes 4 0 ++ leBytes 4 (64 + 16 * n) ++ leBytes 4 16, 64 + 16 * n + 16)).1
  leBytes 4 0x4E45495A ++ leBytes 2 1 ++ leBytes 2 64 ++ leBytes 2 1 ++ leBytes 2 1 ++ leBytes 4 (64 + 16 * n + body.length) ++ leBytes 4 64 ++ leBytes 4 n ++ leBytes 40 0
    ++ table ++ body

/-- A LAUNCH that alone asks for the engine, with an image in host memory. -/
def launchOf (p : LaunchPkt) (secs : List (Nat × List Byte)) : State := { asking (.launch p) with host := Memory.putBytes [] 0x10000 (imageOf secs) }

/-- The conditions of `Alone` on a state, decided. -/
def alone (s : State) (j : EngJob) (report : Nat) : Bool :=
  decide ((s.stream 3).prio < 4 ∧ (s.stream 3).busy ≠ none ∧ s.pkg.engine = none ∧ s.pkg.reqs = [(3, j)] ∧ s.modBase = none ∧ s.jobCut 3 j = false
    ∧ streamOk report = true ∧ report % 32 = 0 ∧ s.cut (2 ^ 64 - 1) report = false)

theorem witness_Alone {s : State} {j : EngJob} {r : Nat} (h : alone s j r = true) : Alone s 3 j r := by
  simp only [alone, decide_eq_true_eq] at h
  exact ⟨by decide, h⟩

/-- What a LAUNCH of stream 3 finds: its image, its shares, its rows, whether its route table is away, and its plans. -/
def found (p : LaunchPkt) (s : State) : Option (Nat × Bool × Bool × Option Nat × Bool × Option (List Plan)) :=
  (s.readImage p.image).map fun m => (m.gang, sharesOk (s.imageShares p.image m), decide (s.rowCount < m.rows), s.rowSet p.firstRow m.rows,
    s.addrAway (s.stream 3).ctx.podMap (s.stream 3).ctx.rtAddr, readPlans 64 (s.imageSec p.image m 7))

/-- Shares that break R301, no row at all, a row that is taken, with WAITROWS and without, a route table in an absent module, a window too large,
plans that break R346. -/
theorem witness_LaunchesRefused_checks :
    (let s := launchOf launchPkt [(3, leBytes 128 1)]
     alone s (.launch launchPkt) 0x400 = true ∧ (found launchPkt s).map (fun x => (x.1, x.2.1)) = some (1, false))
      ∧ (let s := all8.foldl (fun s r => s.modRow r fun w => { w with present := false }) launching
         alone s (.launch launchPkt) 0x400 = true ∧ (found launchPkt s).map (fun x => (x.1, x.2.1, x.2.2.1)) = some (1, true, true))
      ∧ (∀ f ∈ [0, 2], let p := { launchPkt with firstRow := 0, flags := f }
         let s := (launchOf p []).modRow 0 fun w => { w with task := some 5 }
         alone s (.launch p) 0x400 = true ∧ (found p s).map (fun x => (x.1, x.2.1, x.2.2.1, x.2.2.2.1)) = some (1, true, false, none))
      ∧ (let s := launching.modStream 3 fun k => { k with ctx := { k.ctx with rtAddr := moduleAddr } }
         alone s (.launch launchPkt) 0x400 = true ∧ (found launchPkt s).map (fun x => (x.2.2.2.1, x.2.2.2.2.1)) = some (some 0, true))
      ∧ (let s := launching.modStream 3 fun k => { k with ctx := { k.ctx with cwd := 4096 } }
         alone s (.launch launchPkt) 0x400 = true ∧ 4096 < (s.stream 3).ctx.cwd + 64 ∧ s.readRoutes (s.stream 3).ctx.rtAddr = [])
      ∧ (let s := launchOf launchPkt [(7, leBytes 32 64)]
         alone s (.launch launchPkt) 0x400 = true ∧ (found launchPkt s).map (fun x => (x.2.2.2.1, x.2.2.2.2.2)) = some (some 0, none))
      ∧ (let s := launchOf launchPkt [(7, (leBytes 4 (2 ^ 16) ++ leBytes 60 0) ++ (leBytes 4 (2 ^ 16) ++ leBytes 60 0))]
         alone s (.launch launchPkt) 0x400 = true ∧ (found launchPkt s).map (fun x => x.2.2.2.2.2.map indicesOk) = some (some false)) := by decide +kernel

/-- A valid entry at the head of a route table is in what is read of the table. -/
theorem mem_readRoutes {s : State} {rt : Nat} (h : rt ≠ 0) (hv : routeVal (BitVec.ofNat 128 (s.streamNat rt 16)) = true)
    (h0 : BitVec.ofNat 128 (s.streamNat rt 16) ≠ 0) : (0, BitVec.ofNat 128 (s.streamNat rt 16)) ∈ s.readRoutes rt := by
  have hg : Sparse.get 0 (s.readRoutes rt) 0 = BitVec.ofNat 128 (s.streamNat rt 16) := by
    rw [State.readRoutes, if_neg h, List.range_succ_eq_map, List.map_cons, List.filter_cons_of_pos (by simpa using hv), Sparse.setMany,
      Sparse.get_setMany_other]
    · exact Sparse.get_set_same 0 [] 0 _
    · simp only [List.mem_filter, List.mem_map, List.mem_range]
      rintro e ⟨⟨i, ⟨k, -, rfl⟩, rfl⟩, -⟩
      exact Nat.succ_ne_zero k
  have := Sparse.mem_of_get_ne 0 (s.readRoutes rt) (i := 0) (by rw [hg]; exact h0)
  rwa [hg] at this

/-- A route to a rank that the gang does not have, at index 0 of the table at 0x20000. -/
def misrouted (s : State) : State :=
  { s.modStream 3 fun k => { k with ctx := { k.ctx with rtAddr := 0x20000 } } with host := Memory.putBytes s.host 0x20000 (leBytes 16 (2 ^ 127 + 2 ^ 112 + 5)) }

theorem witness_LaunchesRefused_routes :
    (let s := misrouted launching
     alone s (.launch launchPkt) 0x400 = true ∧ (found launchPkt s).map (fun x => (x.1, x.2.1, x.2.2.1, x.2.2.2.1, x.2.2.2.2.1)) = some (1, true, false, some 0, false)
       ∧ (s.readRoutes 0x20000).all (fun x => routeOk launchPkt.members ((s.stream 3).ctx.cwd + 64) x.2) = false) := by
  refine ⟨by decide +kernel, by decide +kernel, List.all_eq_false.2 ⟨_, mem_readRoutes (by decide) (by decide +kernel) (by decide +kernel), by decide +kernel⟩⟩

/-- A declaration of one page at 0x10000, readable by core 0. -/
def declBytes : List Byte := leBytes 8 0x10000 ++ leBytes 8 0x10000 ++ [1, 1, 1] ++ leBytes 13 0

/-- Page tables at address 0 of module 0: their four levels end at the module's page 0x10000; `top` is the entry of the first level. -/
def tables (top : Nat) (s : State) : State :=
  { s.modStream 3 fun k => { k with ctx := { k.ctx with ptRoot := 2 ^ 63, podMap := 3 } } with
    modMem := [(0, top), (2048, 2 ^ 63 + 2 * 2 ^ 11), (4096, 2 ^ 63 + 3 * 2 ^ 11), (6152, 2 ^ 63 + 7 * 2 ^ 59 + 32 * 2 ^ 11)].foldl
      (fun m x => Memory.putBytes m (modAddr 0 x.1) (leBytes 8 x.2)) [] }

/-- A port that carries traffic to module 0. -/
def reached (s : State) : State := s.modPort 5 fun p => { p with en := true, live := true, md := 0 }

/-- The page walks of a LAUNCH of stream 3, and whether the extent tables of its cores keep R145. -/
def walked (p : LaunchPkt) (s : State) : Option ((List (Nat × Nat) × Option (Nat × Walk)) × Bool) :=
  (s.readImage p.image).map fun m =>
    let ds := (s.imageDecls p.image m).filter fun d => d.used m.rows
    let w := s.walkPages (s.stream 3).ctx (declPages ds) []
    (w, (List.range m.rows).all fun r => (List.range 8).all fun c => tableOk (coreExtents (declExtents ds w.1) r c))

/-- No page tables, and tables in a module that is away, with a time for it and without. -/
theorem witness_WalksRefused_first :
    (let s := launchOf launchPkt [(4, declBytes)]
     alone s (.launch launchPkt) 0x400 = true ∧ (walked launchPkt s).map (·.1) = some ([], some (0x10000, .fails 0x13)))
      ∧ (let s := (launchOf launchPkt [(4, declBytes)]).modStream 3 fun k => { k with ctx := { k.ctx with ptRoot := 2 ^ 63 } }
         let s' := s.modPkg fun p => { p with walkTmo := 0 }
         alone s (.launch launchPkt) 0x400 = true ∧ (walked launchPkt s).map (·.1) = some ([], some (0x10000, .held)) ∧ s.pkg.walkTmo ≠ 0
           ∧ alone s' (.launch launchPkt) 0x400 = true ∧ (walked launchPkt s').map (·.1) = some ([], some (0x10000, .held)) ∧ s'.pkg.walkTmo = 0) := by decide +kernel

/-- A second level that no port reaches. -/
theorem witness_WalksRefused_cut :
    (let s := reached (tables (2 ^ 63 + 2 ^ 52 + 2 ^ 11) (launchOf launchPkt [(4, declBytes)]))
     alone s (.launch launchPkt) 0x400 = true ∧ (walked launchPkt s).map (·.1) = some ([], some (0x10000, .cut))) := by decide +kernel

/-- Two declarations of one page. -/
theorem witness_WalksRefused_tables :
    (let s := reached (tables (2 ^ 63 + 2 ^ 11) (launchOf launchPkt [(4, declBytes ++ declBytes)]))
     alone s (.launch launchPkt) 0x400 = true ∧ walked launchPkt s = some (([(0, 0x10000), (0, 0x10000)], none), false)) := by decide +kernel

/-- A launch DCC that is too near. -/
theorem witness_WalksRefused :
    (let p := { launchPkt with flags := 1, dcc := 63 }
     let s := launchOf p []
     alone s (.launch p) 0x400 = true ∧ walked p s = some (([], none), true) ∧ p.flags % 2 = 1 ∧ p.members ≤ 1 ∧ p.dcc < s.dcc + 64) := by decide +kernel

/-- A PLANLD of stream 3 for the running task 7 with this plan at 0x10000. -/
def loading (bs : List Byte) : State :=
  ({ asking (.planld 7 0x10000 0x400) with host := Memory.putBytes [] 0x10000 bs } : State).modTask 0 fun t => { t with live := true, taskid := 7, nrows := 1 }

/-- Plan 3 of one RECV into the chunk buffer. -/
def aPlan : Plan := ⟨3, 64, [⟨0, 1, 0, 0, 0, 2 ^ 15, 0, 1, 0, 0, 0, 0, 0, 5⟩]⟩

/-- No such task, a plan in an absent module, one that breaks R346, one whose run is active, and one that is installed. -/
theorem witness_PlansAreLoaded :
    (let s := { asking (.planld 7 0x10000 0x400) with host := [] }
     alone s (.planld 7 0x10000 0x400) 0x400 = true ∧ s.running 7 = none)
      ∧ (let s := (asking (.planld 7 moduleAddr 0x400)).modTask 0 fun t => { t with live := true, taskid := 7, nrows := 1 }
         alone s (.planld 7 moduleAddr 0x400) 0x400 = true ∧ s.running 7 = some 0 ∧ s.addrAway (s.stream 3).ctx.podMap moduleAddr = true)
      ∧ (let s := loading [64]
         alone s (.planld 7 0x10000 0x400) 0x400 = true ∧ s.running 7 = some 0 ∧ readPlan (s.streamBytes 0x10000 (32 + 32 * s.streamNat (0x10000 + 2) 2)) = none)
      ∧ (let s := loading (planBytes aPlan)
         let k := s.taskAt 0
         alone s (.planld 7 0x10000 0x400) 0x400 = true ∧ s.running 7 = some 0 ∧ s.addrAway (s.stream 3).ctx.podMap 0x10000 = false
           ∧ readPlan (s.streamBytes 0x10000 (32 + 32 * s.streamNat (0x10000 + 2) 2)) = some (aPlan, [])
           ∧ k.run? 3 = none ∧ planOk k.rank k.members k.nrows k.routes aPlan = true ∧ s.plansFit (some 0) ((k.plans.filter fun x => x.index != 3) ++ [aPlan]) = true
           ∧ 0 < k.nextWords)
      ∧ (let s := (loading (planBytes aPlan)).modTask 0 fun t => { t with runs := [{ plan := 3, row := 0, core := 0, g := 0, p0 := 0, e := 0, bases := [] }] }
         (s.taskAt 0).run? 3 ≠ none) := by decide +kernel

theorem witness_LaunchesRefused :
    (let s := asking (.launch launchPkt)
     (s.stream 3).prio < 4 ∧ (s.stream 3).busy ≠ none ∧ s.pkg.engine = none ∧ s.pkg.reqs = [(3, .launch launchPkt)] ∧ streamOk launchPkt.report = true
       ∧ launchPkt.report % 32 = 0 ∧ s.addrAway (s.stream 3).ctx.podMap launchPkt.image = false ∧ s.readImage launchPkt.image = none
       ∧ s.jobCut 3 (.launch launchPkt) = false)
      ∧ (let p := { launchPkt with members := 2 }
         let s := { asking (.launch p) with host := Memory.putBytes [] 0x10000 imageBytes }
         s.readImage p.image = some anImage ∧ anImage.gang ≠ p.members)
      ∧ (let p := { launchPkt with image := moduleAddr }
         let s := (asking (.launch p)).modPkg fun q => { q with offline := [0] }
         s.addrAway (s.stream 3).ctx.podMap p.image = true ∧ s.jobCut 3 (.launch p) = false) := by decide +kernel

theorem witness_LaunchesPrepared :
    (let s := launching
     let p := launchPkt
     let ctx := (s.stream 3).ctx
     let ds := (s.imageDecls p.image anImage).filter fun d => d.used anImage.rows
     (s.stream 3).prio < 4 ∧ s.pkg.engine = none ∧ s.pkg.reqs = [(3, .launch p)] ∧ s.modBase = none ∧ s.addrAway ctx.podMap p.image = false ∧ s.readImage p.image = some anImage
       ∧ s.jobCut 3 (.launch p) = false ∧ anImage.gang = p.members ∧ p.flags = 0 ∧ sharesOk (s.imageShares p.image anImage) = true ∧ anImage.rows ≤ s.rowCount
       ∧ s.rowSet p.firstRow anImage.rows = some 0 ∧ s.freeSlot = 0 ∧ ctx.rtAddr = 0 ∧ ctx.cwd + 64 ≤ 4096
       ∧ (s.readRoutes ctx.rtAddr).all (fun x => routeOk p.members (ctx.cwd + 64) x.2) = true
       ∧ readPlans 64 (s.imageSec p.image anImage 7) = some [] ∧ indicesOk [] = true
       ∧ ([] : List Plan).all (planOk p.rank p.members anImage.rows (s.readRoutes ctx.rtAddr)) = true ∧ s.plansFit none [] = true
       ∧ s.walkPages ctx (declPages ds) [] = ([], none) ∧ ∀ r < anImage.rows, ∀ c < 8, tableOk (coreExtents (declExtents ds []) r c) = true) := by decide +kernel

/-- The engine holds a prepared launch into slot 0 and row 0. -/
def prepared : State :=
  (inPacket.modPkg fun p => { p with engine := some { strm := 3, job := .launch launchPkt, place := some (0, 0), launch := some 4096 } }).modRow 0 fun r => { r with task := some 0 }

theorem witness_TasksLaunch :
    State.reset.pkg.engine = none ∧ (prepared.pkg.engine.map (·.place)) = some (some (0, 0)) ∧ prepared.rowsOf 0 = [0] ∧ ∀ r ∈ prepared.rowsOf 0, prepared.rows[r].handler = false := by
  decide +kernel

/-- A launch whose walk is to be tried again, of an image in host memory and of one in a module that no port reaches. -/
theorem witness_HeldWalksRetry_ports :
    (∀ a ∈ [0x10000, moduleAddr], let j := EngJob.launch { launchPkt with image := a }
      let s := mapped (inPacket.modPkg fun p => { p with engine := some { strm := 3, job := j, place := some (0, 0), heldAt := some 10 } })
      (s.pkg.engine.map fun e => (e.job, e.place.isSome, e.launch)) = some (j, true, none) ∧ s.jobCut 3 j = decide (a = moduleAddr)) := by decide +kernel

theorem witness_HeldWalksRetry :
    State.reset.pkg.engine = none ∧ (prepared.pkg.engine.map (·.heldAt)) = some none
      ∧ (let s := inPacket.modPkg fun p => { p with engine := some { strm := 3, job := .launch launchPkt, heldAt := some 10 } }
         (s.pkg.engine.map fun e => (e.job, e.heldAt, e.launch)) = some (.launch launchPkt, some 10, none)) := by decide +kernel

theorem witness_GangEventsTakeEffect :
    (prepared.pkg.engine.map fun e => (e.job, launchPkt.gangTag, e.launch)) = some (.launch launchPkt, 0, some 4096)
      ∧ (let s := inPacket.modPkg fun p => { p with engine := some { strm := 3, job := .launch launchPkt, heldAt := some 10 } }
         (s.pkg.engine.map fun e => (e.job, e.heldAt.isSome, e.launch)) = some (.launch launchPkt, true, none)) := by decide +kernel

theorem witness_GangsLaunch :
    (prepared.pkg.engine.map fun e => (e.job.tag, e.launch, e.strm)) = some (some 0, some 4096, 3) ∧ (prepared.stream 3).busy ≠ none
      ∧ streamOk launchPkt.report = true ∧ launchPkt.report % 32 = 0 := by decide +kernel

/-- A task that ends, launched by stream 3. -/
def endingTask : State :=
  (inPacket.modTask 0 fun t => { t with live := true, nrows := 1, taskid := 7, gcc := 1000, strm := 3, report := 0x400, ending := some { code := 1 } }).modRow 0 fun r =>
    { r with task := some 0, running := true }

theorem witness_TasksEnd :
    State.reset.task.ending = none ∧ endingTask.task.ending = some { code := 1 } ∧ endingTask.task.live = true ∧ endingTask.task.ghost = none ∧ endingTask.task.preempt = none
      ∧ (endingTask.stream endingTask.task.strm).busy ≠ none ∧ streamOk endingTask.task.report = true ∧ endingTask.task.report % 32 = 0 ∧ ({ code := 1 } : EndReport).code < 256
      ∧ endingTask.modBase = none ∧ endingTask.agenda = [] ∧ endingTask.fenceDone endingTask.cur.slot = true
      ∧ (let s := endingTask.modTask 0 fun t => { t with stalls := [{ md := 3, w := 990, queue := [⟨990, 5, .store 9⟩] }] }
         s.fenceDone s.cur.slot = false ∧ s.task.ending = some { code := 1 } ∧ s.task.live = true ∧ s.agenda = [])
      ∧ (let s := { endingTask with cur := { work := .cont .endFence } }
         s.pkg.offline = [] ∧ s.cur.gang = true ∧ s.cur.work = .cont .endFence ∧ s.fenceDone s.cur.slot = true ∧ s.task.ghost = none) := by
  decide +kernel

/-- An empty agenda holds no source read. -/
theorem witness_NoReads {s : State} {k : Slot} (h : s.agenda = []) : NoReads s k := fun e he => by rw [h] at he; cases he

/-! ## Pre-emption and restore -/

/-- A running task of stream 5, with stream 3 executing a PREEMPT. -/
def toPreempt : State :=
  (inPacket.modTask 0 fun t => { t with live := true, nrows := 1, taskid := 7, gcc := 1000, strm := 5, report := 0x400 }).modRow 0 fun r => { r with task := some 0, running := true }

def preemptPkt : PreemptPkt := { taskid := 7, disc := false, save := 0x20000, saveLen := 2 ^ 30, report := 0x600 }

/-- A save area of exactly the greatest size of the image, and one byte less. -/
theorem witness_PreemptionRequests :
    (toPreempt.stream 3).busy ≠ none ∧ streamOk preemptPkt.report = true ∧ preemptPkt.report % 32 = 0 ∧ toPreempt.running 7 = some 0 ∧ toPreempt.running 8 = none
      ∧ (toPreempt.taskAt 0).preempt = none ∧ (toPreempt.taskAt 0).members ≤ 1 ∧ (toPreempt.taskAt 0).saveNeed false ≤ preemptPkt.saveLen
      ∧ 0 < (toPreempt.taskAt 0).saveNeed true ∧ (toPreempt.taskAt 0).saveNeed true - 1 < (toPreempt.taskAt 0).saveNeed true
      ∧ ((toPreempt.modTask 0 fun t => { t with preempt := some { strm := 3, pkt := preemptPkt, q := 1064 } }).taskAt 0).preempt ≠ none
      ∧ toPreempt.modBase = none
      ∧ (let s := toPreempt.modTask 0 fun t => { t with members := 2, rank := 1 }
         1 < (s.taskAt 0).members ∧ (s.taskAt 0).rank ≠ 0 ∧ (s.taskAt 0).saveNeed false ≤ preemptPkt.saveLen)
      ∧ (let s := toPreempt.modTask 0 fun t => { t with members := 2, preempts := [1] }
         1 < (s.taskAt 0).members ∧ (s.taskAt 0).rank = 0 ∧ (∀ m < 2, m = 0 ∨ m ∈ (s.taskAt 0).preempts) ∧ (s.taskAt 0).members = 2) := by decide +kernel

/-- A pre-emption that a PREPT of cycle 999 has taken. -/
def takenAt (p : Preempt → Preempt) : State :=
  { (toPreempt.modTask 0 fun t => { t with preempt := some (p { strm := 3, pkt := preemptPkt, q := 990, pending := true, taken := some 999 }) }) with
    cur := { due := 1000, work := .ev .preemptDrainEnd } }

theorem witness_PreemptionsDrainAndSave :
    (takenAt id).task.preempt ≠ none ∧ ((takenAt id).task.preempt.map fun p => (p.taken, p.drained)) = some (some 999, none) ∧ (takenAt id).task.ending = none
      ∧ (takenAt id).task.stop = none ∧ (takenAt id).draining 0 = [] ∧ streamOk preemptPkt.save = true ∧ preemptPkt.save % 64 = 0
      ∧ ((takenAt fun p => { p with taken := none }).task.preempt.map (·.taken)) = some none ∧ (takenAt id).modBase = none ∧ (takenAt id).agenda = []
      ∧ ((takenAt id).task.rank = 0 ∧ (takenAt id).task.members = 1 ∧ (∀ k < 1, k = 0 ∨ k ∈ (takenAt id).task.preempts))
      ∧ ((takenAt id).modTask 0 fun t => { t with rank := 1 }).task.rank ≠ 0
      ∧ (let s := (takenAt id).add { due := 1010, work := .ev (.registerWriteBack { wid := 1, writes := [.a 3 5] }) }
         s.draining 0 ≠ [] ∧ s.cur.gang = true ∧ s.cur.work = .ev .preemptDrainEnd) := by decide +kernel

/-- The same state with the operands of the event that it treats. -/
def told (s : State) (xs : List Nat) : State := { s with cur := { s.cur with args := xs } }

/-- The pre-emption of the gang itself, a member's word at a gang of one, at a member that is not rank 0, and at one that lacks another member. -/
theorem witness_PreemptionsDrainAndSave_operands :
    (takenAt id).cur.args = [] ∧ (told (takenAt id) [0]).cur.args = [0]
      ∧ ((told (takenAt id) [0]).task.preempt ≠ none ∧ (told (takenAt id) [0]).task.rank = 0 ∧ ∀ k < (told (takenAt id) [0]).task.members, k = 0)
      ∧ (let s := told ((takenAt id).modTask 0 fun t => { t with members := 3, preempts := [1] }) [0]
         s.task.preempt ≠ none ∧ s.cur.args = [0] ∧ ∃ k < s.task.members, k ≠ 0 ∧ k ∉ s.task.preempts)
      ∧ (let s := told ((takenAt id).modTask 0 fun t => { t with members := 3, preempts := [1] }) [2]
         s.task.preempt ≠ none ∧ s.cur.args = [2] ∧ s.task.rank = 0 ∧ 0 ∉ s.task.preempts)
      ∧ (let s := told ((takenAt id).modTask 0 fun t => { t with members := 3, preempts := [0, 1] }) [2]
         s.task.preempt ≠ none ∧ s.cur.args = [2] ∧ s.task.rank = 0 ∧ ∀ k < s.task.members, k = 2 ∨ k ∈ s.task.preempts) := by decide +kernel

/-- A discard that is due, and one that is announced. -/
theorem witness_Discards_operands :
    (takenAt fun p => { p with taken := none }).cur.args = [] ∧ (told (takenAt fun p => { p with taken := none }) [1200]).cur.args = [1200]
      ∧ (told (takenAt fun p => { p with taken := none }) [1200]).task.preempt ≠ none := by decide +kernel

/-- What these events write to a module that no port reaches waits. -/
theorem witness_writes_wait :
    (let s := takenAt fun p => { p with pkt := { preemptPkt with save := moduleAddr } }
     (s.task.preempt.map (·.taken)) = some (some 999) ∧ s.task.ending = none ∧ s.task.stop = none ∧ s.draining 0 = [] ∧ s.cut (2 ^ 64 - 1) moduleAddr = true ∧ s.agenda = [])
      ∧ ((takenAt fun p => { p with drained := some 1200, pkt := { preemptPkt with save := moduleAddr } }).task.preempt.map (·.drained)) = some (some 1200)
      ∧ (takenAt id).cut (2 ^ 64 - 1) preemptPkt.save = false ∧ (takenAt id).cut (2 ^ 64 - 1) preemptPkt.report = false
      ∧ (takenAt id).cut (2 ^ 64 - 1) (takenAt id).task.report = false ∧ endingTask.cut (2 ^ 64 - 1) endingTask.task.report = false
      ∧ toPreempt.cut (2 ^ 64 - 1) preemptPkt.report = false ∧ prepared.cut (2 ^ 64 - 1) launchPkt.report = false ∧ prepared.modBase = none := by decide +kernel

def openRegion : Region := { tag := 9, addr := 3, entry := 940, k := [], q := [], rstack := [], fb := 900 }

theorem witness_Discards :
    State.reset.task.preempt = none ∧ ((takenAt id).task.preempt.map (·.taken)) ≠ some none
      ∧ (let s := takenAt fun p => { p with taken := none, lapsed := true }
         (s.task.preempt.map fun p => (p.taken, p.lapsed)) = some (none, true) ∧ s.task.ending = none ∧ ∃ r ∈ s.rowsOf s.cur.slot, s.rows[r].halted = none)
      ∧ (let s := takenAt fun p => { p with taken := none }
         ∃ r ∈ s.rowsOf s.cur.slot, s.rows[r].halted = none ∧ s.rows[r].region = none)
      ∧ (let s := (takenAt fun p => { p with taken := none }).modRow 0 fun r => { r with region := some openRegion }
         (s.task.preempt.map fun p => (p.taken, p.lapsed)) = some (none, false) ∧ s.task.ending = none ∧ s.task.stop = none
           ∧ (∃ r ∈ s.rowsOf s.cur.slot, s.rows[r].halted = none) ∧ ∀ r ∈ s.rowsOf s.cur.slot, s.rows[r].halted = none → s.rows[r].region ≠ none) := by decide +kernel

theorem witness_SavesComplete :
    (let s := takenAt fun p => { p with drained := some 1200, done := true }
     (s.task.preempt.map fun p => (p.drained, p.done)) = some (some 1200, true) ∧ ((s.stream 3).busy.map (·.stale)) = some false ∧ s.agenda = [] ∧ s.modBase = none
       ∧ 0x20000 + 8 ≤ 0x20000 + 64 ∧ (0x20000 + 8 ≤ s.task.report ∨ s.task.report + 32 ≤ 0x20000) ∧ streamOk s.task.report = true
       ∧ (0x20000 + 8 ≤ preemptPkt.report ∨ preemptPkt.report + 32 ≤ 0x20000) ∧ streamOk preemptPkt.report = true)
      ∧ ((takenAt fun p => { p with drained := some 1200 }).task.preempt.map (·.done)) = some false
      ∧ State.reset.task.preempt = none ∧ ((takenAt id).task.preempt.map (·.drained)) = some none
      ∧ streamOk 0x20000 = true ∧ 0x20000 % 64 = 0 ∧ (∀ x ∈ toPreempt.task.xfers, x.writes = true → x.waits = [])
      ∧ (let s := ({ toPreempt with cur := { gang := false, work := .ev (.wrdone 0x20000) } } : State).modTask 0 fun t => { t with
            xfers := [{ id := 9, kind := .store, row := 0, core := 0, g := 900, ch := 0, waits := [3] }] }
         (∃ x ∈ s.task.xfers, x.writes = true ∧ x.waits ≠ []) ∧ s.cur.gang = false ∧ s.cur.work = .ev (.wrdone 0x20000))
      ∧ (let s := (toPreempt.modTask 0 fun t => { t with ghost := some 0x20000 }).modStream 3 fun k => { k with saves := [0x20000], fencing := true }
         s.task.ghost = some 0x20000 ∧ (s.stream 3).saves = [0x20000] ∧ (s.stream 3).fencing = true) := by decide +kernel

/-- A context image of one row whose sections all lie at 0x200, of this size and OWDCC, with further sections; it names a task image. -/
def contextOf (size owdcc : Nat) (more : List (List Byte)) : List Byte :=
  leBytes 4 0x5854435A ++ leBytes 2 1 ++ [1, 3] ++ leBytes 8 size ++ leBytes 8 0x10000 ++ leBytes 4 7 ++ leBytes 2 0 ++ leBytes 2 1 ++ [1, 64] ++ leBytes 2 64 ++ leBytes 4 0x100
    ++ leBytes 8 1000 ++ leBytes 8 256 ++ leBytes 8 5 ++ leBytes 8 0 ++ leBytes 8 owdcc ++ leBytes 8 0 ++ leBytes 4 (10 + more.length) ++ leBytes 164 0
    ++ (leBytes 2 0x0101 ++ [0xFF, 0xFF] ++ leBytes 4 0 ++ leBytes 4 0x200 ++ leBytes 4 128) ++ (leBytes 2 0x0110 ++ [0, 0xFF] ++ leBytes 4 0 ++ leBytes 4 0x200 ++ leBytes 4 0x480)
    ++ ((List.range 8).flatMap fun c => leBytes 2 0x0121 ++ [0, BitVec.ofNat 8 c] ++ leBytes 4 0 ++ leBytes 4 0x200 ++ leBytes 4 384) ++ more.flatten

def contextBytes : List Byte := contextOf 0x680 0 []

def resumePkt : ResumePkt := { save := 0x20000, dcc := 0, report := 0x600, firstRow := 0xFF, flags := 0, gangTag := 0 }
def restoring : State :=
  { (inPacket.modPkg fun p => { p with engine := some { strm := 3, job := .resume resumePkt, place := some (0, 0), launch := some 4096 } }) with
    dcc := 4096, host := Memory.putBytes (Memory.putBytes [] 0x10000 imageBytes) 0x20000 contextBytes }

theorem witness_RestoresLaunch :
    State.reset.pkg.engine = none ∧ (restoring.pkg.engine.map fun e => (e.place, e.job)) = some (some (0, 0), .resume resumePkt)
      ∧ ((restoring.readContext (restoring.stream 3).ctx.podMap resumePkt.save).map fun x => (x.1.rows, x.1.kind, x.1.holds + x.1.slkr, x.2)) = some (1, 1, 261, anImage)
      ∧ 0 + 1 ≤ 8 ∧ 261 ≤ restoring.dcc ∧ restoring.dcc < 2 ^ 64 := by decide +kernel

/-- A RESUME that alone asks for the engine, with a context image and its task image in host memory. -/
def resuming (p : ResumePkt) (bs : List Byte) : State :=
  { asking (.resume p) with host := Memory.putBytes (Memory.putBytes [] 0x10000 imageBytes) 0x20000 bs }

/-- The code with which stream 3 refuses a RESUME beyond its row set, and what it finds before: its rows, the row set, whether the route table is
away. -/
def resumed (p : ResumePkt) (s : State) : Option (Bool × Option Nat × Bool × Option Nat) :=
  (s.readContext (s.stream 3).ctx.podMap p.save).map fun x => (decide (s.rowCount < x.1.rows), s.rowSet p.firstRow x.1.rows,
    s.addrAway (s.stream 3).ctx.podMap (s.stream 3).ctx.rtAddr, s.resumeFault (s.stream 3).ctx p x.1)

/-- No image, no row, a row that is taken, with WAITROWS and without. -/
theorem witness_RestoresPrepared_rows :
    (let s := asking (.resume resumePkt)
     alone s (.resume resumePkt) 0x600 = true ∧ s.readContext (s.stream 3).ctx.podMap 0x20000 = none)
      ∧ (let s := all8.foldl (fun s r => s.modRow r fun w => { w with present := false }) (resuming resumePkt contextBytes)
         alone s (.resume resumePkt) 0x600 = true ∧ (resumed resumePkt s).map (·.1) = some true)
      ∧ (∀ f ∈ [0, 2], let p := { resumePkt with firstRow := 0, flags := f }
         let s := (resuming p contextBytes).modRow 0 fun w => { w with task := some 5 }
         alone s (.resume p) 0x600 = true ∧ (resumed p s).map (fun x => (x.1, x.2.1)) = some (false, none)) := by decide +kernel

/-- A route table in an absent module, and another window. -/
theorem witness_RestoresPrepared_maps :
    (let s := (resuming resumePkt contextBytes).modStream 3 fun k => { k with ctx := { k.ctx with rtAddr := moduleAddr } }
     alone s (.resume resumePkt) 0x600 = true ∧ (resumed resumePkt s).map (fun x => (x.1, x.2.1, x.2.2.1)) = some (false, some 0, true))
      ∧ (let s := (resuming resumePkt contextBytes).modStream 3 fun k => { k with ctx := { k.ctx with cwd := 64 } }
         alone s (.resume resumePkt) 0x600 = true ∧ resumed resumePkt s = some (false, some 0, false, some 0x1F)) := by decide +kernel

/-- An extent in an absent module: a section of extents whose first entry is valid. -/
theorem witness_RestoresPrepared_extents :
    (let s := resuming resumePkt (contextOf 0xCC0 0 [leBytes 2 0x0123 ++ [0, 0] ++ leBytes 4 0 ++ leBytes 4 0x6C0 ++ leBytes 4 1536])
     let s := { s with host := Memory.putBytes s.host (0x20000 + 0x6C0 + 15) [128] }
     alone s (.resume resumePkt) 0x600 = true ∧ resumed resumePkt s = some (false, some 0, false, some 0x18) ∧ (s.stream 3).ctx.rtAddr = 0) := by decide +kernel

/-- An OWDCC that lies ahead. -/
theorem witness_RestoresPrepared_owdcc :
    (let s := resuming resumePkt (contextOf 0x680 128 [])
     alone s (.resume resumePkt) 0x600 = true ∧ resumed resumePkt s = some (false, some 0, false, some 0x21)) := by decide +kernel

/-- Plans of two tasks that take all chunk buffers. -/
theorem witness_RestoresPrepared_plans :
    (let s := [0, 1].foldl (fun s k => s.modTask k fun t => { t with live := true, plans := [⟨3, 0xC000000, []⟩] }) (resuming resumePkt contextBytes)
     alone s (.resume resumePkt) 0x600 = true ∧ resumed resumePkt s = some (false, some 0, false, some 0x1A)) := by decide +kernel

/-- A cycle that is too near, and a RESUME that passes its checks. -/
theorem witness_RestoresPrepared :
    (let p := { resumePkt with flags := 1, dcc := 63 }
     let s := resuming p contextBytes
     alone s (.resume p) 0x600 = true ∧ resumed p s = some (false, some 0, false, none) ∧ p.flags % 2 = 1 ∧ p.dcc < s.dcc + 64)
      ∧ (let s := resuming resumePkt contextBytes
         alone s (.resume resumePkt) 0x600 = true ∧ resumed resumePkt s = some (false, some 0, false, none) ∧ resumePkt.flags % 2 = 0) := by decide +kernel

/-- A route to a rank that the gang does not have. -/
theorem witness_RestoresPrepared_routes :
    (let s := misrouted (resuming resumePkt contextBytes)
     alone s (.resume resumePkt) 0x600 = true ∧ (s.readRoutes 0x20000).all (fun x => routeOk 1 ((s.stream 3).ctx.cwd + 64) x.2) = false) := by
  refine ⟨by decide +kernel, List.all_eq_false.2 ⟨_, mem_readRoutes (by decide) (by decide +kernel) (by decide +kernel), by decide +kernel⟩⟩

/-- The full record marks a1, the last v register and every tile. -/
theorem witness_SavedRegistersComeBack :
    1 ∈ marked fullRecord 0x10 4 0 32 ∧ 47 ∈ marked fullRecord 0x18 6 0 48 ∧ 15 ∈ marked fullRecord 0x14 2 0 16 ∧ 7 ∈ marked fullRecord 0x0F 1 0 8 := by decide +kernel

/-! ## Ports, lasers and the domain -/

/-- Memory port 5 changed, with laser 0 lit. -/
def inService (f : MemPort → MemPort) : State := (State.reset.modLaser 0 fun l => { l with en := true, ok := true }).modPort 5 fun p => f { p with en := true }
def allRings (n : Nat) : Sparse Ring := (List.range n).map fun i => (i, { lock := true })

/-- Step 1 on a port that may, step 2 out of turn, a port that is absent, and the ends of steps 3 and 5. -/
theorem witness_MemoryPortBringUp :
    (let s := inService id
     (s.port 5).absent = false ∧ s.pkg.boot.full = true ∧ (s.port 5).en = true ∧ (s.laser (5 / 32)).ok = true ∧ ¬(2 = (s.port 5).done + 1) ∧ (s.port 5).busy = none)
      ∧ (inService fun p => { p with absent := true }).port 5 ≠ {} ∧ ((inService fun p => { p with absent := true }).port 5).absent = true
      ∧ (let s := inService fun p => { p with busy := some 3, done := 2, rings := allRings 10 }
         let r : RingReport := ⟨List.replicate 10 true, 3, [], [], []⟩
         (s.port 5).busy = some 3 ∧ (s.laser (5 / 32)).ok = true ∧ (∀ n ∈ (s.port 5).carriers, r.ok.getD n false = true) ∧ ∃ n ∈ (s.port 5).carriers, (⟨[], 3, [], [], []⟩ : RingReport).ok.getD n false = false)
      ∧ (let s := inService fun p => { p with busy := some 5, done := 4, rings := allRings 8 }
         (s.port 5).busy = some 5 ∧ (s.port 5).lanes = 8 ∧ (⟨List.replicate 10 true, 3, [], [], []⟩ : RingReport).ok.getD 9 false = true)
      ∧ (inService fun p => { p with rings := allRings 7 }).port 5 ≠ {} ∧ ((inService fun p => { p with rings := allRings 7 }).port 5).lanes ≠ 8 := by decide +kernel

theorem witness_MemoryPortsInService :
    ((inService id).port 5).live = false
      ∧ (let s := inService fun p => { p with live := true, rings := allRings 8 }
         (s.port 5).live = true ∧ (s.port 5).spareFree = true ∧ (s.port 5).inPlace = [] ∧ (s.port 5).auto = true ∧ ∀ k < 8, k ≠ 7 → ((s.port 5).ring k).lock = true)
      ∧ ((inService fun p => { p with live := true, force := 7 }).port 5).force = 7
      ∧ (let s := inService fun p => { p with live := true, spared := 2 }
         (s.port 5).live = true ∧ (s.port 5).spared < 8 ∧ (s.port 5).spared ≠ 7 ∧ (s.port 5).tuning = none ∧ (s.port 5).mover = none)
      ∧ 8 ≤ ((inService id).port 5).force
      ∧ (let s := inService fun p => { p with tuning := some 7 }
         (s.port 5).tuning = some 7 ∧ (s.port 5).waiting = [])
      ∧ (let s := inService fun p => { p with mover := some 7, spared := 7 }
         (s.port 5).mover = some 7 ∧ (s.port 5).spared = 7 ∧ (s.port 5).waiting = [])
      ∧ (let s := inService fun p => { p with inPlace := [9] }
         (s.port 5).mover ≠ some 9 ∧ 9 ∈ (s.port 5).inPlace) := by decide +kernel

/-- A margin scan that finds the eye of ring 7 too small, with the spare free and with the spare in use. -/
theorem witness_MarginScans :
    (let eyes := fun (n : Nat) => (if n = 7 then 0x7F else 0x80, 0xC0)
     let rs : Sparse Ring := (List.range 10).map fun i => (i, { lock := true, eyeH := 0x80, eyeW := 0xC0 })
     let r : RingReport := ⟨[], 0, [], (List.range 10).map fun n => (eyes n).1, (List.range 10).map fun n => (eyes n).2⟩
     let small := fun (s : State) (n : Nat) => decide (r.eyeH.getD n ((s.port 5).ring n).eyeH % 65536 < 0x80 ∨ r.eyeW.getD n ((s.port 5).ring n).eyeW % 65536 < 0xC0)
     let s := inService fun p => { p with live := true, rings := rs }
     let s' := inService fun p => { p with live := true, rings := rs, spared := 2 }
     (s.port 5).live = true ∧ small s 7 = true ∧ (∀ k < 9, k ≠ 7 → small s k = false) ∧ ((s.port 5).ring 7).lock = true ∧ (s.port 5).inPlace = []
       ∧ (s.port 5).waiting = [] ∧ (s.port 5).spareFree = true
       ∧ (s'.port 5).live = true ∧ small s' 7 = true ∧ (∀ k < 9, k ≠ 7 → small s' k = false) ∧ ((s'.port 5).ring 7).lock = true ∧ (s'.port 5).inPlace = []
       ∧ (s'.port 5).waiting = [] ∧ (s'.port 5).spared = 2 ∧ (s'.port 5).tuning = none ∧ (s'.port 5).mover = none) := by decide +kernel

/-- Twelve failures of ring 7 within 65,536 flits: a flit that fails four times more is the last that the ring bears, five times one too many. -/
def failing : State := inService fun p => { p with live := true, rings := (List.range 9).map fun i => (i, { lock := true, crc := if i = 7 then (List.range 12).map (1000 + ·) else [] }) }

/-- Four failures and five; the last memory port and the first scale-up port; a ring before and at its seventeenth failure. -/
theorem witness_FlitsReplay :
    (383 < 384 ∧ 4 ≤ 4 ∧ 384 ≤ 384 ∧ 4 < 5 ∧ ((inService id).port 5).rings = [])
      ∧ (((failing.port 5).ring 7).crc.length + 4 ≤ 16 ∧ 16 < ((failing.port 5).ring 7).crc.length + min 5 5 ∧ ((inService id).port 5).rings.length < 12 ∧ (∀ n ∈ ((failing.port 5).ring 7).crc, 1100 < n + 65536) ∧ (failing.port 5).live = true ∧ (failing.port 5).auto = true
          ∧ (failing.port 5).spareFree = true ∧ (failing.port 5).inPlace = [] ∧ ∀ k < 8, k ≠ 7 → ((failing.port 5).ring k).lock = true)
      ∧ (let fl : Flit := ⟨3, 9, 64, none, [1], 0⟩
         let s := State.reset.modSu 2 fun p => { p with buf := [fl] }
         fl ∈ (s.suPort (386 - 384)).buf ∧ fl.id = 9 ∧ fl.ofs = 64)
      ∧ (let x : Xfer := { id := 9, kind := .fetch, row := 0, core := 0, g := 900, ch := 0 }
         let s := State.reset.modTask 0 fun t => { t with xfers := [x] }
         x ∈ s.task.xfers ∧ x.id = 9) := by decide +kernel

/-- A port at the end of each step, and one in service whose ring 7 is to be spared. -/
theorem witness_PortEventsTakeEffect :
    (inService id).pkg.boot.full = true ∧ ((inService id).port 5).absent = false ∧ ((inService id).port 5).en = true ∧ ((inService id).laser (5 / 32)).ok = true
      ∧ (∀ d < 5, ((inService fun p => { p with done := d }).port 5).done = d) ∧ ((inService fun p => { p with busy := some 3 }).port 5).busy ≠ none
      ∧ (let s := inService fun p => { p with live := true, force := 7, rings := allRings 8 }
         (s.port 5).live = true ∧ (s.port 5).force < 8 ∧ (s.port 5).spareFree = true ∧ (s.port 5).inPlace = [] ∧ ∀ k < 8, ((s.port 5).ring k).lock = true)
      ∧ ((inService fun p => { p with tuning := some 7 }).port 5).tuning = some 7
      ∧ (let s := inService fun p => { p with inPlace := [9] }
         (s.port 5).mover = none ∧ 9 ∈ (s.port 5).inPlace) := by decide +kernel

/-- A bias of 100 that rises by one step, to the bounds of WARN and EOL. -/
theorem witness_Lasers :
    (State.reset.laser 2).en = false ∧ State.reset.pkg.boot.full = true ∧ safe.pkg.boot.full = false
      ∧ (let s : State := { (State.reset.modLaser 2 fun l => { l with en := true, bias := 120, bias0 := 100, stepAt := some 5 }) with dcc := 2 ^ 24 + 5 }
         (s.laser 2).en = true ∧ (s.laser 2).bias ≠ 0 ∧ 121 = (s.laser 2).bias + 1 ∧ 121 < 65536 ∧ (s.laser 2).stepAt = some 5 ∧ 5 + 2 ^ 24 ≤ s.dcc
           ∧ (s.laser 2).bias0 ≠ 0 ∧ (s.laser 2).bias0 ≤ 121 ∧ 1024 * (121 - (s.laser 2).bias0) / (s.laser 2).bias0 < 65536 ∧ ¬(122 = (s.laser 2).bias + 1)
           ∧ 205 ≤ 1024 * (121 - (s.laser 2).bias0) / (s.laser 2).bias0) := by decide +kernel

def inDomain : State := (State.reset.modPort 5 fun p => { p with live := true, rings := allRings 10 }).modPkg fun p => { p with locked := true, member := true }

theorem witness_DomainMembership :
    State.reset.pkg.boot.full = true ∧ safe.pkg.boot.full = false ∧ State.reset.refPort 5 = false ∧ inDomain.refPort 5 = true ∧ State.reset.anyTask = false ∧ State.reset.hasReference = false ∧ inDomain.hasReference = true ∧ running.anyTask = true ∧ inDomain.pkg.locked = true
      ∧ (let s := running.modPkg fun p => { p with locked := true }
         s.pkg.locked = true ∧ s.hasReference = false ∧ (s.taskAt 0).live = true ∧ (s.taskAt 0).ending = none ∧ (s.taskAt 0).ghost = none)
      ∧ (let s := State.reset.add { gang := false, due := 0, work := .ev .taskLaunch }
         ∃ e ∈ s.agenda, e.gang = false ∧ s.dcc ≤ e.due)
      ∧ ((State.reset.suPort 143).serial = State.reset.pkg.nbSer.toNat ∧ (State.reset.suPort 143).pnode = State.reset.pkg.nbNode) := by decide +kernel

/-- Scale-up ports at the edges of the optical ranges, a latency at the bound of training, two ports of one die that see one node, and keys. The
encryption policy is a free value, so an encrypted port stands under the policy's own bit. -/
theorem witness_ScaleUpPorts :
    suOptical 31 = false ∧ suOptical 32 = true ∧ suOptical 143 = true ∧ (State.reset.suPort 32).qreq = false ∧ (State.reset.suPort 32).spl = false
      ∧ (State.reset.suPort 32).up = false ∧ (State.reset.suPort 32).en = false
      ∧ (let s := State.reset.modSu 31 fun p => { p with en := true, up := true }
         (s.suPort 31).up = true ∧ (s.suPort 31).en = true ∧ (s.suPort 31).qreq = false)
      ∧ ((State.reset.modSu 32 fun p => { p with qreq := true }).suPort 32).qreq = true
      ∧ 16128 + 256 ≤ 16384 ∧ 16384 < 16129 + 256
      ∧ (let s := (State.reset.modSu 32 fun p => { p with up := true }).modSu 33 fun p => { p with up := true, seen := true, pnode := 4, serial := 1 }
         33 < 144 ∧ 33 ≠ 32 ∧ 33 / 72 = 32 / 72 ∧ (s.suPort 32).up = true ∧ (s.suPort 33).up = true ∧ (s.suPort 33).seen = true ∧ (s.suPort 33).pnode = 4 % 8192
           ∧ (s.suPort 33).serial ≠ 2 % 2 ^ 64 ∧ (s.suPort 32).seen = false)
      ∧ suEncrypted 31 = false ∧ Sparse.get false (State.reset.suPort 32).valid (1 - (State.reset.suPort 32).txs) = false
      ∧ (let s := State.reset.modSu 32 fun p => { p with old := true, valid := [(1, true)] }
         (s.suPort 32).old = true ∧ Sparse.get false (s.suPort 32).valid (1 - (s.suPort 32).txs) = true) := by decide +kernel

theorem witness_ScaleUpPorts_encrypted (h : Config.encPolicy.getLsbD 0 = true) : suEncrypted 32 = true := h

/-- A port that is up, one that is down, and one that is up and encrypted with its key in place. -/
theorem witness_ScaleUpTraffic :
    (State.reset.suPort 4).takes 4 = false
      ∧ ((State.reset.modSu 4 fun p => { p with en := true, up := true, valid := [(0, true)] }).suPort 4).takes 4 = true
      ∧ ((State.reset.modSu 4 fun p => { p with en := true, up := true, valid := [(0, true)] }).suPort 4).seq < 2 ^ 64 := by
  refine ⟨rfl, ?_, by decide +kernel⟩
  show (true && !false && !false && (!suEncrypted 4 || true)) = true
  cases suEncrypted 4 <;> rfl

/-- A flit of the old slot in the replay buffer, and none. -/
theorem witness_ScaleUpPorts_switch :
    (let s := State.reset.modSu 32 fun p => { p with valid := [(0, true), (1, true)], buf := [⟨3, 9, 64, some 0, [1], 0⟩] }
     (s.suPort 32).egress = [] ∧ ∃ f ∈ (s.suPort 32).buf, f.slot = some (1 - (1 - (s.suPort 32).txs)))
      ∧ (State.reset.suPort 32).egress = [] ∧ ∀ f ∈ (State.reset.suPort 32).buf, f.slot ≠ some (1 - (1 - (State.reset.suPort 32).txs)) := by decide +kernel

theorem witness_ArrivalsAreOpened :
    ((State.reset.modSu 4 fun p => { p with quar := true }).suPort 4).quar = true ∧ (State.reset.suPort 4).quar = false ∧ suEncrypted 4 = false
      ∧ (∀ l ∈ State.reset.task.lates, l.id ≠ 9) ∧ (State.reset.suPort 4).replays ≤ 0xFFFFFFFF := by decide +kernel

/-! ## Start-up and management -/

/-- A start in which everything passes, one without fuses and one without PCIe. -/
def goodStart : StartReport := ⟨true, true, [], [], [], [], true, true, 0, [], [], true⟩

theorem witness_PackageResets :
    goodStart.fusesOk = true ∧ goodStart.pcieOk = true ∧ goodStart.badCores = [] ∧ goodStart.badCores4 = [] ∧ goodStart.badSeqs = [] ∧ goodStart.badEngines = []
      ∧ goodStart.exchOk = true ∧ goodStart.frontOk = true ∧ liveRows (if goodStart.listOk then State.reset.pkg.flash else []) ≠ []
      ∧ ({ goodStart with fusesOk := false } : StartReport).fusesOk = false ∧ ({ goodStart with pcieOk := false } : StartReport).pcieOk = false := by
  decide +kernel

/-- A flash whose first copy is a firmware image of the maker's. -/
theorem witness_PackageResets_firmware : pickCopy 0 ({ data := Config.fwImage, valid := true }, {}) ≠ none := by
  simp [pickCopy, verifies, fwSigned]

def secured : State := State.reset.modPkg fun p => { p with session := .secured }
def asked (b : Bool) : VendorReq := { seq := 4, secured := b }

theorem witness_StartsGoOn :
    secured.hostUp = true ∧ State.reset.pkg.started = none ∧ (State.reset.modPkg fun p => { p with started := some (1, goodStart) }).pkg.started = some (1, goodStart)
      ∧ secured.secured (asked false) = false ∧ State.reset.secured (asked true) = false ∧ secured.secured (asked true) = true ∧ vendorBad (asked true) = false
      ∧ vendorBad { asked true with reserved := 1 } = true ∧ vendorBad { asked true with lenOff := 4 } = true := by decide +kernel

/-- The whole row and the last core of a row, before and after the entry's commit. -/
theorem witness_Retirements :
    (BitVec.ofNat 64 (2 ^ 60 + 15 * 2 ^ 52)).getLsbD 60 = true ∧ ((BitVec.ofNat 64 (2 ^ 60 + 15 * 2 ^ 52)).extractLsb' 52 4).toNat ∈ [0, 1, 2, 3, 4, 5, 6, 7, 8, 15]
      ∧ ((BitVec.ofNat 64 (2 ^ 60 + 8 * 2 ^ 52)).extractLsb' 52 4).toNat ∈ [0, 1, 2, 3, 4, 5, 6, 7, 8, 15] ∧ (State.reset.retReg 2).pendv = false
      ∧ (let s := State.reset.modPkg fun p => { p with ret := [(2, { pendv := true, pendcol := 8 })] }
         (s.retReg 2).pendv = true ∧ (s.retReg 2).committed = false) := by decide +kernel

theorem witness_RegistersAndMailbox :
    State.reset.rows[0].dbgst.getLsbD 0 = false ∧ (State.reset.modRow 0 fun r => { r with dbgst := 1 }).rows[0].dbgst.getLsbD 0 = true
      ∧ 4 % 8 ≠ 0 ∧ (State.reset.modPkg fun p => { p with boot := { p.boot with stage := 0, full := false } }).pkg.boot.stage = 0
      ∧ 1 ≤ State.reset.pkg.boot.stage ∧ State.reset.pkg.boot.full = true
      ∧ (let s := State.reset.modPkg fun p => { p with boot := { p.boot with full := false } }
         1 ≤ s.pkg.boot.stage ∧ s.pkg.boot.full = false ∧ 0x100000 ≤ 0x100000 ∧ 0x3FFFF8 < 0x400000)
      ∧ (let s := State.reset.modPkg fun p => { p with sassign := [(63, BitVec.ofNat 64 (2 ^ 63 + 5))] }
         (5 ≠ 0) ∧ s.sees 5 63 = true ∧ s.sees 6 63 = false ∧ s.sees 5 62 = false ∧ s.pkg.boot.full = true)
      ∧ vendorBad (asked true) = false ∧ 0x800000 ≤ 0x800000 ∧ 0x7FFFF8 % 8 = 0 ∧ 0x7FFFF8 < 0x800000 := by decide +kernel

theorem witness_Attestation :
    State.reset.pkg.session ≠ .keyed ∧ secured.pkg.session = .secured ∧ (State.reset.modPkg fun p => { p with session := .keyed }).pkg.session = .keyed
      ∧ (∀ a ∈ [1, 2, 3, 4, 5], a ∈ [5, 4, 3, 2, 1, 9]) ∧ (∃ a ∈ [1, 2, 3, 4, 5], a ∉ [1, 2, 3, 4]) ∧ (State.reset.measurement 1).isSome = true ∧ (State.reset.measurement 6).isSome = true := by
  refine ⟨by decide +kernel, by decide +kernel, by decide +kernel, by decide, by decide, ?_, ?_⟩ <;> rfl

/-- The versions 1.2 and 1.3 and another; a request without operands, and one that names its command and sequence number. -/
theorem witness_Attestation_operands :
    State.reset.spdmVer = 0x12 ∧ (told State.reset [0x13]).spdmVer = 0x13 ∧ (told State.reset [0x10]).spdmVer ≠ 0x12 ∧ (told State.reset [0x10]).spdmVer ≠ 0x13
      ∧ State.reset.cur.args.length < 2 ∧ (told State.reset [127, 9]).cur.args = [127, 9] := by decide +kernel

/-- The shortest and the longest load, at the start and where the load stands; keys of an optical port. The version of a firmware copy is a free
value, so the fused version stands above, at and below it. -/
theorem witness_FirmwareAndKeys :
    (1 < 2 ∧ 0 % 64 = 0 ∧ 64 ≤ (List.replicate 64 (0 : Byte)).length ∧ (List.replicate 1024 (0 : Byte)).length ≤ 1024 ∧ (List.replicate 1024 (0 : Byte)).length % 64 = 0
        ∧ 63 < 64)
      ∧ (State.reset.modPkg fun p => { p with fwNext := some 64 }).pkg.fwNext = some 64 ∧ State.reset.pkg.fwNext ≠ some 64 ∧ State.reset.pkg.fwNext = none
      ∧ vendorBad (asked true) = false ∧ vendorBad { asked true with status := 1 } = true
      ∧ secured.secured (asked false) = false ∧ secured.secured (asked true) = true ∧ secured.runningCopy = some secured.pkg.copies.1
      ∧ suOptical 104 = true ∧ suOptical 103 = false ∧ (List.replicate 32 (0 : Byte)).length = 32 ∧ Sparse.get false (secured.suPort 104).valid (1 + 2 * 1) = false
      ∧ suEncrypted 103 = false := by decide +kernel

/-- Copies that verify, a copy above the fused version, and one at it. -/
theorem witness_FirmwareAndKeys_versions :
    verifies 0 { data := Config.fwImage } = true
      ∧ Config.fwSvn Config.fwImage + 1 ≠ Config.fwSvn Config.fwImage ∧ Config.fwSvn Config.fwImage ≤ Config.fwSvn Config.fwImage
      ∧ (Config.fwSvn Config.fwImage ≠ 0 → 0 < Config.fwSvn Config.fwImage) := by
  simp [verifies, fwSigned, Nat.pos_iff_ne_zero]

end Sys2Proof.Tests
end

