-- ==== Sys2Proof/Tests/Words0.lean ====
section
/-! SUPPORT. For every instruction word one word written out from the opcode map (R73), the body formats (R63, R67, R68, R70) and the
operand tables of the chapters, and what its column decodes it to. A module command is one word, whose block says which of the three it
is (R329). -/

open Sys2Proof Sys2Proof.Machine

namespace Sys2Proof.Tests

set_option Elab.async false

theorem test_sequencer_words_a :
    reads .s 0x02380000C0000190 = some (.br on ⟨48, 200, 0⟩)
      ∧ reads .s 0x0413FFFFC3FFFFFE = some (.brc ⟨0, 2, 0⟩ ⟨16777200, 33554431, 0⟩)
      ∧ reads .s 0x0638180024000010 = some (.loop on ⟨3, 18, 16⟩)
      ∧ reads .s 0x0838000014000010 = some (.call on ⟨5, 8, 0⟩)
      ∧ reads .s 0x0A38000000000012 = some (.ret on ⟨0, 9, 0⟩)
      ∧ reads .s 0x0C38003FFFFFFFA0 = some (.fbset on ⟨0, 3, 4294967290, 0⟩)
      ∧ reads .s 0x0E380040A0000000 = some (.fbabs on ⟨0, 4, 5, 0, 0, 0, 0⟩)
      ∧ reads .s 0x1038000000003FF0 = some (.slack on ⟨0, 0, 1023, 0⟩)
      ∧ reads .s 0x120C000000000000 = some (.halt ⟨0, 1, 1⟩)
      ∧ reads .s 0x14380000000BEEF0 = some (.trap on ⟨0, 0, 48879, 0⟩)
      ∧ reads .s 0x1638000000012340 = some (.brk on ⟨0, 0, 4660, 0⟩)
      ∧ reads .s 0x1838000000000FF0 = some (.prept on ⟨0, 0, 255, 0⟩)
      ∧ reads .s 0x1A38000000000810 = some (.idemb on ⟨0, 0, 129, 0⟩)
      ∧ reads .s 0x1D78000000000000 = some (.ideme ⟨5, 7, 0⟩)
      ∧ reads .s 0x1E38300000000001 = some (.galign on ⟨6, 0, 0, 0, 0, 0, 1⟩)
      ∧ reads .s 0x2038200000000000 = some (.dccrd on ⟨4, 0, 0, 0, 0, 0, 0⟩)
      ∧ reads .s 0x22384F8100000000 = some (.crd on ⟨9, 3842, 0⟩)
      ∧ reads .s 0x2438498800000000 = some (.cwr on ⟨9, 784, 0⟩) := by decide +kernel

theorem test_sequencer_words_b :
    reads .s 0x263B103000000001 = some (.qvote on ⟨98, 3, 0, 0, 0, 0, 1⟩)
      ∧ reads .s 0x40382860E0000000 = some (.uniformAdd on ⟨5, 6, 7, 0, 0, 0, 0⟩)
      ∧ reads .s 0x42382860E0000000 = some (.uniformSub on ⟨5, 6, 7, 0, 0, 0, 0⟩)
      ∧ reads .s 0x46382860E0000000 = some (.uniformMul on ⟨5, 6, 7, 0, 0, 0, 0⟩)
      ∧ reads .s 0x48382860E0000000 = some (.uniformMulh on ⟨5, 6, 7, 0, 0, 0, 0⟩)
      ∧ reads .s 0x4A382860E0000000 = some (.uniformMulhu on ⟨5, 6, 7, 0, 0, 0, 0⟩)
      ∧ reads .s 0x4C382860E0000000 = some (.uniformDiv on ⟨5, 6, 7, 0, 0, 0, 0⟩)
      ∧ reads .s 0x4E382860E0000000 = some (.uniformDivu on ⟨5, 6, 7, 0, 0, 0, 0⟩)
      ∧ reads .s 0x50382860E0000000 = some (.uniformRem on ⟨5, 6, 7, 0, 0, 0, 0⟩)
      ∧ reads .s 0x52382860E0000000 = some (.uniformRemu on ⟨5, 6, 7, 0, 0, 0, 0⟩)
      ∧ reads .s 0x54382860E0000000 = some (.uniformAnd on ⟨5, 6, 7, 0, 0, 0, 0⟩)
      ∧ reads .s 0x56382860E0000000 = some (.uniformOr on ⟨5, 6, 7, 0, 0, 0, 0⟩)
      ∧ reads .s 0x58382860E0000000 = some (.uniformXor on ⟨5, 6, 7, 0, 0, 0, 0⟩)
      ∧ reads .s 0x5A382860E0000000 = some (.uniformAndn on ⟨5, 6, 7, 0, 0, 0, 0⟩)
      ∧ reads .s 0x5C382860E0000000 = some (.uniformShl on ⟨5, 6, 7, 0, 0, 0, 0⟩)
      ∧ reads .s 0x5E382860E0000000 = some (.uniformShr on ⟨5, 6, 7, 0, 0, 0, 0⟩)
      ∧ reads .s 0x60382860E0000000 = some (.uniformSra on ⟨5, 6, 7, 0, 0, 0, 0⟩)
      ∧ reads .s 0x62382860E0000000 = some (.uniformRotl on ⟨5, 6, 7, 0, 0, 0, 0⟩) := by decide +kernel

theorem test_sequencer_words_c :
    reads .s 0x64382860E0000000 = some (.uniformMin on ⟨5, 6, 7, 0, 0, 0, 0⟩)
      ∧ reads .s 0x66382860E0000000 = some (.uniformMax on ⟨5, 6, 7, 0, 0, 0, 0⟩)
      ∧ reads .s 0x68382860E0000000 = some (.uniformMinu on ⟨5, 6, 7, 0, 0, 0, 0⟩)
      ∧ reads .s 0x6A382860E0000000 = some (.uniformMaxu on ⟨5, 6, 7, 0, 0, 0, 0⟩)
      ∧ reads .s 0x6C3B1060E0006000 = some (.uniformCmp on ⟨98, 6, 7, 0, 0, 3, 0⟩)
      ∧ reads .s 0x6E3B161CE0000006 = some (.uniformPlog on ⟨98, 97, 103, 0, 0, 0, 6⟩)
      ∧ reads .s 0x70382860F8400000 = some (.uniformSel on ⟨5, 6, 7, 97, 0, 0, 0⟩)
      ∧ reads .s 0x7238286000000000 = some (.uniformMov on ⟨5, 6, 0, 0, 0, 0, 0⟩)
      ∧ reads .s 0x7838286000000000 = some (.uniformClz on ⟨5, 6, 0, 0, 0, 0, 0⟩)
      ∧ reads .s 0x7A38286000000000 = some (.uniformPopc on ⟨5, 6, 0, 0, 0, 0, 0⟩)
      ∧ reads .s 0x7C38286000000000 = some (.uniformBrev on ⟨5, 6, 0, 0, 0, 0, 0⟩)
      ∧ reads .s 0x7E38286001000007 = some (.uniformBfx on ⟨5, 6, 0, 4, 0, 0, 7⟩)
      ∧ reads .s 0x80382860E1000007 = some (.uniformBfi on ⟨5, 6, 7, 4, 0, 0, 7⟩)
      ∧ reads .s 0x82382860E0000003 = some (.uniformAddsh on ⟨5, 6, 7, 0, 0, 0, 3⟩)
      ∧ reads .s 0x443820589ABCDEF1 = some (.uniformAddi on ⟨4, 5, 2309737967, 1⟩)
      ∧ reads .s 0x74382000000000A1 = some (.uniformMovi on ⟨4, 0, 10, 1⟩)
      ∧ reads .s 0x7638205123456780 = some (.uniformMovhi on ⟨4, 5, 305419896, 0⟩)
      ∧ reads .s 0x0038000000000000 = some (.nop .s on) := by decide +kernel

theorem test_integer_words_a :
    reads .a 0x4038518702807800 = some (.add on { rrr 5 6 7 0 with ty := 20, sat := 1 })
      ∧ reads .a 0x4238518702807800 = some (.sub on { rrr 5 6 7 0 with ty := 20, sat := 1 })
      ∧ reads .a 0x463851A800003C00 = some (.mul on { rrr 5 6 40 0 with ub := 1 })
      ∧ reads .a 0x4838518700003800 = some (.mulh on (rrr 5 6 7 0))
      ∧ reads .a 0x4A38518700003800 = some (.mulhu on (rrr 5 6 7 0))
      ∧ reads .a 0x4C38518700003800 = some (.div on (rrr 5 6 7 0))
      ∧ reads .a 0x4E38518700003800 = some (.divu on (rrr 5 6 7 0))
      ∧ reads .a 0x5038518700003800 = some (.rem on (rrr 5 6 7 0))
      ∧ reads .a 0x5238518700003800 = some (.remu on (rrr 5 6 7 0))
      ∧ reads .a 0x5438518700003800 = some (.and on (rrr 5 6 7 0))
      ∧ reads .a 0x5638518700003800 = some (.or on (rrr 5 6 7 0))
      ∧ reads .a 0x5838518700003800 = some (.xor on (rrr 5 6 7 0))
      ∧ reads .a 0x5A38518700003800 = some (.andn on (rrr 5 6 7 0))
      ∧ reads .a 0x5C38518700003800 = some (.shl on (rrr 5 6 7 0))
      ∧ reads .a 0x5E38518700003800 = some (.shr on (rrr 5 6 7 0))
      ∧ reads .a 0x6038518700003800 = some (.sra on (rrr 5 6 7 0))
      ∧ reads .a 0x6238518700003800 = some (.rotl on (rrr 5 6 7 0))
      ∧ reads .a 0x6438518700003800 = some (.min on (rrr 5 6 7 0)) := by decide +kernel

theorem test_integer_words_b :
    reads .a 0x6638518700003800 = some (.max on (rrr 5 6 7 0))
      ∧ reads .a 0x6838518700003800 = some (.minu on (rrr 5 6 7 0))
      ∧ reads .a 0x6A38518700003800 = some (.maxu on (rrr 5 6 7 0))
      ∧ reads .a 0x6C3821870001B800 = some (.cmp on { rrr 2 6 7 0 with cnd := 3 })
      ∧ reads .a 0x6E38204700003806 = some (.plog on { rrr 2 1 7 0 with aux := 6 })
      ∧ reads .a 0x7038518704003800 = some (.sel on (rrr 5 6 7 1))
      ∧ reads .a 0x7238518000003800 = some (.mov on (rrr 5 6 0 0))
      ∧ reads .a 0x7838518002A03800 = some (.clz on { rrr 5 6 0 0 with ty := 21 })
      ∧ reads .a 0x7A38518002A03800 = some (.popc on { rrr 5 6 0 0 with ty := 21 })
      ∧ reads .a 0x7C38518002A03800 = some (.brev on { rrr 5 6 0 0 with ty := 21 })
      ∧ reads .a 0x7E38518010003807 = some (.bfx on { rrr 5 6 0 4 with aux := 7 })
      ∧ reads .a 0x8038518710003807 = some (.bfi on { rrr 5 6 7 4 with aux := 7 })
      ∧ reads .a 0x8238518700003803 = some (.addsh on { rrr 5 6 7 0 with aux := 3 })
      ∧ reads .a 0x8438101F00003E00 = some (.movk on { rrr 1 0 31 0 with ub := 1, ubh := 1 })
      ∧ reads .a 0x443820626AF37BC1 = some (.addi on ⟨2, 1, 2309737967, 1⟩)
      ∧ reads .a 0x74381000000001C1 = some (.movi on ⟨1, 0, 7, 1⟩)
      ∧ reads .a 0x76381080003FFFC0 = some (.movhi on ⟨1, 2, 65535, 0⟩)
      ∧ reads .a 0xA038313FFFF014F8 = some (.ld on ⟨3, 4, 16777152, 2, 19, 7, 0⟩) := by decide +kernel

theorem test_integer_words_c :
    reads .a 0xA238310000100478 = some (.st on ⟨3, 4, 64, 0, 17, 7, 0⟩)
      ∧ reads .a 0xA4385080000205BE = some (.amo on ⟨5, 2, 8, 0, 22, 7, 6⟩)
      ∧ reads .a 0xA63850800002057B = some (.acas on ⟨5, 2, 8, 0, 21, 7, 3⟩)
      ∧ reads .a 0x0038000000000000 = some (.nop .a on) := by decide +kernel

theorem test_vector_words_a :
    reads .v 0x023AF18700301800 = some (.vadd on { rrr 47 6 7 0 with ty := 1, rnd := 2, msk := 3 })
      ∧ reads .v 0x043AF18700301800 = some (.vsub on { rrr 47 6 7 0 with ty := 1, rnd := 2, msk := 3 })
      ∧ reads .v 0x063AF18700301800 = some (.vmul on { rrr 47 6 7 0 with ty := 1, rnd := 2, msk := 3 })
      ∧ reads .v 0x0838918720283800 = some (.vfma on { rrr 9 6 7 8 with ty := 1, rnd := 1 })
      ∧ reads .v 0x0A3AF18700203800 = some (.vmin on { rrr 47 6 7 0 with ty := 1 })
      ∧ reads .v 0x0C3AF18700203800 = some (.vmax on { rrr 47 6 7 0 with ty := 1 })
      ∧ reads .v 0x0E3AF18000003800 = some (.vabs on (rrr 47 6 0 0))
      ∧ reads .v 0x103AF18000003800 = some (.vneg on (rrr 47 6 0 0))
      ∧ reads .v 0x123821870024B800 = some (.vcmp on { rrr 2 6 7 0 with ty := 1, cnd := 9 })
      ∧ reads .v 0x143AF18000003800 = some (.vclass on (rrr 47 6 0 0))
      ∧ reads .v 0x163AF18000003800 = some (.vrcp on (rrr 47 6 0 0))
      ∧ reads .v 0x183AF18000003800 = some (.vrsq on (rrr 47 6 0 0))
      ∧ reads .v 0x1A3AF18000183800 = some (.vsqrt on { rrr 47 6 0 0 with rnd := 3 })
      ∧ reads .v 0x1C3AF18000003800 = some (.vexp2 on (rrr 47 6 0 0))
      ∧ reads .v 0x1E3AF18000003800 = some (.vlog2 on (rrr 47 6 0 0))
      ∧ reads .v 0x203AF18000003800 = some (.vsin on (rrr 47 6 0 0))
      ∧ reads .v 0x223AF18000003800 = some (.vcos on (rrr 47 6 0 0))
      ∧ reads .v 0x243AF18000003800 = some (.vtanh on (rrr 47 6 0 0)) := by decide +kernel

theorem test_vector_words_b :
    reads .v 0x263AF18000003800 = some (.vsigm on (rrr 47 6 0 0))
      ∧ reads .v 0x4038918702A07800 = some (.viadd on { rrr 9 6 7 0 with ty := 21, sat := 1 })
      ∧ reads .v 0x4238918702A07800 = some (.visub on { rrr 9 6 7 0 with ty := 21, sat := 1 })
      ∧ reads .v 0x4438918702A07800 = some (.vimul on { rrr 9 6 7 0 with ty := 21, sat := 1 })
      ∧ reads .v 0x4638918700003800 = some (.vimulh on (rrr 9 6 7 0))
      ∧ reads .v 0x4838918700003800 = some (.vimin on (rrr 9 6 7 0))
      ∧ reads .v 0x4A38918700003800 = some (.vimax on (rrr 9 6 7 0))
      ∧ reads .v 0x4C38918002803800 = some (.viabs on { rrr 9 6 0 0 with ty := 20 })
      ∧ reads .v 0x4E38918700003800 = some (.vshl on (rrr 9 6 7 0))
      ∧ reads .v 0x5038918700003800 = some (.vshr on (rrr 9 6 7 0))
      ∧ reads .v 0x5238918700003800 = some (.vsra on (rrr 9 6 7 0))
      ∧ reads .v 0x5438918700003800 = some (.vand on (rrr 9 6 7 0))
      ∧ reads .v 0x5638918700003800 = some (.vor on (rrr 9 6 7 0))
      ∧ reads .v 0x5838918700003800 = some (.vxor on (rrr 9 6 7 0))
      ∧ reads .v 0x5A38218700023800 = some (.vicmp on { rrr 2 6 7 0 with cnd := 4 })
      ∧ reads .v 0x5C38918000003800 = some (.vclz on (rrr 9 6 0 0))
      ∧ reads .v 0x5E38918000003800 = some (.vpopc on (rrr 9 6 0 0))
      ∧ reads .v 0x6038918000887810 = some (.vcvt on { rrr 9 6 0 0 with ty := 4, rnd := 1, sat := 1, aux := 16 }) := by decide +kernel

theorem test_vector_words_c :
    reads .v 0x6238918020803800 = some (.vbq on { rrr 9 6 0 8 with ty := 4 })
      ∧ reads .v 0x6438918700203860 = some (.vmxd on { rrr 9 6 7 0 with ty := 1, aux := 96 })
      ∧ reads .v 0x7038918000003800 = some (.vmov on (rrr 9 6 0 0))
      ∧ reads .v 0x723891800000387F = some (.vbca on { rrr 9 6 0 0 with aux := 127 })
      ∧ reads .v 0x7438918002A03864 = some (.vext on { rrr 9 6 0 0 with ty := 21, aux := 100 })
      ∧ reads .v 0x763891870C003800 = some (.vsel on (rrr 9 6 7 3))
      ∧ reads .v 0x7838918700003802 = some (.vshf on { rrr 9 6 7 0 with aux := 2 })
      ∧ reads .v 0x7A389180000038E4 = some (.vqx on { rrr 9 6 0 0 with aux := 228 })
      ∧ reads .v 0x7C38918700003841 = some (.vsld on { rrr 9 6 7 0 with aux := 65 })
      ∧ reads .v 0x7E38000000000800 = some (.vpart on ⟨0, 0, 32, 0⟩)
      ∧ reads .v 0x803890000000FFFF = some (.viota on ⟨9, 0, 1023, 63⟩)
      ∧ reads .v 0x823891BFFFFFFFC0 = some (.vsplat on ⟨9, 6, 4294967295, 0⟩)
      ∧ reads .v 0x9038918000203802 = some (.vred on { rrr 9 6 0 0 with ty := 1, aux := 2 })
      ∧ reads .v 0x9238918000003815 = some (.vscan on { rrr 9 6 0 0 with aux := 21 })
      ∧ reads .v 0x9438204000003802 = some (.vvote on { rrr 2 1 0 0 with aux := 2 })
      ∧ reads .v 0x9638904000003801 = some (.vmpop on { rrr 9 1 0 0 with aux := 1 })
      ∧ reads .v 0x9838204700003809 = some (.mlog on { rrr 2 1 7 0 with aux := 9 })
      ∧ reads .v 0x9A38204000003802 = some (.mmovp on { rrr 2 1 0 0 with aux := 2 }) := by decide +kernel

theorem test_vector_words_d :
    reads .v 0xA038910000100C38 = some (.vld on ⟨9, 4, 64, 1, 16, 7, 0⟩)
      ∧ reads .v 0xA2389100001000B9 = some (.vst on ⟨9, 4, 64, 0, 2, 7, 1⟩)
      ∧ reads .v 0xA438918700003812 = some (.vgath on { rrr 9 6 7 0 with aux := 18 })
      ∧ reads .v 0xA638918702203808 = some (.vscat on { rrr 9 6 7 0 with ty := 17, aux := 8 })
      ∧ reads .v 0xFA38000000000123 = some (.vhint on 5 0x123)
      ∧ reads .v 0x0038000000000000 = some (.nop .v on) := by decide +kernel

theorem test_matrix_words_a :
    reads .m 0x0238300200003800 = some (.mtd on (rrr 3 0 2 0))
      ∧ reads .m 0x043831000010283F = some (.mtld on ⟨3, 4, 64, 5, 0, 7, 7⟩)
      ∧ reads .m 0x0638310000100138 = some (.mtst on ⟨3, 4, 64, 0, 4, 7, 0⟩)
      ∧ reads .m 0x0838300000003800 = some (.mtz on (rrr 3 0 0 0))
      ∧ reads .m 0x0A38404200003807 = some (.mma on { rrr 4 1 2 0 with aux := 7 })
      ∧ reads .m 0x0C38404200003803 = some (.mmax on { rrr 4 1 2 0 with aux := 3 })
      ∧ reads .m 0x0FF840080C00384F = some (.mmas ⟨7, 7, 0⟩ { rrr 4 0 8 3 with aux := 79 })
      ∧ reads .m 0x103840400C003808 = some (.mfwd on { rrr 4 1 0 3 with aux := 8 })
      ∧ reads .m 0x123A8080000038E4 = some (.mtv on { rrr 40 2 0 0 with aux := 228 })
      ∧ reads .m 0x14382BC0000039E1 = some (.mvt on { rrr 2 47 0 0 with aux := 481 })
      ∧ reads .m 0x163820C00000380E = some (.mtt on { rrr 2 3 0 0 with aux := 14 })
      ∧ reads .m 0x183820EF00083803 = some (.mscl on { rrr 2 3 47 0 with rnd := 1, aux := 3 })
      ∧ reads .m 0x0038000000000000 = some (.nop .m on) := by decide +kernel

theorem test_window_words_a :
    reads .f 0x02387000000038FF = some (.shpLoad on { rrr 7 0 0 0 with aux := 255 })
      ∧ reads .f 0x023871A800003D04 = some (.shpEdit on { rrr 7 6 40 0 with ub := 1, aux := 260 })
      ∧ reads .f 0x043830421C003809 = some (.tfetch on { rrr 3 1 2 7 with aux := 9 })
      ∧ reads .f 0x063800421C003803 = some (.tstore on { rrr 0 1 2 7 with aux := 3 })
      ∧ reads .f 0x083830421C0038F8 = some (.tgath on { rrr 3 1 2 7 with aux := 248 })
      ∧ reads .f 0x0A3800421C0038F9 = some (.tscat on { rrr 0 1 2 7 with aux := 249 })
      ∧ reads .f 0x0C38307FFFFFFFC1 = some (.warm on ⟨3, 1, 4294967295, 1⟩)
      ∧ reads .f 0x0E38200000200041 = some (.wchk on ⟨2, 0, 32769, 1⟩)
      ∧ reads .f 0x1038000200003800 = some (.walw on (rrr 0 0 2 0))
      ∧ reads .f 0x123833C000003800 = some (.wrd on (rrr 3 15 0 0))
      ∧ reads .f 0x1438510000003808 = some (.mcmdCopy on { rrr 5 4 0 0 with aux := 8 })
      ∧ reads .f 0x163830421C0038FF = some (.mired on { rrr 3 1 2 7 with aux := 255 })
      ∧ reads .f 0x183800421C003820 = some (.maadd on { rrr 0 1 2 7 with aux := 32 })
      ∧ reads .f 0x1A38500000000004 = some (.mfence on ⟨5, 0, 0, 4⟩)
      ∧ reads .f 0x1C38500000003801 = some (.wccrd on { rrr 5 0 0 0 with aux := 1 })
      ∧ reads .f 0x0038000000000000 = some (.nop .f on) := by decide +kernel

theorem test_link_words_a :
    reads .x 0x02080A0000003803 = some (.send ⟨0, 1, 0⟩ { rrr 0 40 0 0 with aux := 3 })
      ∧ reads .x 0x0438504000003900 = some (.recv on { rrr 5 1 0 0 with aux := 256 })
      ∧ reads .x 0x063830020000387F = some (.sendt on { rrr 3 0 2 0 with aux := 127 })
      ∧ reads .x 0x0838009400003C01 = some (.recvt on { rrr 0 2 20 0 with ub := 1, aux := 1 })
      ∧ reads .x 0x0A38005400003C3F = some (.fput on { rrr 0 1 20 0 with ub := 1, aux := 63 })
      ∧ reads .x 0x0C38004214003903 = some (.facc on { rrr 0 1 2 5 with aux := 259 })
      ∧ reads .x 0x0E3800020000380F = some (.cbase on { rrr 0 0 2 0 with aux := 15 })
      ∧ reads .x 0x1038504000000FC1 = some (.crun on ⟨5, 1, 63, 1⟩)
      ∧ reads .x 0x12385000000038FF = some (.cstat on { rrr 5 0 0 0 with aux := 255 })
      ∧ reads .x 0x0038000000000000 = some (.nop .x on) := by decide +kernel

end Sys2Proof.Tests
end

section
/-! SUPPORT. The value functions of the integer words (R198, R203 to R205), read as operations on bit vectors of the width of their
type. -/

namespace Sys2Proof.Machine

open Sys2Proof

/-! ## Operands and results at a width -/

/-- A result of any width brought to 64 bits under a type code (R203): .ui32 (code 21) extends zeros, every other the sign. -/
def brought (ty : Nat) {w : Nat} (x : BitVec w) : Word := if ty = 21 then x.zeroExtend 64 else x.signExtend 64

theorem signedOf_eq_toInt (n w : Nat) : signedOf n w = (BitVec.ofNat w n).toInt := by
  cases w with
  | zero => simp [signedOf, Nat.mod_one, BitVec.toInt_zero_length]
  | succ w =>
    have h : n % 2 ^ (w + 1) < 2 ^ w ↔ 2 * (n % 2 ^ (w + 1)) < 2 ^ (w + 1) := by rw [Nat.pow_succ]; omega
    simp [signedOf, BitVec.toInt_eq_toNat_cond, h]

theorem signedOf_toNat {w : Nat} (x : BitVec w) : signedOf x.toNat w = x.toInt := by
  rw [signedOf_eq_toInt, BitVec.ofNat_toNat, BitVec.setWidth_eq]

theorem ofNat_wrapTo (w : Nat) (v : Int) : BitVec.ofNat w (wrapTo w v) = BitVec.ofInt w v := by
  apply BitVec.eq_of_toNat_eq
  have hpos : (0 : Int) < 2 ^ w := Int.pow_pos (by decide)
  have hcast : ((2 ^ w : Nat) : Int) = 2 ^ w := Int.natCast_pow 2 w
  have hlt : wrapTo w v < 2 ^ w := (Int.toNat_lt (Int.emod_nonneg v (Int.ne_of_gt hpos))).2 (hcast ▸ Int.emod_lt_of_pos v hpos)
  rw [BitVec.toNat_ofNat, BitVec.toNat_ofInt, hcast, Nat.mod_eq_of_lt hlt, wrapTo]

theorem ofInt_bmod (w : Nat) (v : Int) : BitVec.ofInt w (v.bmod (2 ^ w)) = BitVec.ofInt w v := by
  rw [← BitVec.toInt_ofInt, BitVec.ofInt_toInt]

theorem ofNat_wrapTo_32 (v : Int) : BitVec.ofNat 64 (wrapTo 32 v) = (BitVec.ofInt 32 v).zeroExtend 64 := by
  rw [← ofNat_wrapTo, BitVec.zeroExtend_eq_setWidth]
  apply BitVec.eq_of_toNat_eq
  have hlt : wrapTo 32 v < 2 ^ 32 := by rw [wrapTo]; omega
  rw [BitVec.toNat_ofNat, BitVec.toNat_setWidth, BitVec.toNat_ofNat]
  omega

theorem tyWidth_pos (ty : Nat) : 0 < tyWidth ty := by
  unfold tyWidth
  split <;> decide

theorem brought_wide {ty : Nat} (hw : tyWidth ty = 64) (x : Word) : brought ty x = x := by
  have h : ty ≠ 21 := by rintro rfl; exact absurd hw (by decide)
  rw [brought, if_neg h, BitVec.signExtend_eq]

theorem brought_zero (ty w : Nat) : brought ty (0#w) = 0#64 := by
  unfold brought
  split
  · exact BitVec.setWidth_zero 64 w
  · rw [BitVec.signExtend, BitVec.toInt_zero]
    rfl

/-- fin takes the value at the width of the type and extends it as the type says. -/
theorem fin_eq_brought {ty w : Nat} (hw : tyWidth ty = w) (v : Int) : fin ty v = brought ty (BitVec.ofInt w v) := by
  subst hw
  by_cases h1 : ty = 21
  · subst h1
    exact ofNat_wrapTo_32 v
  by_cases h0 : ty = 20
  · subst h0
    show BitVec.ofInt 64 (signedOf (wrapTo 32 v) 32) = (BitVec.ofInt 32 v).signExtend 64
    rw [signedOf_eq_toInt, ofNat_wrapTo]
    rfl
  · have hw : tyWidth ty = 64 := by simp [tyWidth, h0, h1]
    rw [fin, brought, if_neg h1, if_neg h1, if_neg h0, ofNat_wrapTo, hw, BitVec.signExtend_eq]

theorem fin_wide {ty : Nat} (hw : tyWidth ty = 64) (v : Int) : fin ty v = BitVec.ofInt 64 v := by
  rw [fin_eq_brought hw, brought_wide hw]

theorem fin_natCast {ty w : Nat} (hw : tyWidth ty = w) (n : Nat) : fin ty n = brought ty (BitVec.ofNat w n) := by
  rw [fin_eq_brought hw, BitVec.ofInt_natCast]

section
/-! The operands `x` and `y` are `a` and `b` at the width `w` of the type. -/
variable {ty w : Nat} (hw : tyWidth ty = w) {x y : Word} {a b : BitVec w} (ha : x.setWidth w = a) (hb : y.setWidth w = b)
include hw ha

theorem sOf_eq_toInt : sOf ty x = a.toInt := by
  rw [sOf, signedOf_eq_toInt, hw, BitVec.ofNat_toNat, ha]

theorem uOf_eq_toNat : uOf ty x = a.toNat := by
  rw [uOf, hw, ← ha, BitVec.toNat_setWidth]

/-! ## Shifts and rotation (R203) -/

theorem shlVal_eq : shlVal ty x y = brought ty (if w ≤ y.toNat then 0 else a <<< y.toNat) := by
  rw [shlVal, hw]
  split
  · exact (brought_zero ty w).symm
  · rw [fin_natCast hw, uOf_eq_toNat hw ha]
    congr 1
    apply BitVec.eq_of_toNat_eq
    rw [BitVec.toNat_ofNat, BitVec.toNat_shiftLeft, Nat.shiftLeft_eq]

theorem shrVal_eq : shrVal ty x y = brought ty (if w ≤ y.toNat then 0 else a >>> y.toNat) := by
  rw [shrVal, hw]
  split
  · exact (brought_zero ty w).symm
  · rw [fin_natCast hw, uOf_eq_toNat hw ha]
    congr 1
    apply BitVec.eq_of_toNat_eq
    rw [BitVec.toNat_ofNat, BitVec.toNat_ushiftRight, Nat.shiftRight_eq_div_pow]
    exact Nat.mod_eq_of_lt (Nat.lt_of_le_of_lt (Nat.div_le_self _ _) (BitVec.isLt _))

theorem sraVal_eq : sraVal ty x y = brought ty (a.sshiftRight (min y.toNat (w - 1))) := by
  rw [sraVal, fin_eq_brought hw, sOf_eq_toInt hw ha, hw, BitVec.sshiftRight, Int.shiftRight_eq_div_pow]
  norm_cast

/-- The bits that leave at the top come in below those that stay. -/
theorem rotlVal_eq : rotlVal ty x y = brought ty (a.rotateLeft (y.toNat % w)) := by
  rw [rotlVal, fin_natCast hw, uOf_eq_toNat hw ha, hw]
  congr 1
  have hn : y.toNat % w < w := Nat.mod_lt _ (hw ▸ tyWidth_pos ty)
  generalize y.toNat % w = n at hn
  have hsplit : 2 ^ w = 2 ^ (w - n) * 2 ^ n := by rw [← Nat.pow_add, Nat.sub_add_cancel (Nat.le_of_lt hn)]
  have hlow : a.toNat / 2 ^ (w - n) < 2 ^ n := Nat.div_lt_of_lt_mul (hsplit ▸ a.isLt)
  have hor : a.toNat * 2 ^ n % 2 ^ w + a.toNat / 2 ^ (w - n) = a.toNat * 2 ^ n % 2 ^ w ||| a.toNat / 2 ^ (w - n) := by
    rw [hsplit, Nat.mul_mod_mul_right, ← Nat.shiftLeft_eq, Nat.shiftLeft_add_eq_or_of_lt hlow]
  apply BitVec.eq_of_toNat_eq
  rw [BitVec.toNat_ofNat, BitVec.toNat_rotateLeft, Nat.mod_eq_of_lt hn, Nat.shiftLeft_eq, Nat.shiftRight_eq_div_pow, hor]
  exact Nat.mod_eq_of_lt (Nat.or_lt_two_pow (Nat.mod_lt _ (Nat.two_pow_pos w)) (Nat.lt_of_le_of_lt (Nat.div_le_self _ _) a.isLt))

/-! ## Sums, products, minima and maxima (R203) -/

include hb

theorem alu_eq_brought (op : Int → Int → Int) : alu ty false op x y = brought ty (BitVec.ofInt w (op a.toInt b.toInt)) := by
  rw [← fin_eq_brought hw, ← sOf_eq_toInt hw ha, ← sOf_eq_toInt hw hb]
  rfl

theorem alu_add : alu ty false (· + ·) x y = brought ty (a + b) := by
  rw [alu_eq_brought hw ha hb, BitVec.ofInt_add, BitVec.ofInt_toInt, BitVec.ofInt_toInt]

theorem alu_sub : alu ty false (· - ·) x y = brought ty (a - b) := by
  simp only [alu_eq_brought hw ha hb, Int.sub_eq_add_neg, BitVec.ofInt_add, BitVec.ofInt_neg, BitVec.ofInt_toInt, BitVec.sub_eq_add_neg]

theorem alu_mul : alu ty false (· * ·) x y = brought ty (a * b) := by
  rw [alu_eq_brought hw ha hb, BitVec.ofInt_mul, BitVec.ofInt_toInt, BitVec.ofInt_toInt]

theorem alu_min : alu ty false min x y = brought ty (if a.slt b then a else b) := by
  rw [alu_eq_brought hw ha hb]
  simp only [BitVec.slt_iff_toInt_lt]
  split
  · rw [Int.min_eq_left (by omega), BitVec.ofInt_toInt]
  · rw [Int.min_eq_right (by omega), BitVec.ofInt_toInt]

theorem alu_max : alu ty false max x y = brought ty (if a.slt b then b else a) := by
  rw [alu_eq_brought hw ha hb]
  simp only [BitVec.slt_iff_toInt_lt]
  split
  · rw [Int.max_eq_right (by omega), BitVec.ofInt_toInt]
  · rw [Int.max_eq_left (by omega), BitVec.ofInt_toInt]

theorem aluU_eq_brought (op : Nat → Nat → Nat) :
    aluU ty (fun m n => (op m n : Nat)) x y = brought ty (BitVec.ofNat w (op a.toNat b.toNat)) := by
  rw [← fin_natCast hw, ← uOf_eq_toNat hw ha, ← uOf_eq_toNat hw hb]
  rfl

theorem aluU_min : aluU ty (fun m n => (min m n : Nat)) x y = brought ty (if a.ult b then a else b) := by
  rw [aluU_eq_brought hw ha hb]
  simp only [BitVec.ult_iff_lt, BitVec.lt_def]
  split
  · rw [Nat.min_eq_left (by omega), BitVec.ofNat_toNat, BitVec.setWidth_eq]
  · rw [Nat.min_eq_right (by omega), BitVec.ofNat_toNat, BitVec.setWidth_eq]

theorem aluU_max : aluU ty (fun m n => (max m n : Nat)) x y = brought ty (if a.ult b then b else a) := by
  rw [aluU_eq_brought hw ha hb]
  simp only [BitVec.ult_iff_lt, BitVec.lt_def]
  split
  · rw [Nat.max_eq_right (by omega), BitVec.ofNat_toNat, BitVec.setWidth_eq]
  · rw [Nat.max_eq_left (by omega), BitVec.ofNat_toNat, BitVec.setWidth_eq]

/-! ## Division (R205) -/

/-- The quotient of DIV: in the overflow case the dividend is the quotient at the width, too. -/
theorem divS_fst : fin ty (divS ty x y).1 = brought ty (if b = 0 then BitVec.allOnes w else a.sdiv b) := by
  rw [fin_eq_brought hw, divS, sOf_eq_toInt hw ha, sOf_eq_toInt hw hb, hw]
  have hpos : 0 < w := hw ▸ tyWidth_pos ty
  by_cases hz : b = 0
  · simp [hz, ← BitVec.neg_one_eq_allOnes, BitVec.ofInt_neg]
  have hz' : b.toInt ≠ 0 := fun h => hz (BitVec.toInt_inj.1 (h.trans BitVec.toInt_zero.symm))
  simp only [hz, hz', if_false]
  split
  · next h =>
    obtain ⟨hmin, hone⟩ := h
    have hmin : a = BitVec.intMin w := BitVec.toInt_inj.1 (hmin.trans (BitVec.toInt_intMin_of_pos hpos).symm)
    have hone : b = -1#w := by rw [← BitVec.ofInt_toInt (x := b), hone, BitVec.ofInt_neg]; rfl
    rw [hmin, hone, BitVec.intMin_sdiv_neg_one, BitVec.ofInt_toInt]
  · rw [← BitVec.ofInt_toInt (x := a.sdiv b), BitVec.toInt_sdiv, ofInt_bmod]

/-- The remainder of REM is that of the truncated division in every case. -/
theorem divS_snd : fin ty (divS ty x y).2 = brought ty (a.srem b) := by
  have h : (divS ty x y).2 = (sOf ty x).tmod (sOf ty y) := by
    rw [divS]
    split
    · next h => simp [h]
    split
    · next h => simp [h.2, Int.tmod_neg, Int.tmod_one]
    · rfl
  rw [h, fin_eq_brought hw, sOf_eq_toInt hw ha, sOf_eq_toInt hw hb, ← BitVec.toInt_srem, BitVec.ofInt_toInt]

theorem divU_fst : fin ty (divU ty x y).1 = brought ty (if b = 0 then BitVec.allOnes w else a / b) := by
  rw [fin_natCast hw, divU, hw, uOf_eq_toNat hw ha, uOf_eq_toNat hw hb]
  by_cases hz : b = 0
  · have hz' : b.toNat = 0 := BitVec.toNat_inj.2 hz
    rw [if_pos hz, if_pos hz', ← BitVec.toNat_allOnes, BitVec.ofNat_toNat, BitVec.setWidth_eq]
  · have hz' : b.toNat ≠ 0 := fun h => hz (BitVec.toNat_inj.1 h)
    rw [if_neg hz, if_neg hz', ← BitVec.toNat_udiv, BitVec.ofNat_toNat, BitVec.setWidth_eq]

theorem divU_snd : fin ty (divU ty x y).2 = brought ty (a % b) := by
  have h : (divU ty x y).2 = uOf ty x % uOf ty y := by
    rw [divU]
    split
    · next h => simp [h]
    · rfl
  rw [h, fin_natCast hw, uOf_eq_toNat hw ha, uOf_eq_toNat hw hb, ← BitVec.toNat_umod, BitVec.ofNat_toNat, BitVec.setWidth_eq]

end

/-! ## High halves of products (R203) -/

theorem extractLsb'_ofInt_128 (v : Int) : (BitVec.ofInt 128 v).extractLsb' 64 64 = BitVec.ofInt 64 (v / 2 ^ 64) := by
  apply BitVec.eq_of_toNat_eq
  simp only [BitVec.extractLsb'_toNat, BitVec.toNat_ofInt, Nat.shiftRight_eq_div_pow]
  omega

theorem mulhVal_eq (x y : Word) : mulhVal x y = (x.signExtend 128 * y.signExtend 128).extractLsb' 64 64 := by
  have hw : tyWidth 0 = 64 := rfl
  have h : x.signExtend 128 * y.signExtend 128 = BitVec.ofInt 128 (x.toInt * y.toInt) := (BitVec.ofInt_mul _ _).symm
  rw [h, extractLsb'_ofInt_128, mulhVal, sOf_eq_toInt hw x.setWidth_eq, sOf_eq_toInt hw y.setWidth_eq, fin_wide hw]

theorem mulhuVal_eq (x y : Word) : mulhuVal x y = (x.zeroExtend 128 * y.zeroExtend 128).extractLsb' 64 64 := by
  have hw : tyWidth 0 = 64 := rfl
  have h : x.zeroExtend 128 * y.zeroExtend 128 = BitVec.ofInt 128 ((x.toNat * y.toNat : Nat) : Int) := by
    rw [BitVec.ofInt_natCast, BitVec.ofNat_mul, BitVec.ofNat_toNat, BitVec.ofNat_toNat]
  rw [h, extractLsb'_ofInt_128, mulhuVal, uOf_eq_toNat hw x.setWidth_eq, uOf_eq_toNat hw y.setWidth_eq, fin_wide hw]
  norm_cast

end Sys2Proof.Machine
end

section
/-! SUPPORT. The tables of the integer words: saturated results (R204), bits, fields and comparisons (R206 to R208) as the model's value
functions give them. -/

namespace Sys2Proof.Machine

open Sys2Proof Sys2Proof.Claims

/-! ## Types (R198) -/

theorem tyWidth_of_wide {ty : BitVec 5} (h : ty = 0 ∨ ty = 22) : tyWidth ty.toNat = 64 := by
  rcases h with rfl | rfl <;> rfl

theorem tyWidth_of_narrow {ty : BitVec 5} (h : ty = 20 ∨ ty = 21) : tyWidth ty.toNat = 32 := by
  rcases h with rfl | rfl <;> rfl

theorem tyWidth_of_not_narrow {ty : BitVec 5} (h : ¬(ty = 20 ∨ ty = 21)) : tyWidth ty.toNat = 64 := by
  have h20 : ty.toNat ≠ 20 := fun e => h (.inl (BitVec.toNat_inj (y := 20).1 e))
  have h21 : ty.toNat ≠ 21 := fun e => h (.inr (BitVec.toNat_inj (y := 21).1 e))
  simp [tyWidth, h20, h21]

theorem brought_narrow {ty : BitVec 5} (h : ty = 20 ∨ ty = 21) (x : BitVec 32) : brought ty.toNat x = widen ty x := by
  rcases h with rfl | rfl <;> rfl

/-! ## Saturation (R204) -/

theorem clampInt_eq {lo hi : Int} (h : lo ≤ hi) (v : Int) : clampInt lo hi v = max lo (min hi v) := by
  unfold clampInt
  split
  · omega
  split <;> omega

theorem fin_i32_of_range {v : Int} (hlo : -(2 ^ 31) ≤ v) (hhi : v < 2 ^ 31) : fin 20 v = BitVec.ofInt 64 v := by
  rw [fin_eq_brought (w := 32) rfl]
  exact congrArg (BitVec.ofInt 64) (BitVec.toInt_ofInt_eq_self (by decide) hlo hhi)

theorem fin_ui32_of_range {v : Int} (hlo : 0 ≤ v) (hhi : v < 2 ^ 32) : fin 21 v = BitVec.ofInt 64 v := by
  have h : wrapTo 32 v = v.toNat := by rw [wrapTo, Int.emod_eq_of_lt hlo hhi]
  show BitVec.ofNat 64 (wrapTo 32 v) = _
  rw [h, ← BitVec.ofInt_natCast, Int.toNat_of_nonneg hlo]

theorem alu_sat_signed {ty w : Nat} (hw : tyWidth ty = w) (h : ty ≠ 21) {x y : Word} {a b : BitVec w} (ha : x.setWidth w = a)
    (hb : y.setWidth w = b) (op : Int → Int → Int) :
    alu ty true op x y = fin ty (max (-(2 ^ (w - 1))) (min (2 ^ (w - 1) - 1) (op a.toInt b.toInt))) := by
  have hpos : (0 : Int) < 2 ^ (w - 1) := Int.pow_pos (by decide)
  rw [← clampInt_eq (by omega), ← sOf_eq_toInt hw ha, ← sOf_eq_toInt hw hb]
  simp [alu, satClamp, h, hw]

theorem alu_sat_unsigned {x y : Word} {a b : BitVec 32} (ha : x.setWidth 32 = a) (hb : y.setWidth 32 = b) (op : Int → Int → Int) :
    alu 21 true op x y = fin 21 (max 0 (min (2 ^ 32 - 1) (op a.toNat b.toNat))) := by
  rw [← clampInt_eq (by omega), ← uOf_eq_toNat (ty := 21) (w := 32) rfl ha, ← uOf_eq_toNat (ty := 21) (w := 32) rfl hb]
  simp [alu, satClamp]

/-- A saturated word gives the exact result clamped to the range of its type. -/
theorem alu_saturated {sat : Bool} (hsat : sat = true) (ty : BitVec 5) (op : Int → Int → Int) (x y : Word) :
    alu ty.toNat sat op x y = saturated ty op x y := by
  subst hsat
  by_cases h20 : ty = 20
  · subst h20
    exact (alu_sat_signed (w := 32) rfl (by decide) rfl rfl op).trans (fin_i32_of_range (by omega) (by omega))
  by_cases h21 : ty = 21
  · subst h21
    exact (alu_sat_unsigned rfl rfl op).trans (fin_ui32_of_range (by omega) (by omega))
  have hw : tyWidth ty.toNat = 64 := tyWidth_of_not_narrow (by simp only [h20, h21, or_self, not_false_eq_true])
  have hne : ty.toNat ≠ 21 := fun e => h21 (BitVec.toNat_inj (y := 21).1 e)
  rw [saturated, if_neg h20, if_neg h21, alu_sat_signed hw hne x.setWidth_eq y.setWidth_eq, fin_wide hw]

/-! ## Bits of numbers -/

theorem bitOf_eq_testBit (x i : Nat) : bitOf x i = x.testBit i := by
  rw [Nat.testBit_eq_decide_div_mod_eq]
  rfl

theorem lutVal_eq_testBit (lut : Nat) (p q : Bool) : lutVal lut p q = lut.testBit (2 * p.toNat + q.toNat) := bitOf_eq_testBit _ _

/-- The look-up takes the low four bits alone. -/
theorem lutVal_mod (lut : Nat) (p q : Bool) : lutVal (lut % 16) p q = lutVal lut p q := by
  have h : 2 * p.toNat + q.toNat < 4 := by have := p.toNat_lt; have := q.toNat_lt; omega
  rw [lutVal_eq_testBit, lutVal_eq_testBit, show 16 = 2 ^ 4 from rfl, Nat.testBit_mod_two_pow]
  simp [h]

/-! ## Counts and reversal (R207) -/

theorem clzOf_eq_clz {w : Nat} (hw : 0 < w) (n : Nat) : clzOf w n = (BitVec.ofNat w n).clz.toNat := by
  have hlt : w < 2 ^ w := Nat.lt_two_pow_self
  have hn : n % 2 ^ w = (BitVec.ofNat w n).toNat := rfl
  rw [clzOf, hn]
  generalize BitVec.ofNat w n = b
  by_cases hz : b = 0#w
  · have hz' : b.toNat = 0 := BitVec.toNat_inj.2 hz
    rw [if_pos hz', BitVec.clz_eq_iff_eq_zero.2 hz]
    exact (Nat.mod_eq_of_lt hlt).symm
  have hz' : b.toNat ≠ 0 := fun h => hz (BitVec.toNat_inj.1 h)
  rw [if_neg hz']
  have hclz : b.clz.toNat < w := by
    have := BitVec.lt_def.1 (BitVec.clz_lt_iff_ne_zero.2 hz)
    rwa [BitVec.natCast_eq_ofNat, BitVec.toNat_ofNat, Nat.mod_eq_of_lt hlt] at this
  have hlog : b.toNat.log2 = w - 1 - b.clz.toNat := by
    rw [Nat.log2_eq_iff hz']
    have hlow := BitVec.two_pow_sub_clz_le_toNat_of_ne_zero hw hz
    have hhigh := BitVec.toNat_lt_two_pow_sub_clz (x := b)
    rw [show w - 1 - b.clz.toNat + 1 = w - b.clz.toNat by omega]
    exact ⟨hlow, hhigh⟩
  omega

theorem popOf_succ (w n : Nat) : popOf (w + 1) n = popOf w n + (n.testBit w).toNat := by
  cases h : n.testBit w <;> simp [popOf, List.range_succ, bitOf_eq_testBit, h]

theorem popOf_eq_cpopNatRec {w : Nat} (x : BitVec w) (k : Nat) : popOf k x.toNat = x.cpopNatRec k 0 := by
  induction k with
  | zero => rfl
  | succ k ih => rw [popOf_succ, ih, BitVec.cpopNatRec_succ, Nat.zero_add, BitVec.cpopNatRec_eq (acc := Bool.toNat _), BitVec.testBit_toNat]

theorem popOf_mod (w n : Nat) : popOf w (n % 2 ^ w) = popOf w n := by
  unfold popOf
  congr 1
  refine List.filter_congr fun i hi => ?_
  rw [bitOf_eq_testBit, bitOf_eq_testBit, Nat.testBit_mod_two_pow]
  simp [List.mem_range.1 hi]

theorem popOf_eq_cpop (w n : Nat) : popOf w n = (BitVec.ofNat w n).cpop.toNat := by
  have hle : popOf w n ≤ w := Nat.le_trans (List.length_filter_le _ _) (Nat.le_of_eq List.length_range)
  rw [BitVec.cpop, ← popOf_eq_cpopNatRec, BitVec.toNat_ofNat, BitVec.toNat_ofNat, popOf_mod]
  exact (Nat.mod_eq_of_lt (Nat.lt_of_le_of_lt hle Nat.lt_two_pow_self)).symm

/-- A sum of doubled terms is the sum doubled. -/
theorem foldl_add_double {f g : Nat → Nat} (l : List Nat) (h : ∀ i ∈ l, g i = 2 * f i) (k : Nat) :
    l.foldl (fun n i => n + g i) (2 * k) = 2 * l.foldl (fun n i => n + f i) k := by
  induction l generalizing k with
  | nil => rfl
  | cons i l ih =>
    rw [List.foldl_cons, List.foldl_cons, h i List.mem_cons_self, ← Nat.mul_add, ih fun j hj => h j (List.mem_cons_of_mem i hj)]

/-- Each further bit comes in at the bottom. -/
theorem revOf_succ (w n : Nat) : revOf (w + 1) n = 2 * revOf w n + (n.testBit w).toNat := by
  have hterm : ∀ i ∈ List.range w, (if bitOf n i then 2 ^ (w + 1 - 1 - i) else 0) = 2 * (if bitOf n i then 2 ^ (w - 1 - i) else 0) := by
    intro i hi
    have hi := List.mem_range.1 hi
    split
    · rw [← Nat.pow_succ', show (w - 1 - i).succ = w + 1 - 1 - i by omega]
    · rfl
  have hlast : (if bitOf n w then 2 ^ (w + 1 - 1 - w) else 0) = (n.testBit w).toNat := by
    rw [bitOf_eq_testBit, Nat.add_sub_cancel, Nat.sub_self]
    cases n.testBit w <;> rfl
  rw [revOf, revOf, List.range_succ, List.foldl_append, List.foldl_cons, List.foldl_nil, hlast]
  exact congrArg (· + _) (foldl_add_double (List.range w) hterm 0)

theorem revOf_eq_reverse (w n : Nat) : revOf w n = (BitVec.ofNat w n).reverse.toNat := by
  induction w with
  | zero => exact (Nat.lt_one_iff.1 (BitVec.isLt _)).symm
  | succ w ih =>
    have hmsb : (BitVec.ofNat (w + 1) n).msb = n.testBit w := by
      rw [BitVec.msb_eq_getLsbD_last, BitVec.getLsbD_ofNat]
      simp
    have hlow : (BitVec.ofNat (w + 1) n).truncate w = BitVec.ofNat w n := by simp
    rw [revOf_succ, ih, BitVec.reverse, hmsb, hlow, BitVec.toNat_concat]
    omega

/-! ## Fields (R208) -/

theorem bitsOf_eq_extractLsb' (x : Word) (pos len : Nat) : bitsOf x.toNat pos len = (x.extractLsb' pos len).toNat := by
  rw [BitVec.extractLsb'_toNat, Nat.shiftRight_eq_div_pow]
  rfl

/-- BFI keeps the bits below the field and those above it. -/
theorem bfiVal_eq (pos len : Nat) (x y : Word) : bfiVal pos len x y =
    BitVec.ofNat 64 (2 ^ pos * (2 ^ len * (x.toNat / 2 ^ pos / 2 ^ len) + y.toNat % 2 ^ len) + x.toNat % 2 ^ pos) := by
  have hpos := Nat.div_add_mod x.toNat (2 ^ pos)
  have hlen := Nat.div_add_mod (x.toNat / 2 ^ pos) (2 ^ len)
  rw [bfiVal, bitsOf]
  congr 1
  generalize x.toNat / 2 ^ pos / 2 ^ len = hi at hlen ⊢
  generalize x.toNat / 2 ^ pos % 2 ^ len = mid at hlen ⊢
  have hx : x.toNat = mid * 2 ^ pos + (2 ^ pos * (2 ^ len * hi) + x.toNat % 2 ^ pos) := by
    rw [← hlen, Nat.mul_add, Nat.mul_comm _ mid] at hpos
    omega
  rw [Nat.sub_eq_of_eq_add' hx, Nat.mul_add, Nat.mul_comm (y.toNat % 2 ^ len)]
  omega

theorem bfiVal_eq_masked (pos len : Nat) (x y : Word) : bfiVal pos len x y =
    (x &&& ~~~((BitVec.allOnes len).zeroExtend 64 <<< pos)) ||| (y <<< pos &&& (BitVec.allOnes len).zeroExtend 64 <<< pos) := by
  rw [bfiVal_eq]
  refine BitVec.eq_of_getLsbD_eq fun i hi => ?_
  rw [BitVec.getLsbD_ofNat, Nat.testBit_two_pow_mul_add _ (Nat.mod_lt _ (Nat.two_pow_pos pos)),
    Nat.testBit_two_pow_mul_add _ (Nat.mod_lt _ (Nat.two_pow_pos len)), Nat.testBit_mod_two_pow, Nat.testBit_mod_two_pow,
    Nat.testBit_div_two_pow, Nat.testBit_div_two_pow]
  by_cases below : i < pos
  · simp [below, hi, BitVec.testBit_toNat]
  have hpos : i - pos < 64 := by omega
  by_cases field : i - pos < len
  · simp [below, field, hi, hpos, BitVec.testBit_toNat]
  · have above : i - pos - len + len + pos = i := by omega
    simp [below, field, hi, above, BitVec.testBit_toNat]

theorem bfxVal_eq {ty : BitVec 5} (pos len : Nat) (x : Word) : bfxVal ty.toNat pos len x =
    if ty = 22 then (x.extractLsb' pos len).signExtend 64 else (x.extractLsb' pos len).zeroExtend 64 := by
  have hty : ty.toNat = 22 ↔ ty = 22 := BitVec.toNat_inj (y := 22)
  simp only [bfxVal, hty, bitsOf_eq_extractLsb', signedOf_eq_toInt, BitVec.ofNat_toNat, BitVec.setWidth_eq]
  rfl

/-! ## Comparisons (R206) -/

/-- A comparison at the width of its type compares the operands cut to that width. -/
theorem compared_eq {ty : BitVec 5} {w : Nat} (hw : tyWidth ty.toNat = w) (g : {w : Nat} → BitVec w → BitVec w → Bool) (x y : Word) :
    compared g ty x y = g (x.setWidth w) (y.setWidth w) := by
  by_cases h : ty = 20 ∨ ty = 21
  · obtain rfl : w = 32 := hw.symm.trans (tyWidth_of_narrow h)
    exact if_pos h
  · obtain rfl : w = 64 := hw.symm.trans (tyWidth_of_not_narrow h)
    rw [compared, if_neg h, BitVec.setWidth_eq, BitVec.setWidth_eq]

/-- An operation at the width of its type works on the operand cut to that width. -/
theorem atWidth_eq {ty : BitVec 5} {w : Nat} (hw : tyWidth ty.toNat = w) (g : {w : Nat} → BitVec w → BitVec w) (x : Word) :
    atWidth g ty x = BitVec.ofNat 64 (g (x.setWidth w)).toNat := by
  by_cases h : ty = 20 ∨ ty = 21
  · obtain rfl : w = 32 := hw.symm.trans (tyWidth_of_narrow h)
    rw [atWidth, if_pos h, BitVec.ofNat_toNat]
  · obtain rfl : w = 64 := hw.symm.trans (tyWidth_of_not_narrow h)
    rw [atWidth, if_neg h, BitVec.setWidth_eq, BitVec.ofNat_toNat, BitVec.setWidth_eq]

/-- Each condition code of R66 names its comparison. -/
theorem icmp_eq {o : BitVec 4 × ({w : Nat} → BitVec w → BitVec w → Bool)} (ho : o ∈ comparisons) {w : Nat} (a b : BitVec w) :
    icmp (Cond.ofCode o.1) w a.toNat b.toNat = o.2 a b := by
  have hbeq : (a.toNat == b.toNat) = (a == b) := Bool.eq_iff_iff.2 (by rw [beq_iff_eq, beq_iff_eq, BitVec.toNat_inj])
  simp only [icmp, signedOf_toNat, Nat.mod_eq_of_lt (BitVec.isLt _)]
  simp only [comparisons, List.mem_cons, List.not_mem_nil, or_false] at ho
  rcases ho with rfl | rfl | rfl | rfl | rfl | rfl | rfl | rfl
  · exact hbeq
  · exact congrArg not hbeq
  · rfl
  · rfl
  · rfl
  · rfl
  · rfl
  · rfl

/-- CMP gives the comparison that its condition names, at the width of its type. -/
theorem cmpVal_eq {o : BitVec 4 × ({w : Nat} → BitVec w → BitVec w → Bool)} (ho : o ∈ comparisons) (ty : BitVec 5) (x y : Word) :
    cmpVal ty.toNat o.1.toNat x y = compared o.2 ty x y := by
  rw [cmpVal, uOf_eq_toNat rfl rfl, uOf_eq_toNat rfl rfl, BitVec.ofNat_toNat, BitVec.setWidth_eq, icmp_eq ho, compared_eq rfl]

/-! ## The values of the words (R203, R204, R206 to R208) -/

theorem ofNat_clzOf (ty : BitVec 5) (x : Word) : BitVec.ofNat 64 (clzOf (tyWidth ty.toNat) x.toNat) = atWidth BitVec.clz ty x := by
  rw [atWidth_eq rfl, clzOf_eq_clz (tyWidth_pos _), BitVec.ofNat_toNat _ x]

theorem ofNat_popOf (ty : BitVec 5) (x : Word) : BitVec.ofNat 64 (popOf (tyWidth ty.toNat) x.toNat) = atWidth BitVec.cpop ty x := by
  rw [atWidth_eq rfl, popOf_eq_cpop, BitVec.ofNat_toNat _ x]

theorem ofNat_revOf (ty : BitVec 5) (x : Word) : BitVec.ofNat 64 (revOf (tyWidth ty.toNat) x.toNat) = atWidth BitVec.reverse ty x := by
  rw [atWidth_eq rfl, revOf_eq_reverse, BitVec.ofNat_toNat _ x]

theorem addshVal_eq (sh : Nat) (x y : Word) : addshVal sh x y = x + y <<< sh := by
  rw [addshVal]
  congr 1
  apply BitVec.eq_of_toNat_eq
  rw [BitVec.toNat_ofNat, BitVec.toNat_shiftLeft, Nat.shiftLeft_eq]

theorem addiVal_eq (sat : Bool) (imm : BitVec 32) (x : Word) : addiVal sat imm x =
    if sat then saturated 0 (· + ·) x (imm.signExtend 64) else x + imm.signExtend 64 := by
  have hw : tyWidth 0 = 64 := rfl
  cases sat with
  | true => exact alu_saturated rfl 0 (· + ·) x (imm.signExtend 64)
  | false => exact (alu_add hw x.setWidth_eq (BitVec.setWidth_eq _)).trans (brought_wide hw _)

end Sys2Proof.Machine
end

section
/-! PROOFS. Column A and column S on integers: an enabled word puts the value of its table on the agenda (R59, R177, R198 to R210). -/

namespace Sys2Proof.Machine

open Sys2Proof Sys2Proof.Claims

/-! ## Enabled words (R59) -/

section
variable {i : Instr} {h : Hdr} {s t : State} {lat : Nat} {v : Word}

theorem gives_coreWord {k : State → State} (he : s.core.enabled h = true) (hi : exec i s = .next (coreWord h k s)) (hk : k s = t) :
    Gives i s t := by
  rw [Gives, hi, coreWord_enabled _ he, hk]

theorem gives_seqWord {k : State → State} (he : s.row.enabled h = true) (hi : exec i s = .next (seqWord h k s)) (hk : k s = t) :
    Gives i s t := by
  rw [Gives, hi, seqWord_enabled _ he, hk]

/-- A column-A word on two operands gives its value `lat` cycles on. -/
theorem gives_aluWord {f : RRR} {g : Word → Word → Word} (he : s.core.enabled h = true) (hi : exec i s = .next (aluWord h f lat g s))
    (hv : g (s.core.ra f.a.toNat) (s.opB f) = v) : Gives i s (s.writeBack lat [.a f.d.toNat v]) :=
  gives_coreWord he hi (by rw [hv])

theorem gives_aluWord1 {f : RRR} {g : Word → Word} (he : s.core.enabled h = true) (hi : exec i s = .next (aluWord1 h f g s))
    (hv : g (s.core.ra f.a.toNat) = v) : Gives i s (s.writeBack 1 [.a f.d.toNat v]) :=
  gives_coreWord he hi (by rw [hv])

theorem gives_aluWordI {f : RRI} {g : Word → Word} (he : s.core.enabled h = true) (hi : exec i s = .next (aluWordI h f g s))
    (hv : g (s.core.ra f.a.toNat) = v) : Gives i s (s.writeBack 1 [.a f.d.toNat v]) :=
  gives_coreWord he hi (by rw [hv])

/-- A uniform word on two operands gives its value `lat` cycles on. -/
theorem gives_uniWord {f : SRR} {g : Word → Word → Word} (he : s.row.enabled h = true) (hi : exec i s = .next (uniWord h f lat g s))
    (hv : g (s.k f.a) (s.k f.b) = v) : Gives i s (s.writeSeq lat [.k s.row.handler f.d.toNat v]) :=
  gives_seqWord he hi (by rw [hv])

theorem gives_uniWordI {f : SRI} {g : Word → Word} (he : s.row.enabled h = true) (hi : exec i s = .next (uniWordI h f g s))
    (hv : g (s.k f.a) = v) : Gives i s (s.writeSeq 1 [.k s.row.handler f.d.toNat v]) :=
  gives_seqWord he hi (by rw [hv])

/-- A column-A word on 64-bit operands. -/
theorem gives_wide {f : RRR} {g : Word → Word → Word} (he : s.core.enabled h = true) (hw : tyWidth f.ty.toNat = 64)
    (hi : exec i s = .next (aluWord h f lat g s)) (hv : g (s.core.ra f.a.toNat) (s.opB f) = brought f.ty.toNat v) :
    Gives i s (s.writeBack lat [.a f.d.toNat v]) :=
  gives_aluWord he hi (hv.trans (brought_wide hw v))

/-- A column-A word on 32-bit operands. -/
theorem gives_narrow {f : RRR} {g : Word → Word → Word} {v : BitVec 32} (he : s.core.enabled h = true) (ht : f.ty = 20 ∨ f.ty = 21)
    (hi : exec i s = .next (aluWord h f lat g s)) (hv : g (s.core.ra f.a.toNat) (s.opB f) = brought f.ty.toNat v) :
    Gives i s (s.writeBack lat [.a f.d.toNat (widen f.ty v)]) :=
  gives_aluWord he hi (hv.trans (brought_narrow ht v))

end

/-! ## Arithmetic, logic and shifts (R203 to R205) -/

/-- One value lemma for each row of the table, at width 64. -/
theorem integerWideResults : IntegerWideResults := by
  intro o ho h f s he hs ht
  have hw := tyWidth_of_wide ht
  have hx := (s.core.ra f.a.toNat).setWidth_eq
  have hy := (s.opB f).setWidth_eq
  have hsat : (f.sat == 1) = false := by rw [hs]; rfl
  simp only [wideOps, List.mem_cons, List.not_mem_nil, or_false] at ho
  rcases ho with rfl | rfl | rfl | rfl | rfl | rfl | rfl | rfl | rfl | rfl | rfl | rfl | rfl | rfl | rfl | rfl | rfl | rfl | rfl | rfl | rfl
  · exact gives_wide he hw rfl (hsat ▸ alu_add hw hx hy)
  · exact gives_wide he hw rfl (hsat ▸ alu_sub hw hx hy)
  · exact gives_wide he hw rfl (hsat ▸ alu_mul hw hx hy)
  · exact gives_aluWord he rfl (mulhVal_eq _ _)
  · exact gives_aluWord he rfl (mulhuVal_eq _ _)
  · exact gives_wide he hw rfl (divS_fst hw hx hy)
  · exact gives_wide he hw rfl (divU_fst hw hx hy)
  · exact gives_wide he hw rfl (divS_snd hw hx hy)
  · exact gives_wide he hw rfl (divU_snd hw hx hy)
  · exact gives_aluWord he rfl rfl
  · exact gives_aluWord he rfl rfl
  · exact gives_aluWord he rfl rfl
  · exact gives_aluWord he rfl rfl
  · exact gives_wide he hw rfl (shlVal_eq hw hx)
  · exact gives_wide he hw rfl (shrVal_eq hw hx)
  · exact gives_wide he hw rfl (sraVal_eq hw hx)
  · exact gives_wide he hw rfl (rotlVal_eq hw hx)
  · exact gives_wide he hw rfl (alu_min hw hx hy)
  · exact gives_wide he hw rfl (alu_max hw hx hy)
  · exact gives_wide he hw rfl (aluU_min hw hx hy)
  · exact gives_wide he hw rfl (aluU_max hw hx hy)

/-- The same lemmas at width 32, with both operands cut to it. -/
theorem integerNarrowResults : IntegerNarrowResults := by
  intro o ho h f s he hs ht
  have hw := tyWidth_of_narrow ht
  have hx : (s.core.ra f.a.toNat).setWidth 32 = (s.core.ra f.a.toNat).truncate 32 := rfl
  have hy : (s.opB f).setWidth 32 = (s.opB f).truncate 32 := rfl
  have hsat : (f.sat == 1) = false := by rw [hs]; rfl
  simp only [narrowOps, List.mem_cons, List.not_mem_nil, or_false] at ho
  rcases ho with rfl | rfl | rfl | rfl | rfl | rfl | rfl | rfl | rfl | rfl | rfl | rfl | rfl | rfl | rfl
  · exact gives_narrow he ht rfl (hsat ▸ alu_add hw hx hy)
  · exact gives_narrow he ht rfl (hsat ▸ alu_sub hw hx hy)
  · exact gives_narrow he ht rfl (hsat ▸ alu_mul hw hx hy)
  · exact gives_narrow he ht rfl (divS_fst hw hx hy)
  · exact gives_narrow he ht rfl (divU_fst hw hx hy)
  · exact gives_narrow he ht rfl (divS_snd hw hx hy)
  · exact gives_narrow he ht rfl (divU_snd hw hx hy)
  · exact gives_narrow he ht rfl (shlVal_eq hw hx)
  · exact gives_narrow he ht rfl (shrVal_eq hw hx)
  · exact gives_narrow he ht rfl (sraVal_eq hw hx)
  · exact gives_narrow he ht rfl (rotlVal_eq hw hx)
  · exact gives_narrow he ht rfl (alu_min hw hx hy)
  · exact gives_narrow he ht rfl (alu_max hw hx hy)
  · exact gives_narrow he ht rfl (aluU_min hw hx hy)
  · exact gives_narrow he ht rfl (aluU_max hw hx hy)

/-- In both columns SAT selects the clamped exact result. -/
theorem integerSaturation : IntegerSaturation := by
  intro o ho
  simp only [satOps, List.mem_cons, List.not_mem_nil, or_false] at ho
  rcases ho with rfl | rfl | rfl <;>
    exact ⟨fun h f s he hs _ => gives_aluWord he rfl (alu_saturated (beq_iff_eq.2 hs) _ _ _ _),
      fun h f s he hs _ => gives_uniWord he rfl (alu_saturated hs _ _ _ _)⟩

/-- Settles O6: each value function of the model is the bit-vector operation of its table at the width of the type, and an enabled
word puts that value on the agenda. -/
theorem integerWordsGiveTheirResults : Obligations.IntegerWordsGiveTheirResults :=
  ⟨integerWideResults, integerNarrowResults, integerSaturation⟩

/-! ## Fields, predicates and immediates (R206 to R210) -/

/-- One value lemma for each row of the table, used in column A and in column S. -/
theorem fieldResults : FieldResults := by
  intro o ho
  simp only [fieldOps, List.mem_cons, List.not_mem_nil, or_false] at ho
  rcases ho with rfl | rfl | rfl | rfl | rfl | rfl | rfl
  · exact ⟨fun h f s he _ => gives_aluWord1 he rfl rfl, fun h f s he _ => gives_uniWord he rfl rfl⟩
  · exact ⟨fun h f s he _ => gives_aluWord1 he rfl (ofNat_clzOf _ _), fun h f s he _ => gives_uniWord he rfl (ofNat_clzOf _ _)⟩
  · exact ⟨fun h f s he _ => gives_aluWord1 he rfl (ofNat_popOf _ _), fun h f s he _ => gives_uniWord he rfl (ofNat_popOf _ _)⟩
  · exact ⟨fun h f s he _ => gives_aluWord1 he rfl (ofNat_revOf _ _), fun h f s he _ => gives_uniWord he rfl (ofNat_revOf _ _)⟩
  · exact ⟨fun h f s he _ => gives_aluWord1 he rfl (bfxVal_eq _ _ _), fun h f s he _ => gives_uniWord he rfl (bfxVal_eq _ _ _)⟩
  · exact ⟨fun h f s he _ => gives_aluWord he rfl (bfiVal_eq_masked _ _ _ _), fun h f s he _ => gives_uniWord he rfl (bfiVal_eq_masked _ _ _ _)⟩
  · exact ⟨fun h f s he _ => gives_aluWord he rfl (addshVal_eq _ _ _), fun h f s he _ => gives_uniWord he rfl (addshVal_eq _ _ _)⟩

theorem predicateResults : PredicateResults := by
  refine ⟨fun o ho h f s he _ hc => ?_, fun o ho h f s he _ hc => ?_, fun h f s he => ?_, fun h f s he => ?_, fun h f s he => ?_,
    fun h f s he => ?_⟩
  · exact gives_coreWord he rfl (by rw [hc, cmpVal_eq ho])
  · exact gives_seqWord he rfl (by rw [hc, cmpVal_eq ho])
  · exact gives_coreWord he rfl (by rw [lutVal_eq_testBit, BitVec.testBit_toNat])
  · exact gives_seqWord he rfl (by rw [lutVal_mod, lutVal_eq_testBit, BitVec.testBit_toNat])
  · exact gives_coreWord he rfl rfl
  · exact gives_seqWord he rfl rfl

theorem immediateResults : ImmediateResults := by
  refine ⟨fun h f s he => ⟨?_, ?_, ?_⟩, fun h f s he => ⟨?_, ?_, ?_⟩, fun h f s he => ?_⟩
  · exact gives_aluWordI he rfl rfl
  · exact gives_aluWordI he rfl rfl
  · exact gives_aluWordI he rfl (addiVal_eq _ _ _)
  · exact gives_uniWordI he rfl rfl
  · exact gives_uniWordI he rfl rfl
  · exact gives_uniWordI he rfl (addiVal_eq _ _ _)
  · exact gives_coreWord he rfl rfl

/-- Settles O8: the value functions of the model are the bit-vector operations of the tables, and an enabled word of either column
puts its value on the agenda one cycle on. -/
theorem fieldsPredicatesAndImmediates : Obligations.FieldsPredicatesAndImmediates :=
  ⟨fieldResults, predicateResults, immediateResults⟩

end Sys2Proof.Machine
end

section
/-! PROOFS. Scalar access to the local store (R211 to R216). -/

namespace Sys2Proof.Machine

open Sys2Proof Sys2Proof.Claims

/-! ## Element types (R201, R212) -/

theorem tyBytes_eq (ty : BitVec 5) : tyBytes ty.toNat = elemBytes ty := by
  revert ty
  decide

theorem extendData_eq (ty : BitVec 5) (x : Nat) : extendData ty.toNat x = loaded ty x := by
  by_cases h16 : ty = 16
  · subst h16
    exact congrArg (BitVec.ofInt 64) (signedOf_eq_toInt x 8)
  by_cases h18 : ty = 18
  · subst h18
    exact congrArg (BitVec.ofInt 64) (signedOf_eq_toInt x 16)
  by_cases h20 : ty = 20
  · subst h20
    exact congrArg (BitVec.ofInt 64) (signedOf_eq_toInt x 32)
  have hs : tySigned ty.toNat = false := by
    revert ty
    decide
  rw [extendData, hs, loaded, if_neg h16, if_neg h18, if_neg h20]
  rfl

/-! ## Bytes -/

theorem memoryNat_lt (m : Memory) (a n : Nat) : Memory.nat m a n < 2 ^ (8 * n) := by
  induction n generalizing a with
  | zero => simp [Memory.nat]
  | succ n ih =>
    have hb := (Memory.byte m a).isLt
    have hr := ih (a + 1)
    rw [Memory.nat, Nat.mul_succ, Nat.pow_add]
    omega

theorem leBytes_mod (n x : Nat) : leBytes n (x % 2 ^ (8 * n)) = leBytes n x := by
  induction n generalizing x with
  | zero => rfl
  | succ n ih =>
    have hdvd : 2 ^ 8 ∣ 2 ^ (8 * (n + 1)) := Nat.pow_dvd_pow 2 (by omega)
    have hhead : BitVec.ofNat 8 (x % 2 ^ (8 * (n + 1))) = BitVec.ofNat 8 x :=
      BitVec.eq_of_toNat_eq (by rw [BitVec.toNat_ofNat, BitVec.toNat_ofNat, Nat.mod_mod_of_dvd x hdvd])
    have htail : x % 2 ^ (8 * (n + 1)) / 256 = x / 256 % 2 ^ (8 * n) := by
      rw [Nat.mul_succ, Nat.add_comm, Nat.pow_add, Nat.mod_mul_right_div_self]
    rw [leBytes, leBytes, hhead, htail, ih]

theorem bytesAt_mod (ea n x : Nat) : bytesAt ea n (x % 2 ^ (8 * n)) = bytesAt ea n x := by
  rw [bytesAt, leBytes_mod, bytesAt]

/-! ## The checks of an access (R211) -/

section
variable {s : State} {ea n : Nat}

theorem lsCheck_outside (h : 0x1800000 < ea + n) : s.lsCheck ea n = some 0 := by
  simp [State.lsCheck, lsIn, lsEnd, Nat.not_le.2 h]

theorem lsCheck_unaligned (hr : ea + n ≤ 0x1800000) (ha : ea % n ≠ 0) : s.lsCheck ea n = some 1 := by
  simp [State.lsCheck, lsIn, lsEnd, hr, ha]

theorem lsCheck_aligned (hr : ea + n ≤ 0x1800000) (ha : ea % n = 0) :
    s.lsCheck ea n = if s.core.portFails s.gcc [ea / 64] then some 2 else none := by
  simp [State.lsCheck, lsIn, lsEnd, hr, ha]

theorem core_usePort (s : State) (ws : List Nat) : (s.usePort ws).core = s.core.portAdd s.gcc s.gcc ws :=
  State.coreAt_modCore_same s _ _ _

theorem countCorrected_clean (h : s.core.cls ea = .clean) : s.countCorrected [ea] = s := by
  have hc : s.core.corrected [ea] = 0 := by
    have hk : Sparse.get .clean s.core.lsCls (ea / 8) = .clean := h
    simp [Core.corrected, hk]
  simp [State.countCorrected, hc]

variable {k : Nat → State → State}

theorem lsRead_refused {d : Nat} (h : s.lsCheck ea n = some d) : lsRead ea n k s = s.trapWord 0x0F d := by
  rw [lsRead, h]

/-- A read of a bad word consumes poison. -/
theorem lsRead_bad (h : s.lsCheck ea n = none) (hb : (s.core.cls ea).bad = true) :
    lsRead ea n k s = (s.usePort [ea / 64]).countPoison.consumePoison [ea] := by
  rw [lsRead, h]
  simp [Core.anyBad, hb]

theorem lsCheck_readable (h : Readable s ea n) : s.lsCheck ea n = none := by
  obtain ⟨hr, ha, hp, -⟩ := h
  rw [lsCheck_aligned hr ha, hp]
  rfl

theorem lsRead_readable (h : Readable s ea n) : lsRead ea n k s = k (Memory.nat s.core.ls ea n) (s.usePort [ea / 64]) := by
  have ⟨_, _, _, hcls⟩ := h
  have hport : (s.usePort [ea / 64]).core.cls ea = .clean := by rw [core_usePort]; exact hcls
  rw [lsRead, lsCheck_readable h, countCorrected_clean hport]
  simp [Core.anyBad, hcls, LsClass.bad]

end

/-! ## Atomic operations (R214, R215) -/

/-- The new value of an AMO at the width of its type; .ui32 alone compares unsigned. -/
theorem amoVal_eq {ty w : Nat} (hw : 8 * tyBytes ty = w) {signed : Bool} (hs : signed = decide (ty ≠ 21)) (op : BitVec 3) (old d : BitVec w) :
    amoVal ty op.toNat old.toNat d.toNat = (amoResult signed op old d).toNat := by
  have hless : (if ty = 21 then decide (old.toNat < d.toNat) else decide (signedOf old.toNat w < signedOf d.toNat w)) =
      if signed then old.slt d else old.ult d := by
    rw [signedOf_toNat, signedOf_toNat, hs]
    by_cases h : ty = 21
    · simp [h, BitVec.ult]
    · simp [h, BitVec.slt]
  have hop (k : BitVec 3) : op = k ↔ op.toNat = k.toNat := BitVec.toNat_inj.symm
  simp only [amoVal, amoResult, hw, hless, hop, apply_ite BitVec.toNat, BitVec.toNat_add, BitVec.toNat_and, BitVec.toNat_or, BitVec.toNat_xor]
  rfl

/-- The old value of an AMO is the number in memory, its operand the low bits of the register. -/
theorem amoVal_memory {ty : BitVec 5} {w n : Nat} (hn : elemBytes ty = n) (hw : 8 * n = w) {signed : Bool} (hs : signed = decide (ty.toNat ≠ 21))
    (op : BitVec 3) (m : Memory) (ea : Nat) (x : Word) :
    amoVal ty.toNat op.toNat (Memory.nat m ea n) (x.toNat % 2 ^ w) =
      (amoResult signed op (BitVec.ofNat w (Memory.nat m ea n)) (x.setWidth w)).toNat := by
  have hlt : Memory.nat m ea n < 2 ^ w := hw ▸ memoryNat_lt m ea n
  rw [← amoVal_eq (by rw [tyBytes_eq, hn, hw]) hs, BitVec.toNat_setWidth, BitVec.toNat_ofNat, Nat.mod_eq_of_lt hlt]

/-! ## The words of the local store (R211 to R216) -/

section
variable {h : Hdr} {f : MEM} {s : State}

theorem exec_ld (he : s.core.enabled h = true) : exec (.ld h f) s = .next
    (lsRead (s.core.memAddr f) (elemBytes f.ty) (fun x u => u.writeBack 5 [.a f.d.toNat (loaded f.ty x)]) s) := by
  simp only [← tyBytes_eq, ← extendData_eq]
  exact gives_coreWord he rfl rfl

theorem exec_st_refused {d : Nat} (he : s.core.enabled h = true) (hc : s.lsCheck (s.core.memAddr f) (elemBytes f.ty) = some d) :
    exec (.st h f) s = .next (s.trapWord 0x0F d) :=
  gives_coreWord he rfl (by simp only [tyBytes_eq, hc])

theorem exec_st_accepted (he : s.core.enabled h = true) (hc : s.lsCheck (s.core.memAddr f) (elemBytes f.ty) = none) :
    exec (.st h f) s = .next ((s.usePort [s.core.memAddr f / 64]).storeNow
      (bytesAt (s.core.memAddr f) (elemBytes f.ty) (s.core.ra f.d.toNat).toNat)) :=
  gives_coreWord he rfl (by simp only [tyBytes_eq, hc])

theorem exec_amo (he : s.core.enabled h = true) : exec (.amo h f) s = .next
    (lsRead (s.core.memAddr f) (elemBytes f.ty) (fun old u =>
      (u.storeNow (bytesAt (s.core.memAddr f) (elemBytes f.ty)
        (amoVal f.ty.toNat f.aux.toNat old ((s.core.ra f.d.toNat).toNat % 2 ^ (8 * elemBytes f.ty))))).writeBack 8
          [.a f.d.toNat (loaded f.ty old)]) s) := by
  simp only [← tyBytes_eq, ← extendData_eq]
  exact gives_coreWord he rfl rfl

theorem exec_acas (he : s.core.enabled h = true) : exec (.acas h f) s = .next
    (lsRead (s.core.memAddr f) (elemBytes f.ty) (fun old u =>
      (if old = (s.core.ra f.d.toNat).toNat % 2 ^ (8 * elemBytes f.ty) then
          u.storeNow (bytesAt (s.core.memAddr f) (elemBytes f.ty) (s.core.ra (f.d.toNat + 1)).toNat) else u).writeBack 8
        [.a f.d.toNat (loaded f.ty old), .p f.aux.toNat (decide (old = (s.core.ra f.d.toNat).toNat % 2 ^ (8 * elemBytes f.ty)))]) s) := by
  simp only [← tyBytes_eq, ← extendData_eq]
  refine gives_coreWord he rfl ?_
  simp only [bytesAt_mod]

end

/-- An AMO on a clean word stores what its operation gives at the width of its type. -/
theorem amo_readable {h : Hdr} {f : MEM} {s : State} {n w : Nat} {signed : Bool} (he : s.core.enabled h = true)
    (hr : Readable s (s.core.memAddr f) (elemBytes f.ty)) (hn : elemBytes f.ty = n) (hw : 8 * n = w)
    (hs : signed = decide (f.ty.toNat ≠ 21)) :
    Gives (.amo h f) s (((s.usePort [s.core.memAddr f / 64]).storeNow (bytesAt (s.core.memAddr f) n
        (amoResult signed f.aux (BitVec.ofNat w (Memory.nat s.core.ls (s.core.memAddr f) n)) ((s.core.ra f.d.toNat).setWidth w)).toNat)).writeBack 8
      [.a f.d.toNat (loaded f.ty (Memory.nat s.core.ls (s.core.memAddr f) n))]) := by
  rw [Gives, exec_amo he, lsRead_readable hr, hn, hw, amoVal_memory hn hw hs]

section
variable {i : Instr} {h : Hdr} {f : MEM} {s : State} (he : s.core.enabled h = true)
  (hi : i = .ld h f ∨ i = .st h f ∨ i = .amo h f ∨ i = .acas h f)
include he hi

/-- An access that fails a check of R211 traps at the word. -/
theorem access_refused {d : Nat} (hc : s.lsCheck (s.core.memAddr f) (elemBytes f.ty) = some d) : Gives i s (s.trapWord 0x0F d) := by
  rcases hi with rfl | rfl | rfl | rfl
  · rw [Gives, exec_ld he, lsRead_refused hc]
  · exact exec_st_refused he hc
  · rw [Gives, exec_amo he, lsRead_refused hc]
  · rw [Gives, exec_acas he, lsRead_refused hc]

/-- A read of a bad word consumes poison (R216). -/
theorem access_bad (hst : i ≠ .st h f) (hc : s.lsCheck (s.core.memAddr f) (elemBytes f.ty) = none)
    (hb : (s.core.cls (s.core.memAddr f)).bad = true) :
    Gives i s ((s.usePort [s.core.memAddr f / 64]).countPoison.consumePoison [s.core.memAddr f]) := by
  rcases hi with rfl | rfl | rfl | rfl
  · rw [Gives, exec_ld he, lsRead_bad hc hb]
  · exact absurd rfl hst
  · rw [Gives, exec_amo he, lsRead_bad hc hb]
  · rw [Gives, exec_acas he, lsRead_bad hc hb]

end

theorem scalarMemoryResults : ScalarMemoryResults := by
  intro h f s he hr
  extract_lets ea n old t eq
  refine ⟨?_, ?_, fun ht => ?_, fun ht => ?_, fun _ => ?_⟩
  · rw [Gives, exec_ld he, lsRead_readable hr]
  · exact exec_st_accepted he (lsCheck_readable hr)
  · have hn : elemBytes f.ty = 4 := by rcases ht with ht | ht <;> rw [ht] <;> rfl
    have hs : decide (f.ty = 20) = decide (f.ty.toNat ≠ 21) := by rcases ht with ht | ht <;> rw [ht] <;> rfl
    have hold : old = Memory.nat s.core.ls ea 4 := congrArg _ hn
    rw [hold]
    exact amo_readable he hr hn rfl hs
  · have hn : elemBytes f.ty = 8 := by rcases ht with ht | ht <;> rw [ht] <;> rfl
    have hs : true = decide (f.ty.toNat ≠ 21) := by rcases ht with ht | ht <;> rw [ht] <;> rfl
    have hold : old = Memory.nat s.core.ls ea 8 := congrArg _ hn
    rw [hold, ← (s.core.ra f.d.toNat).setWidth_eq]
    exact amo_readable he hr hn rfl hs
  · rw [Gives, exec_acas he, lsRead_readable hr]
    simp only [eq, decide_eq_true_eq]
    rfl

theorem scalarMemoryTraps : ScalarMemoryTraps := by
  intro h f s he
  extract_lets ea n word
  refine ⟨fun hout i hi => ?_, fun hr ha i hi => ?_, fun hr ha hp i hi => ?_, fun hr ha hp hcls i hi hst => ?_⟩
  · exact access_refused he hi (lsCheck_outside hout)
  · exact access_refused he hi (lsCheck_unaligned hr ha)
  · exact access_refused he hi (by rw [lsCheck_aligned hr ha, if_pos hp])
  · refine access_bad he hi hst (by rw [lsCheck_aligned hr ha, hp]; rfl) ?_
    rcases hcls with hcls | hcls <;> rw [hcls] <;> rfl

/-- Settles O9: every word of the local store runs the checks of R211 in their order and then reads, so a refused access and a bad
word end the word, and a readable one gives its table's value. -/
theorem scalarAccessesToTheLocalStore : Obligations.ScalarAccessesToTheLocalStore :=
  ⟨scalarMemoryResults, scalarMemoryTraps, fun _ _ => rfl⟩

end Sys2Proof.Machine
end
